-- ==== Sys2Proof/Word.lean ====
section
/-! DEFINITION. The word types of the Gorist (00 R5-R8: a word is 20 bits, an octet 8) and the
index ranges its units are numbered by, with the plainest arithmetic on them. -/

namespace Sys2Proof

/-- A word of the device: 20 bits (00, notation). -/
abbrev Word := BitVec 20

/-- An octet. -/
abbrev Octet := BitVec 8

/-- A Hewer's number, 0-15. -/
abbrev HewerId := Fin 16

/-- An activity ID (03 R88). -/
abbrev ActId := Fin 64

/-- A power island's number (22, islands). -/
abbrev Island := Fin 56

/-- An event's ID (24 R861). -/
abbrev EventId := Fin 128

/-- A switch port of the Landing: P0-P5, 6 the host port, 7 the Warden port (01, 03 R88). -/
abbrev SwPort := Fin 8

/-- A Tread's number: 8 x flight + Tread (04, PINS body). -/
abbrev TreadId := Fin 32

/-- Entry `i` of a vector replaced by `x`. -/
def vset {α : Type} {n : Nat} (v : Vector α n) (i : Fin n) (x : α) : Vector α n :=
  v.set i.val x i.isLt

/-- Entry `i` of a vector changed by `f`. -/
def vmod {α : Type} {n : Nat} (v : Vector α n) (i : Fin n) (f : α → α) : Vector α n :=
  vset v i (f v[i])

/-- `x` as an index below `n`, `x` modulo `n`. -/
def ix (n : Nat) [NeZero n] (x : Nat) : Fin n := Fin.ofNat n x

/-- One more, stopping at the largest value of the width (00 R867). -/
def satInc {w : Nat} (c : BitVec w) : BitVec w :=
  if c = BitVec.allOnes w then c else c + 1

/-- `k` more, stopping at the largest value of the width (00 R867). -/
def satAdd {w : Nat} (c : BitVec w) (k : Nat) : BitVec w :=
  BitVec.ofNat w (min (c.toNat + k) (2 ^ w - 1))

/-- A natural number cut off at the largest value of the width. -/
def satNat (w : Nat) (k : Nat) : BitVec w :=
  BitVec.ofNat w (min k (2 ^ w - 1))

/-- A counter stands at its largest value: its SAT bit where it has one (00 R867). -/
def isSat {w : Nat} (c : BitVec w) : Bool := c == BitVec.allOnes w

/-- One bit as a Bool. -/
def bit {w : Nat} (x : BitVec w) (i : Nat) : Bool := x.getLsbD i

/-- A Bool as a bit vector of width `w`. -/
def bool (w : Nat) (b : Bool) : BitVec w := if b then 1 else 0

/-- Bits `lo + w - 1` down to `lo`. -/
def fld {v : Nat} (x : BitVec v) (lo w : Nat) : BitVec w := (x >>> lo).setWidth w

/-- Bits `lo + w - 1` down to `lo`, as a number. -/
def fldN {v : Nat} (x : BitVec v) (lo w : Nat) : Nat := (fld x lo w).toNat

/-- A field's value shifted to its place in a 32-bit register. -/
def at32 {w : Nat} (x : BitVec w) (lo : Nat) : BitVec 32 := (x.setWidth 32) <<< lo

/-- A Bool at its place in a 32-bit register. -/
def bitAt (b : Bool) (lo : Nat) : BitVec 32 := at32 (bool 1 b) lo

/-- Two-word value: the low 20 bits in the first word (04, GLOBAL body). -/
def wide (lo hi : Word) (w : Nat) : BitVec w := (hi ++ lo).setWidth w

end Sys2Proof
end

