-- ==== Sys2Proof/Syntax.lean ====
section
/-! DEFINITION. The commands of the Gorist: one constructor per row of the table of operations and events, with the
row's operands. Where a row is something the surroundings do (a frame arrives, a sensor is sampled, a bus error is
detected), the operands say what the device meets there; where an agent writes or reads a register, the operand
names the agent. -/

namespace Sys2Proof

/-- Who writes or reads a register: the host, the Warden or a Hewer (01, 02 R69). -/
inductive Agent
  | host
  | warden
  | hewer (n : Fin 16)
  deriving DecidableEq, Repr

/-- An Ahneafin engine: a Hewer or the Warden's lockstep pair (06). -/
inductive EngineId
  | hewer (n : Fin 16)
  | warden
  deriving DecidableEq, Repr

/-- A register whose lower words are held until the highest-addressed word commits them (02 R85). -/
inductive HeldReg | rate | adj | set
  deriving DecidableEq, Repr

/-- Fields of a long three-register instruction (06 R252, L3). -/
structure L3 where
  rd  : Fin 16
  rs  : Fin 16
  rt  : Fin 16
  z   : BitVec 4
  aux : BitVec 12
  deriving DecidableEq, Repr

/-- The two forms of an operation that has an S2 and an L3 code (07 R286). -/
inductive R2
  | s2 (rd rs : Fin 16)
  | l3 (f : L3)
  deriving DecidableEq, Repr

/-- Fields of an LI instruction (06 R252). -/
structure LI where
  rd  : Fin 16
  rs  : Fin 16
  imm : Word
  deriving DecidableEq, Repr

/-- Fields of an SI instruction (06 R251). -/
structure SI where
  imm : BitVec 8
  rd  : Fin 16
  deriving DecidableEq, Repr

/-- Fields of an LB instruction but for OP (06 R252). -/
structure LB where
  cond : BitVec 4
  z    : BitVec 4
  rs   : Fin 16
  addr : Word
  deriving DecidableEq, Repr

/-- Fields of an LM instruction but for OP (06 R252). -/
structure LM where
  abs  : Bool
  rd   : Fin 16
  rb   : Fin 16
  disp : Word
  deriving DecidableEq, Repr

/-- The two memory forms (06 R251, R252): SM and LM. -/
inductive MemForm
  | sm (off : BitVec 6) (rd rb : Fin 16)
  | lm (f : LM)
  deriving DecidableEq, Repr

/-- Where a command to the Warden comes from: a host context's Chute or the service port (19). -/
inductive CmdSource
  | ctx (h : Fin 4)
  | svp
  deriving DecidableEq, Repr

/-- A part of an event's route (18, Routing). -/
inductive RoutePart | pins | msix | wdn | hewer
  deriving DecidableEq, Repr

/-- An endpoint of a Chute channel (18 R655). -/
inductive ChuteEnd
  | ctx (h : Fin 4)
  | warden
  | hewer (n : Fin 16)
  deriving DecidableEq, Repr

/-- A frame as a CAN controller receives it, in the fields of a buffer's header and its data words (14 R522). -/
structure CanFrame where
  ident : BitVec 29
  ide   : Bool
  rtr   : Bool
  fdf   : Bool
  xlf   : Bool
  brs   : Bool
  esi   : Bool
  len   : BitVec 12
  /-- H6: SDT, SEC, VCID. -/
  xl    : Word
  data  : List Word
  deriving DecidableEq, Repr

/-- What triggers an H reset (17, Host-side reset). -/
inductive HostResetCause
  | key (v : Word)
  | hotReset
  | flr
  | linkDown
  deriving DecidableEq, Repr

/-- A completed sensor sample (19 R705). -/
inductive Sample
  | temp (i : Fin 8) (v : BitVec 12)
  | vin (mv : BitVec 16)
  | iin (ma : BitVec 13)
  | rail (i : Fin 12) (mv : BitVec 13)
  | clocks (ok : BitVec 4)
  | crystal (ppm : BitVec 16)
  deriving DecidableEq, Repr

/-- A consumer of random bits (20, Random numbers). -/
inductive RngConsumer
  | host
  | hewer (n : Fin 16)
  | warden
  deriving DecidableEq, Repr

/-- A command (one constructor per row of the opcode table). -/
inductive Instr
  -- Strokes, time, scheduler (02), budgets (03) and layouts (04).
  | strokeBoundary
  | phaseStart (p : Fin 3)
  | settlePoint (g : Fin 128) (reading : BitVec 128)
  | secondsCarry
  | timeAdjust (a : Agent) (hi : Word)
  | slewComplete
  | timeSet (a : Agent) (w3 : Word)
  | rateTrimWrite (a : Agent) (hi : Word)
  | lowerWordDiscard (r : HeldReg)
  | measWrite (a : Agent) (v : Word)
  | syncIntervalEnd
  | holdoverExpiry
  | schedArm (a : Agent) (n : Fin 16) (ctrl : BitVec 32)
  | schedCancel (a : Agent) (n : Fin 16)
  | ppsCapture (n : Fin 2)
  | ppsPulse (n : Fin 2)
  | budgetPark (a : Fin 64)
  | layoutStage (src : CmdSource) (tag : BitVec 8) (slot : BitVec 3)
  | stageWriteComplete
  | layoutActivate (src : CmdSource) (tag : BitVec 8)
  | layoutActivateAt (src : CmdSource) (tag : BitVec 8) (loc kind : Bool) (target : Vector Word 4)
  | layoutActivateCancel (src : CmdSource) (tag : BitVec 8)
  | hingeEnd
  | coldLoadComplete (n : Fin 16)
  | coldPauseEnd (n : Fin 16)
  | planeFault
  -- Ahneafin instructions (06, 07): the engine and the fields of the instruction's encoding.
  | interruptEntry (e : EngineId) (v : Fin 32)
  | exceptionEntry (e : EngineId) (cause : BitVec 4) (detail : Word)
  | hewerFault (n : Fin 16) (cause : BitVec 4)
  | mov (e : EngineId) (rd rs : Fin 16)
  | movd (e : EngineId) (rd rs : Fin 16)
  | movq (e : EngineId) (f : SI)
  | movi (e : EngineId) (f : LI)
  | add (e : EngineId) (f : R2)
  | adc (e : EngineId) (f : R2)
  | sub (e : EngineId) (f : R2)
  | sbc (e : EngineId) (f : R2)
  | cmp (e : EngineId) (rd rs : Fin 16)
  | neg (e : EngineId) (rd rs : Fin 16)
  | addi (e : EngineId) (f : LI)
  | addq (e : EngineId) (f : SI)
  | cmpi (e : EngineId) (f : LI)
  | cmpq (e : EngineId) (f : SI)
  | and (e : EngineId) (f : R2)
  | or (e : EngineId) (f : R2)
  | xor (e : EngineId) (f : R2)
  | andi (e : EngineId) (f : LI)
  | ori (e : EngineId) (f : LI)
  | xori (e : EngineId) (f : LI)
  | not (e : EngineId) (rd rs : Fin 16)
  | tst (e : EngineId) (rd rs : Fin 16)
  | tsti (e : EngineId) (f : LI)
  | qadd (e : EngineId) (f : R2)
  | qsub (e : EngineId) (f : R2)
  | qaddu (e : EngineId) (f : R2)
  | qsubu (e : EngineId) (f : R2)
  | mul (e : EngineId) (f : R2)
  | mulu (e : EngineId) (f : L3)
  | muls (e : EngineId) (f : L3)
  | addd (e : EngineId) (f : L3)
  | subd (e : EngineId) (f : L3)
  | shl (e : EngineId) (f : R2)
  | shr (e : EngineId) (f : R2)
  | asr (e : EngineId) (f : R2)
  | ror (e : EngineId) (f : R2)
  | shlq (e : EngineId) (f : SI)
  | shrq (e : EngineId) (f : SI)
  | asrq (e : EngineId) (f : SI)
  | par (e : EngineId) (rd rs : Fin 16)
  | swp (e : EngineId) (rd rs : Fin 16)
  | mkg (e : EngineId) (rd rs : Fin 16)
  | mks (e : EngineId) (rd rs : Fin 16)
  | mkc (e : EngineId) (rd rs : Fin 16)
  | mko (e : EngineId) (f : SI)
  | btst (e : EngineId) (f : SI)
  | bset (e : EngineId) (f : SI)
  | bclr (e : EngineId) (f : SI)
  | brev (e : EngineId) (f : L3)
  | bfx (e : EngineId) (f : L3)
  | bfi (e : EngineId) (f : L3)
  | sxt (e : EngineId) (f : L3)
  | ld (e : EngineId) (f : MemForm)
  | st (e : EngineId) (f : MemForm)
  | ldd (e : EngineId) (f : MemForm)
  | std (e : EngineId) (f : MemForm)
  | lea (e : EngineId) (f : LM)
  | push (e : EngineId) (imm : BitVec 8)
  | pop (e : EngineId) (imm : BitVec 8)
  | bcc (e : EngineId) (cond : BitVec 4) (off : BitVec 12)
  | jcc (e : EngineId) (f : LB)
  | callcc (e : EngineId) (f : LB)
  | jrcc (e : EngineId) (f : LB)
  | callrcc (e : EngineId) (f : LB)
  | ret (e : EngineId) (imm : BitVec 8)
  | csel (e : EngineId) (f : L3)
  | crc (e : EngineId) (f : L3)
  | bcrc (e : EngineId) (f : L3) (steps : Nat)
  | bcpy (e : EngineId) (f : L3) (steps : Nat)
  | bfil (e : EngineId) (f : L3) (steps : Nat)
  | bpve (e : EngineId) (f : L3) (steps : Nat)
  | pqnt (e : EngineId) (f : L3)
  | pdeq (e : EngineId) (f : L3)
  | pdlt (e : EngineId) (f : L3)
  | pdbd (e : EngineId) (f : LI)
  | lpush (e : EngineId) (f : L3)
  | lpop (e : EngineId) (f : L3)
  | cfree (e : EngineId) (f : L3)
  | pswap (e : EngineId) (f : L3)
  | stake (e : EngineId) (f : L3)
  | nop (e : EngineId) (imm : BitVec 8)
  | yield (e : EngineId) (imm : BitVec 8)
  | wait (e : EngineId) (imm : BitVec 8)
  | reti (e : EngineId) (imm : BitVec 8)
  | ei (e : EngineId) (imm : BitVec 8)
  | di (e : EngineId) (imm : BitVec 8)
  | trap (e : EngineId) (imm : BitVec 8)
  | ckpt (e : EngineId) (imm : BitVec 8)
  -- Stalls, Hewer control, taps and semaphores (05-09).
  | loadStallEnd (n : Fin 16) (arrived : Nat)
  | verdictReadStallEnd (n : Fin 16)
  | storeStallEnd (n : Fin 16)
  | releaseDrainEnd (n : Fin 16)
  | rxNextStallEnd (n : Fin 16)
  | pushStallEnd (n : Fin 16)
  | microRoutineVerdictWaitEnd (n : Fin 16)
  | microRoutineQueueWaitEnd (n : Fin 16)
  | listHoldEnd (n : Fin 16)
  | waitEnd (e : EngineId)
  | hewerHalt (a : Agent) (n : Fin 16)
  | hewerResume (a : Agent) (n : Fin 16)
  | hewerStep (a : Agent) (n : Fin 16)
  | engineReset (a : Agent) (n : Fin 16) (reload : Bool)
  | engineResetEnd (n : Fin 16)
  | evtRaise (e : EngineId) (id : BitVec 7)
  | rxNext (e : EngineId)
  | txDescWrite (e : EngineId) (i : Fin 3) (v : Word)
  | txPush (e : EngineId) (v : Word) (green : Bool)
  | txAbort (e : EngineId)
  | txTsqRead (e : EngineId)
  | semTake (e : EngineId) (k : Fin 64)
  | semRelease (e : EngineId) (k : Fin 64)
  | pvcDataRead (n : Fin 16)
  | eventRouteWrite (a : Agent) (e : Fin 128) (part : RoutePart) (v : BitVec 32)
  | commitWrite (n : Fin 16)
  -- Ethernet ports (11), the Landing (12) and the Grader (13).
  | rxFrame (p : Fin 6) (octets : List Octet) (arrived : Nat)
  | frameVerdict (p : Fin 6) (symbol align lost : Bool)
  | egressFrameStart (p : Fin 6)
  | egressFrameEnd (p : Fin 6)
  | gateEntryChange (p : Fin 6)
  | collision (p : Fin 4) (late : Bool)
  | linkStateChange (p : Fin 6) (up full : Bool) (speed : BitVec 3) (mdix anDone noHcd : Bool)
  | burstDetected (p : Fin 4)
  | freezeEnd (p : Fin 4)
  | diagStart (a : Agent) (p : Fin 6)
  | diagComplete (p : Fin 4) (result : BitVec 24)
  | anRestart (a : Agent) (p : Fin 6)
  | tallySnapshot (a : Agent) (clr : Bool)
  | mdioCommand (a : Agent) (cmd : BitVec 30)
  | mdioComplete (data : BitVec 16)
  | agingVisit (race : Option Nat)
  | ltFlush (a : Agent) (ports : BitVec 8)
  | ltFlushDone
  | frerReset (k : Fin 256)
  | offcutExpiry (e : Fin 64)
  | offcutFlush (a : Agent)
  | tableDataRead (a : Agent)
  -- The Gallery and the host windows (10, 17).
  | swapRequest (a : Agent) (g : Fin 128)
  | deferredSwap
  | leaseAcquire (mask : BitVec 16)
  | leaseRelease (mask : BitVec 16)
  | hostGalleryRead (addr : Nat) (count : Nat) (flaws : List (Nat × Bool))
  | hostGalleryWrite (addr : Nat) (octets : List (Option Octet))
  | windowCRead (addr count : Nat)
  -- CAN (14).
  | canFrameValid (c : Fin 4) (f : CanFrame) (sofAgo : Nat)
  | canTxRequest (a : Agent) (c : Fin 4) (b : Fin 128)
  | canTxAbort (a : Agent) (c : Fin 4) (b : Fin 128)
  | canTxStart (c : Fin 4)
  | canTxDone (c : Fin 4)
  | canArbitrationLoss (c : Fin 4)
  | canBusError (c : Fin 4) (type : BitVec 3) (phase : BitVec 2) (tec rec_ : Nat)
  | canRecover (a : Agent) (c : Fin 4)
  | canRecoveryDone (c : Fin 4)
  | canWindowMiss (c : Fin 4) (b : Fin 128)
  | canAck (a : Agent) (c : Fin 4) (v : Word)
  | canModeWrite (a : Agent) (c : Fin 4) (v : BitVec 32)
  | canBusIntegration (c : Fin 4)
  -- Treads (15): `pins` is what slots 0-7 read.
  | pause (t : Fin 32) (n : BitVec 10)
  | put (t : Fin 32) (kind : BitVec 2) (data : BitVec 8)
  | gather (t : Fin 32) (src : BitVec 2) (n : BitVec 5) (pins : BitVec 8)
  | scatter (t : Fin 32) (dst : BitVec 2) (n : BitVec 5)
  | br (t : Fin 32) (cond : BitVec 4) (rel : BitVec 6) (pins : BitVec 8)
  | jump (t : Fin 32) (mode : BitVec 2) (addr : BitVec 8)
  | hold (t : Fin 32) (src : BitVec 2) (pol : Bool) (idx : Fin 8) (pins : BitVec 8)
  | atTime (t : Fin 32) (reg adv lapq : Bool)
  | copy (t : Fin 32) (dst src : BitVec 3) (opn : BitVec 2) (pins : BitVec 8)
  | ldi (t : Fin 32) (y : Bool) (imm : BitVec 9)
  | cnt (t : Fin 32) (opc : BitVec 2)
  | feedTake (t : Fin 32) (once cond tox : Bool)
  | feedGive (t : Fin 32) (once cond : Bool)
  | treadYield (t : Fin 32)
  | signal (t : Fin 32)
  | fset (t : Fin 32) (i : Fin 8)
  | fclr (t : Fin 32) (i : Fin 8)
  | treadCmp (t : Fin 32) (withImm : Bool) (imm : BitVec 9)
  | atMatch (t : Fin 32)
  | treadWaitEnd (t : Fin 32) (pins : BitVec 8)
  | treadTimeWrap
  | flightStart (a : Agent) (f : Fin 4) (mask : BitVec 8)
  | clockRestart (a : Agent) (f : Fin 4) (mask : BitVec 8)
  | flushRx (a : Agent) (t : Fin 32)
  | flushTx (a : Agent) (t : Fin 32)
  | txfPush (a : Agent) (t : Fin 32) (v : Word)
  | rxfPop (a : Agent) (t : Fin 32)
  | programDataRead (a : Agent) (f : Fin 4)
  | flightHalt (a : Agent) (f : Fin 4)
  | flightResume (a : Agent) (f : Fin 4)
  | flightReset (a : Agent) (f : Fin 4)
  | flightResetEnd (f : Fin 4)
  -- The two-wire bus (16).
  | twbXfer (a : Agent) (b : Fin 3) (v : Word)
  | twbTransferStart (b : Fin 3)
  | twbTransferDone (b : Fin 3) (status : BitVec 4) (count : Nat) (rx : List Octet)
  | twbArbitrationLoss (b : Fin 3) (inAddress : Bool) (seen : List Bool)
  | twbHoldStop (b : Fin 3)
  | twbTargetTransfer (b : Fin 3) (ten : Bool) (addr : BitVec 10) (rd : Bool) (octets : List Octet) (count : Nat)
  | twbStretchTimeout (b : Fin 3)
  | twbTimeout (b : Fin 3)
  | twbStuck (b : Fin 3)
  | twbRecover (a : Agent) (b : Fin 3)
  | twbRecoveryEnd (b : Fin 3) (sdaHigh : Bool)
  | twbAlertIn (b : Fin 3)
  | alertSet (a : Agent) (b : Fin 3)
  | alertClr (a : Agent) (b : Fin 3)
  | attnGo (a : Agent) (b : Fin 3)
  | twbFlush (a : Agent) (b : Fin 3)
  | twbAttentionReceive (b : Fin 3) (octets : List Octet)
  | attnRxHdRead (a : Agent) (b : Fin 3)
  | twbTxdPush (a : Agent) (b : Fin 3) (v : Octet)
  | twbTtxPush (a : Agent) (b : Fin 3) (v : Octet)
  | twbRxdPop (a : Agent) (b : Fin 3)
  | twbTrxPop (a : Agent) (b : Fin 3)
  -- Host interfaces (17): descriptors as octets 8-11 and 12-15, with the buffer's content; a parallel write's enables, bit k set
  -- for octet k; offsets in Window A.
  | dmaTxDescriptor (c : Fin 8) (info aux : BitVec 32) (octets : List Octet)
  | dmaRxFrame (c : Fin 8) (info aux : BitVec 32)
  | dmaBusError (c : Fin 8) (writeBack : Bool) (info aux : BitVec 32)
  | dmaTailWrite (c : Fin 8) (v : BitVec 12)
  | dmaCfgWrite (c : Fin 8) (v : BitVec 32)
  | qspiRead (addr : BitVec 24) (len : BitVec 8)
  | qspiWrite (addr : BitVec 24) (len : BitVec 8) (data : List Octet)
  | qspiStatus (opcode : Octet)
  | parallelRead (addr : BitVec 17)
  | parallelWrite (addr : BitVec 17) (data : BitVec 16) (be : BitVec 2)
  | writeBufferDrain
  | d3hotEntry
  | d0Return
  | hostReset (c : HostResetCause)
  | hostResetComplete
  | pcieLinkUp (speed width : BitVec 2)
  | registerWrite (a : Agent) (off : Nat) (v : BitVec 32)
  | latchedRead (a : Agent) (off : Nat)
  | resultRead (a : Agent) (off : Nat)
  -- Chutes and events (18).
  | chuteSlotWrite (a : ChuteEnd) (c : Fin 168) (i : Fin 16) (v : Word)
  | chuteSend (a : ChuteEnd) (c : Fin 168) (len : BitVec 5)
  | chuteFree (a : ChuteEnd) (c : Fin 168)
  | chuteAckAbort (a : ChuteEnd) (c : Fin 168)
  | eventStatusClear (a : Agent) (k : Fin 4) (v : BitVec 32)
  | eventCountClear (a : Agent)
  | msixMessage (v : Fin 32)
  -- The Warden (19), security (20) and updates (21).
  | comparatorFlag (g : Fin 48)
  | wardenRamEcc (addr : BitVec 17) (fixable : Bool)
  | ckptLimitExpiry
  | managementRestartResume (test : Option (Fin 48)) (digestOk journalOk : Bool)
  | releaseQueueRelease
  | stepqPop
  | flashProgram
  | flashErase
  | flashTakeLock
  | flashReleaseLock
  | flashOperationComplete (ok : Bool)
  | status (src : CmdSource) (tag : BitVec 8)
  | systemReset (src : CmdSource) (tag : BitVec 8) (key : Word)
  | systemResetTimer
  | logRead (src : CmdSource) (tag : BitVec 8) (seq : BitVec 40)
  | sensorRead (src : CmdSource) (tag : BitVec 8) (group : BitVec 2)
  | snapshot (src : CmdSource) (tag : BitVec 8)
  | commandUnknown (src : CmdSource) (tag : BitVec 8) (code : BitVec 12)
  | islandClaim (src : CmdSource) (tag : BitVec 8) (i : BitVec 6)
  | islandRelease (src : CmdSource) (tag : BitVec 8) (i : BitVec 6)
  | challenge (src : CmdSource) (tag : BitVec 8)
  | unlock (src : CmdSource) (tag : BitVec 8)
  | relock (src : CmdSource) (tag : BitVec 8)
  | revoke (src : CmdSource) (tag : BitVec 8)
  | pkeyDisable (src : CmdSource) (tag : BitVec 8)
  | nonceExpiry
  | updateBegin (src : CmdSource) (tag : BitVec 8) (typeSlot size : Word) (digest : BitVec 256)
  | updateBlock (src : CmdSource) (tag : BitVec 8) (offset count : Word) (ok : Bool)
  | updateEnd (src : CmdSource) (tag : BitVec 8)
  | updateActivate (src : CmdSource) (tag : BitVec 8) (typeSlot flags timeout hewers : Word)
  | updateActivateAt (src : CmdSource) (tag : BitVec 8) (typeSlot flags timeout hewers : Word) (target : Vector Word 4)
  | updateActivateCancel (src : CmdSource) (tag : BitVec 8) (typeSlot flags : Word)
  | updateConfirm (src : CmdSource) (tag : BitVec 8)
  | updateTimeout
  | firmwareSwitch (test : Option (Fin 48))
  | trialDeadline
  | challengeReq
  | openSession (words : List Word)
  | dataMessage (words : List Word)
  | closeSession
  | usbBusReset
  | sessionTimeout
  | servicePortAttach
  | sensorSample (v : Sample)
  | controlledStopHalt
  | rngRequest (c : RngConsumer)
  | rngResult (c : RngConsumer)
  | healthTestFail (bits : List Bool)
  | startupTestComplete (bits : List Bool)
  | reseedComplete
  | drbgReseed
  | attestationStart (a : Agent)
  | attestationComplete
  -- Supply, islands and resets (22).
  | islandPowerOnRequest (a : Agent) (i : BitVec 6)
  | islandPowerOffRequest (a : Agent) (i : BitVec 6)
  | islandOffComplete
  | pResetComplete (i : Fin 56)
  | reapplyComplete (i : Fin 56)
  | powerOn
  | brownout
  | overvoltage
  | overvoltageRecovery
  | railReset (r : Fin 8)
  | thermalTrip
  | thermalTripRecovery
  | clockHold
  | clockHoldRelease
  | pllBUnlock
  | pllBLock
  | pcieRefclkLoss
  | resetN (ns : Nat)
  | resetRelease (hsel : BitVec 2) (test : Option (Fin 48)) (aonAgo : Nat)
  | romLoadComplete
  | bootLayoutLoad
  | drowseRequest (a : Agent)
  | deepRequest (a : Agent)
  | wakeRequest (a : Agent)
  | drowseEntry
  | deepEntry
  | wakeN
  | alarmWake
  | hostWake (off : Nat)
  | energyWake (p : Fin 4)
  | drowseWakeComplete
  | sbuCounterClear (a : Agent)
  deriving DecidableEq, Repr

end Sys2Proof
end

