-- ==== Sys2Proof/Config.lean ====
section
/-! DEFINITION. What the manual leaves to outside standards or leaves open: constants without a body,
so that no proof can see a value of them. -/

namespace Sys2Proof.Config

/-- FREE VALUE: what the manual leaves open, the `k`-th time a value is needed (log 5). -/
opaque freeValue (k w : Nat) : BitVec w

/-- ECDSA P-256 verification (FIPS 186) of a digest under the public key (x, y) (04 R147, 20 R738). -/
opaque ecdsaVerify (x y digest r s : BitVec 256) : Bool

/-- AES-256-GCM decryption of a package image under package key `key`, with the octets `aad` authenticated beside it (05 R232):
the octets, or none when the tag does not verify. -/
opaque gcmOpen (key : Fin 16) (iv : BitVec 96) (tag : BitVec 128) (aad image : List Octet) : Option (List Octet)

/-- ECDSA P-256 signature of the device's identity key (20 R756), drawing on entropy `k`. -/
opaque ecdsaSign (k : Nat) (digest : BitVec 256) : BitVec 512

/-- Octet time of the host port (6) and of the Warden port (7) in fifths of a nanosecond, by which egress budgets are charged there
(03 R93): the manual gives neither port a line rate (log 168). -/
opaque portOctTime : Nat → Nat

/-- Word `k` of the Warden's ROM (19 R686): its content is the maker's, not in the manual (log 2). -/
opaque romWord : Nat → Word

/-- Further cycles of an access to a Loft or Gallery bank that activity `act` begins in core cycle `cyc` at its word `a`, when another
requester contends for the bank (05 R189). FREE VALUE (log 61). -/
opaque contention (cyc act a : Nat) : Nat

end Sys2Proof.Config
end

