-- ==== Sys2Proof/Machine/Mem.lean ====
section
/-! DEFINITION. Memory as plain data: a list of (address, content) pairs in one canonical form, addresses
strictly rising and no entry equal to what an unlisted address reads as (`d`). Every RAM of the device is
held so: Loft, Gallery frames, local memories, Warden RAM, flash. -/

namespace Sys2Proof.Machine

/-- A memory's listed content. -/
abbrev Mem (α : Type) := List (Nat × α)

/-- The content of address `a`; `d` where nothing is listed. -/
def memRead {α : Type} (d : α) : Mem α → Nat → α
  | [], _ => d
  | (k, v) :: m, a => if k = a then v else memRead d m a

/-- Put `v` at address `a` of a list whose addresses rise. -/
def memPut {α : Type} (a : Nat) (v : α) : Mem α → Mem α
  | [] => [(a, v)]
  | (k, u) :: m =>
    if a < k then (a, v) :: (k, u) :: m
    else if a = k then (a, v) :: m
    else (k, u) :: memPut a v m

/-- Remove address `a`. -/
def memDel {α : Type} (a : Nat) : Mem α → Mem α
  | [] => []
  | (k, u) :: m => if k = a then memDel a m else (k, u) :: memDel a m

/-- Write `v` at address `a`, keeping the canonical form. -/
def memWrite {α : Type} [DecidableEq α] (d : α) (m : Mem α) (a : Nat) (v : α) : Mem α :=
  if v = d then memDel a m else memPut a v m

/-- Write a run of contents from address `a` on. -/
def memWriteRun {α : Type} [DecidableEq α] (d : α) (m : Mem α) (a : Nat) : List α → Mem α
  | [] => m
  | v :: vs => memWriteRun d (memWrite d m a v) (a + 1) vs

/-- The contents of `n` addresses from `a` on. -/
def memReadRun {α : Type} (d : α) (m : Mem α) (a : Nat) : Nat → List α
  | 0 => []
  | n + 1 => memRead d m a :: memReadRun d m (a + 1) n

/-- Set `n` addresses from `a` on back to what an unlisted address reads as. -/
def memClear {α : Type} (m : Mem α) (a n : Nat) : Mem α :=
  m.filter fun e => decide (e.1 < a ∨ a + n ≤ e.1)

/-- Every listed address is at least `b`, addresses rise strictly, and no entry holds `d`. -/
def memWfFrom {α : Type} [DecidableEq α] (d : α) : Nat → Mem α → Bool
  | _, [] => true
  | b, (k, v) :: m => decide (b ≤ k) && decide (v ≠ d) && memWfFrom d (k + 1) m

/-- The canonical form of a memory. -/
def memWf {α : Type} [DecidableEq α] (d : α) (m : Mem α) : Bool := memWfFrom d 0 m

end Sys2Proof.Machine
end

