-- ==== Sys2Proof/Machine/Sha256.lean ====
section
/-! DEFINITION. SHA-256 (FIPS 180-4), the digest the manual names throughout (04 R145; 05 R230; 09 R352; 19 R691; 20 R727, R756).
Its 32-bit words are numbers below 2^32. -/

namespace Sys2Proof.Machine

/-- A rotation right by `n`, and a shift right. -/
def rotr32 (n x : Nat) : Nat := x / 2 ^ n + x % 2 ^ n * 2 ^ (32 - n)

/-- The first 32 bits of the fractional parts of the cube roots of the first 64 primes. -/
def shaK : List Nat :=
  [0x428a2f98, 0x71374491, 0xb5c0fbcf, 0xe9b5dba5, 0x3956c25b, 0x59f111f1, 0x923f82a4, 0xab1c5ed5,
   0xd807aa98, 0x12835b01, 0x243185be, 0x550c7dc3, 0x72be5d74, 0x80deb1fe, 0x9bdc06a7, 0xc19bf174,
   0xe49b69c1, 0xefbe4786, 0x0fc19dc6, 0x240ca1cc, 0x2de92c6f, 0x4a7484aa, 0x5cb0a9dc, 0x76f988da,
   0x983e5152, 0xa831c66d, 0xb00327c8, 0xbf597fc7, 0xc6e00bf3, 0xd5a79147, 0x06ca6351, 0x14292967]
  ++ [0x27b70a85, 0x2e1b2138, 0x4d2c6dfc, 0x53380d13, 0x650a7354, 0x766a0abb, 0x81c2c92e, 0x92722c85,
   0xa2bfe8a1, 0xa81a664b, 0xc24b8b70, 0xc76c51a3, 0xd192e819, 0xd6990624, 0xf40e3585, 0x106aa070,
   0x19a4c116, 0x1e376c08, 0x2748774c, 0x34b0bcb5, 0x391c0cb3, 0x4ed8aa4a, 0x5b9cca4f, 0x682e6ff3,
   0x748f82ee, 0x78a5636f, 0x84c87814, 0x8cc70208, 0x90befffa, 0xa4506ceb, 0xbef9a3f7, 0xc67178f2]

/-- The eight working words. -/
structure Sha where
  a : Nat
  b : Nat
  c : Nat
  d : Nat
  e : Nat
  f : Nat
  g : Nat
  h : Nat
  deriving DecidableEq, Repr

/-- The first 32 bits of the fractional parts of the square roots of the first eight primes. -/
def Sha.first : Sha :=
  { a := 0x6a09e667, b := 0xbb67ae85, c := 0x3c6ef372, d := 0xa54ff53a, e := 0x510e527f, f := 0x9b05688c, g := 0x1f83d9ab,
    h := 0x5be0cd19 }

/-- One round with constant plus schedule word `kw`. -/
def Sha.round (x : Sha) (kw : Nat) : Sha :=
  let s1 := rotr32 6 x.e ^^^ rotr32 11 x.e ^^^ rotr32 25 x.e
  let ch := (x.e &&& x.f) ^^^ ((0xFFFFFFFF - x.e) &&& x.g)
  let t1 := x.h + s1 + ch + kw
  let s0 := rotr32 2 x.a ^^^ rotr32 13 x.a ^^^ rotr32 22 x.a
  let maj := (x.a &&& x.b) ^^^ (x.a &&& x.c) ^^^ (x.b &&& x.c)
  { a := (t1 + s0 + maj) % 2 ^ 32, b := x.a, c := x.b, d := x.c, e := (x.d + t1) % 2 ^ 32, f := x.e, g := x.f, h := x.g }

/-- The message schedule's next words, from the sixteen before them. -/
def shaSchedule : Nat → List Nat → List Nat
  | 0, _ => []
  | n + 1, w =>
    let x := w.getD 1 0
    let y := w.getD 14 0
    let s0 := rotr32 7 x ^^^ rotr32 18 x ^^^ x / 2 ^ 3
    let s1 := rotr32 17 y ^^^ rotr32 19 y ^^^ y / 2 ^ 10
    w.headD 0 :: shaSchedule n (w.tail ++ [(w.headD 0 + s0 + w.getD 9 0 + s1) % 2 ^ 32])

/-- One block of sixteen words. -/
def Sha.block (x : Sha) (w : List Nat) : Sha :=
  let y := ((shaSchedule 64 w).zip shaK).foldl (fun y p => y.round (p.1 + p.2)) x
  { a := (x.a + y.a) % 2 ^ 32, b := (x.b + y.b) % 2 ^ 32, c := (x.c + y.c) % 2 ^ 32, d := (x.d + y.d) % 2 ^ 32,
    e := (x.e + y.e) % 2 ^ 32, f := (x.f + y.f) % 2 ^ 32, g := (x.g + y.g) % 2 ^ 32, h := (x.h + y.h) % 2 ^ 32 }

/-- Big-endian 32-bit words of octets, four at a time. -/
def words32 : List Octet → List Nat
  | a :: b :: c :: d :: t => (((a.toNat * 256 + b.toNat) * 256 + c.toNat) * 256 + d.toNat) :: words32 t
  | _ => []

/-- The message with its padding and its length in bits. -/
def shaPad (m : List Octet) : List Octet :=
  m ++ 0x80 :: List.replicate ((119 - m.length % 64) % 64) 0
    ++ (List.range 8).map fun k => BitVec.ofNat 8 (8 * m.length / 256 ^ (7 - k))

/-- The blocks of a list of words, `n` of them. -/
def Sha.blocks : Nat → List Nat → Sha → Sha
  | 0, _, x => x
  | n + 1, w, x => Sha.blocks n (w.drop 16) (x.block (w.take 16))

def Sha.value (x : Sha) : Nat :=
  [x.a, x.b, x.c, x.d, x.e, x.f, x.g, x.h].foldl (fun v w => v * 2 ^ 32 + w) 0

/-- SHA-256 of an octet string, its first octet in the most significant bits. -/
def sha256 (m : List Octet) : BitVec 256 :=
  let w := words32 (shaPad m)
  BitVec.ofNat 256 (Sha.blocks (w.length / 16) w Sha.first).value

end Sys2Proof.Machine
end

