-- ==== Sys2Proof/Machine/Layout.lean ====
section
/-! DEFINITION. A verified layout as a plane holds it (04): its header, its sections and its trailer, and the
readers of the sections this manual chapter defines (GLOBAL, PINS, BUDGETS, ISLANDS, PERSONALITY). Every LO
field of the device is such a reader applied to the active plane. -/

namespace Sys2Proof.Machine

/-- One section of a layout: TYPE, INSTANCE, body (04, Sections). -/
structure Section where
  type : Nat
  inst : Nat
  body : List Word
  deriving DecidableEq, Repr

/-- A verified layout (04 R137). -/
structure Layout where
  id       : Word
  rev      : Word
  sections : List Section
  key      : BitVec 2
  digest   : BitVec 256
  r        : BitVec 256
  s        : BitVec 256
  deriving DecidableEq, Repr

/-- The layout of an empty plane: no section, every LO field zero. -/
def Layout.blank : Layout := { id := 0, rev := 0, sections := [], key := 0, digest := 0, r := 0, s := 0 }

/-- The section (TYPE, INSTANCE), if the layout has it. -/
def Layout.sect (L : Layout) (ty inst : Nat) : Option Section :=
  L.sections.find? fun x => x.type == ty && x.inst == inst

/-- The body of section (TYPE, INSTANCE); empty when the layout has none. -/
def Layout.body (L : Layout) (ty inst : Nat) : List Word :=
  match L.sect ty inst with
  | some x => x.body
  | none => []

/-- Word `i` of the body of section (TYPE, INSTANCE). -/
def Layout.word (L : Layout) (ty inst i : Nat) : Word := (L.body ty inst).getD i 0

/-- A value in two words from word `i` on, low word first (04, GLOBAL body). -/
def Layout.pair (L : Layout) (ty inst i w : Nat) : BitVec w := wide (L.word ty inst i) (L.word ty inst (i + 1)) w

/-- A 256-bit value packed into 13 words (04 R146). -/
def unpack256 (ws : List Word) : BitVec 256 :=
  BitVec.ofNat 256 ((ws.take 13).foldr (fun w acc => acc * 2 ^ 20 + w.toNat) 0)

/-- Word `m` of a 256-bit value packed under R146. -/
def pack256 (v : BitVec 256) (m : Nat) : Word := fld v (20 * m) 20
/-- The first 13 words are a 256-bit value packed under R146. -/
def packed256 (ws : List Word) (v : BitVec 256) : Bool := (List.range 13).all fun m => ws.getD m 0 == pack256 v m

/-! GLOBAL (TYPE 0x01). -/

/-- Stroke period P in 8 ns units (02 R35). -/
def Layout.period (L : Layout) : BitVec 24 := L.pair 1 0 0 24
/-- WORK_AT, LAUNCH_AT, SLACK_AT in 8 ns units: phase 0, 1, 2 (02 R39). -/
def Layout.phaseAt (L : Layout) (p : Fin 3) : BitVec 24 := L.pair 1 0 (2 + 2 * p.val) 24
/-- The four words of the origin T0 (02 R36). -/
def Layout.origin (L : Layout) (m : Fin 4) : Word := L.word 1 0 (8 + m.val)
/-- Time owner code (02 TIME.STATE.OWNER); 31 none when no layout is active. -/
def Layout.owner (L : Layout) : BitVec 5 := if (L.sect 1 0).isSome then fld (L.word 1 0 12) 0 5 else 31
def Layout.slackMinLoft (L : Layout) : BitVec 28 := L.pair 1 0 13 28
def Layout.slackMinGal (L : Layout) : BitVec 28 := L.pair 1 0 15 28

/-! PINS (TYPE 0x03). -/

/-- The record of MFP_i. -/
def Layout.pin (L : Layout) (i : Nat) : Word := L.word 3 0 i
def pinSlow (r : Word) : Bool := bit r 17
def pinOpenDrain (r : Word) : Bool := bit r 16
def pinKind (r : Word) : Nat := fldN r 12 4
def pinUnit (r : Word) : Nat := fldN r 6 6
def pinSignal (r : Word) : Nat := fldN r 3 3
def pinFallback (r : Word) : Nat := fldN r 0 3

/-- The MFP pin assigned to a KIND, UNIT and SIGNAL, if any. -/
def Layout.pinOf (L : Layout) (kind unit sig : Nat) : Option (Fin 96) :=
  (List.finRange 96).find? fun i =>
    let r := L.pin i.val
    pinKind r == kind && pinUnit r == unit && pinSignal r == sig

/-! BUDGETS (TYPE 0x06). -/

def Layout.nact (L : Layout) : Nat := (L.word 6 0 0).toNat
def Layout.neg (L : Layout) : Nat := (L.word 6 0 1).toNat

/-- The body index of activity `a`'s record, if it is present (an activity is present exactly when it has one). -/
def Layout.actRec (L : Layout) (a : Nat) : Option Nat :=
  ((List.range (min L.nact 64)).find? fun k => fldN (L.word 6 0 (2 + 12 * k)) 0 6 == a).map fun k => 2 + 12 * k

def Layout.present (L : Layout) (a : Nat) : Bool := (L.actRec a).isSome

/-- A two-word field of activity `a`'s record, zero when it is absent (03 R90). -/
def Layout.actPair (L : Layout) (a off : Nat) : BitVec 28 :=
  match L.actRec a with
  | some i => L.pair 6 0 (i + off) 28
  | none => 0

def Layout.yieldReq (L : Layout) (a : Nat) : Bool :=
  match L.actRec a with
  | some i => bit (L.word 6 0 i) 6
  | none => false

def Layout.slackCap (L : Layout) (a : Nat) : BitVec 28 := L.actPair a 1
def Layout.compute (L : Layout) (a : Nat) : BitVec 28 := L.actPair a 3
def Layout.loft (L : Layout) (a : Nat) : BitVec 28 := L.actPair a 5
def Layout.gallery (L : Layout) (a : Nat) : BitVec 28 := L.actPair a 7
def Layout.dma (L : Layout) (a : Nat) : BitVec 28 := L.actPair a 9
def Layout.events (L : Layout) (a : Nat) : BitVec 20 :=
  match L.actRec a with
  | some i => L.word 6 0 (i + 11)
  | none => 0

/-- The egress records: activity, port, ns. -/
def Layout.egress (L : Layout) : List (Nat × Nat × BitVec 28) :=
  (List.range (min L.neg 512)).map fun k =>
    let i := 2 + 12 * L.nact + 3 * k
    (fldN (L.word 6 0 i) 0 6, fldN (L.word 6 0 i) 8 3, L.pair 6 0 (i + 1) 28)

/-- Egress budget of a pair of activity and port, in ns. -/
def Layout.egBudget (L : Layout) (a p : Nat) : BitVec 28 :=
  match L.egress.find? fun e => e.1 == a && e.2.1 == p with
  | some e => e.2.2
  | none => 0

/-! ISLANDS (TYPE 0x07). -/

/-- The layout marks island `i`. -/
def Layout.marks (L : Layout) (i : Nat) : Bool := bit (L.word 7 0 (i / 20)) (i % 20)

/-! PERSONALITY (TYPE 0x0A), instance = Hewer. -/

def Layout.bothBanks (L : Layout) (n : Nat) : Bool := bit (L.word 10 n 0) 0
def Layout.pkgDigest (L : Layout) (n : Nat) : BitVec 256 := unpack256 ((L.body 10 n).drop 1)
def Layout.loftBase (L : Layout) (n : Nat) : Nat := (L.word 10 n 14).toNat
def Layout.loftSize (L : Layout) (n : Nat) : Nat := (L.word 10 n 15).toNat
/-- Tread `t` is assigned to Hewer `n`. -/
def Layout.hasTread (L : Layout) (n t : Nat) : Bool := bit (L.word 10 n (16 + t / 20)) (t % 20)
/-- CAN_c is assigned to Hewer `n`. -/
def Layout.hasCan (L : Layout) (n c : Nat) : Bool := bit (L.word 10 n 18) c
/-- TWB_b is assigned to Hewer `n`. -/
def Layout.hasTwb (L : Layout) (n b : Nat) : Bool := bit (L.word 10 n 18) (4 + b)

/-- The Hewer that owns Tread `t`, if any. -/
def Layout.treadOwner (L : Layout) (t : Nat) : Option (Fin 16) := (List.finRange 16).find? fun n => L.hasTread n.val t
/-- The Hewer that owns CAN_c, if any. -/
def Layout.canOwner (L : Layout) (c : Nat) : Option (Fin 16) := (List.finRange 16).find? fun n => L.hasCan n.val c
/-- The Hewer that owns TWB_b, if any. -/
def Layout.twbOwner (L : Layout) (b : Nat) : Option (Fin 16) := (List.finRange 16).find? fun n => L.hasTwb n.val b

end Sys2Proof.Machine
end

