-- ==== Sys2Proof/Machine/UnitsGal.lean ====
section
/-! DEFINITION. The state of the Gallery (10) and the readers of the layout's GALLERY (10) and PVC (09) sections. -/

namespace Sys2Proof.Machine

/-- A lease slot (10 R390-R393). -/
structure Lease where
  grp    : BitVec 7
  held   : Bool
  broken : Bool
  defers : Nat
  /-- Core cycle of its acquisition (R395). -/
  since  : Option Nat
  deriving DecidableEq, Repr

/-- Runtime state of a page group (GAL.GRP_g STAT). -/
structure GroupState where
  stop     : Bool
  req      : Bool
  deferred : BitVec 2
  stroke   : BitVec 20
  /-- Core cycles of the last swap (R388) and of the last deferral (R395). -/
  swapCyc  : Option Nat
  deferCyc : Option Nat
  deriving DecidableEq, Repr

/-- The Gallery. Word `w` of frame `f` lies at address 512·f + w of `mem`; a page's first frame is its write
view, its second the settled view, and a swap copies the one to the other (R383). -/
structure Gallery where
  mem       : Mem Word
  /-- Words with an ECC error not yet rewritten: true when it cannot be corrected (R376). -/
  flaws     : Mem (Option Bool)
  settled   : BitVec 128
  swapRes   : BitVec 2
  lease     : Vector Lease 16
  grp       : Vector GroupState 128
  /-- Swaps that wait for a host read (R402), with their EVT not yet raised. -/
  waiting   : BitVec 128
  forCount  : BitVec 10
  forAgent  : BitVec 5
  forPage   : BitVec 9
  eccFail   : BitVec 8
  eccFix    : BitVec 12
  eccFrame  : BitVec 9
  /-- Core cycle of the last SETTLE_DONE of a settle point (R389). -/
  doneCyc   : Option Nat
  deriving DecidableEq, Repr

def Lease.reset : Lease := { grp := 0, held := false, broken := false, defers := 0, since := none }
def GroupState.reset : GroupState := { stop := false, req := false, deferred := 0, stroke := 0, swapCyc := none, deferCyc := none }
def Gallery.reset : Gallery :=
  { mem := [], flaws := [], settled := 0, swapRes := 0, lease := Vector.replicate 16 Lease.reset,
    grp := Vector.replicate 128 GroupState.reset, waiting := 0, forCount := 0, forAgent := 0, forPage := 0,
    eccFail := 0, eccFix := 0, eccFrame := 0, doneCyc := none }

/-! GALLERY section (TYPE 0x05). -/

def Layout.ngrp (L : Layout) : Nat := fldN (L.word 5 0 0) 0 7

/-- The body index of group `g`'s record. -/
def Layout.grpRec (L : Layout) (g : Nat) : Option Nat :=
  ((List.range L.ngrp).find? fun k => fldN (L.word 5 0 (1 + 5 * k)) 0 7 == g).map fun k => 1 + 5 * k

/-- A page group's record. -/
structure GroupRec where
  type   : Nat
  owner  : Nat
  signed : Bool
  req    : Bool
  lease2 : Bool
  evt    : Bool
  group  : Nat
  frame  : Nat
  first  : Nat
  npages : Nat
  settle : BitVec 24
  deriving DecidableEq, Repr

/-- The record at body index `i`. -/
def Layout.grpAt (L : Layout) (i : Nat) : GroupRec :=
  let w0 := L.word 5 0 i
  let w1 := L.word 5 0 (i + 1)
  { type := fldN w0 18 2, owner := fldN w0 13 5, signed := bit w0 12, req := bit w0 11, lease2 := bit w0 10,
    evt := bit w0 9, group := fldN w0 0 7, frame := fldN w1 10 9, first := fldN w1 0 9,
    npages := fldN (L.word 5 0 (i + 2)) 0 10, settle := L.pair 5 0 (i + 3) 24 }

def Layout.grp (L : Layout) (g : Nat) : Option GroupRec := (L.grpRec g).map L.grpAt

/-- Every page group of the layout. -/
def Layout.groups (L : Layout) : List GroupRec := (List.range L.ngrp).map fun k => L.grpAt (1 + 5 * k)

/-- The group that maps logical page `p`. -/
def Layout.grpOfPage (L : Layout) (p : Nat) : Option GroupRec :=
  L.groups.find? fun r => decide (r.first ≤ p) && decide (p < r.first + r.npages)

/-- A host-owned DIRECT group has one frame per page and no settled view. -/
def GroupRec.hostDirect (r : GroupRec) : Bool := r.type == 2 && r.owner == 17

/-- Frames of a group (10, page map). -/
def GroupRec.frames (r : GroupRec) : Nat := if r.hostDirect then r.npages else 2 * r.npages

/-- Effective settle point in 8 ns units: 0 means LAUNCH_AT. -/
def Layout.settleAt (L : Layout) (r : GroupRec) : Nat :=
  if r.settle = 0 then (L.phaseAt 1).toNat else r.settle.toNat

/-! PVC sections (TYPE 0x09, instance = table). -/

/-- Body word `i` of coding table `t`; 0 when absent or beyond the body (09 R374). -/
def Layout.pvcWord (L : Layout) (t i : Nat) : Word := L.word 9 t i

end Sys2Proof.Machine
end

