-- ==== Sys2Proof/Machine/UnitsLay.lean ====
section
/-! DEFINITION. The state of the layout planes and the changeover (04), of the Chutes and of the event router (18). -/

namespace Sys2Proof.Machine

/-- LAY.SHADOW_STATE.STATE. -/
inductive PlaneState | empty | writing | valid | invalid
  deriving DecidableEq, Repr

/-- Modes of a Hewer or flight at the next changeover (04 R136). -/
inductive PlanMode | absent | carry | warm | cold | start | stop | change
  deriving DecidableEq, Repr

/-- LAY.HEWER_PLAN_n but for BANK, which the Hewer holds. -/
structure HewerPlan where
  pause : BitVec 8
  ready : Bool
  mode  : PlanMode
  deriving DecidableEq, Repr

/-- A staging between its check phase and the end of its write phase (04 R148-R151). -/
structure Staging where
  slot   : BitVec 3
  layout : Layout
  /-- The LAYOUT_STAGE to be answered: source and tag; none when an activation stages (21 R775, R777). -/
  reply  : Option (CmdSource × BitVec 8)
  deriving DecidableEq, Repr

/-- What still happens at the end of the hinge (04, hinge table). -/
structure Hinge where
  active  : Bool
  pins    : List (Fin 96)
  hewers  : List (Fin 16)
  flights : List (Fin 4)
  settles : BitVec 128
  /-- Core cycle at which it began. -/
  cyc     : Nat
  deriving DecidableEq, Repr

/-- The LAY unit. -/
structure Lay where
  active    : Option Layout
  shadow    : Option Layout
  st        : PlaneState
  slot      : BitVec 3
  checking  : Bool
  staging   : Option Staging
  code      : BitVec 5
  word      : Word
  chgStroke : BitVec 40
  chgCnt    : BitVec 20
  abortCnt  : BitVec 8
  abortReason : BitVec 3
  usedFallback : Bool
  reapplyCnt : BitVec 8
  reapplyIsl : BitVec 6
  deriving DecidableEq, Repr

/-- The plans and the hinge. -/
structure Plans where
  hewer  : Vector HewerPlan 16
  flight : Vector PlanMode 4
  hinge  : Hinge
  deriving DecidableEq, Repr

def Lay.reset : Lay :=
  { active := none, shadow := none, st := .empty, slot := 0, checking := false, staging := none, code := 0,
    word := 0, chgStroke := 0, chgCnt := 0, abortCnt := 0, abortReason := 0, usedFallback := false,
    reapplyCnt := 0, reapplyIsl := 0 }

def Hinge.idle : Hinge := { active := false, pins := [], hewers := [], flights := [], settles := 0, cyc := 0 }

def Plans.reset : Plans :=
  { hewer := Vector.replicate 16 { pause := 0, ready := false, mode := .absent },
    flight := Vector.replicate 4 .absent, hinge := Hinge.idle }

/-- States of a Chute channel (18 R657). -/
inductive ChuteState | empty | full | aborted
  deriving DecidableEq, Repr

/-- One channel (18 R656). -/
structure Channel where
  slot : Vector Word 16
  st   : ChuteState
  len  : BitVec 5
  deriving DecidableEq, Repr

/-- Notifications and settings of a host context (CHU.CTX_h). -/
structure ChuteCtx where
  freed   : BitVec 17
  aborted : BitVec 17
  en      : Bool
  pins    : BitVec 4
  vec     : BitVec 5
  misuse  : BitVec 20
  deriving DecidableEq, Repr

structure Chutes where
  chan    : Vector Channel 168
  ctx     : Vector ChuteCtx 4
  /-- MISUSE counter of the Warden. -/
  wdnMisuse : BitVec 20
  deriving DecidableEq, Repr

def Channel.reset : Channel := { slot := Vector.replicate 16 0, st := .empty, len := 0 }
def ChuteCtx.reset : ChuteCtx := { freed := 0, aborted := 0, en := false, pins := 0, vec := 0, misuse := 0 }
def Chutes.reset : Chutes :=
  { chan := Vector.replicate 168 Channel.reset, ctx := Vector.replicate 4 ChuteCtx.reset, wdnMisuse := 0 }

/-- The route of one event (18, Routing). A Hewer entry is bit 5 EN and bits 4:0 the vector (EROUTE). -/
structure EvRoute where
  pins   : BitVec 4
  msix   : BitVec 32
  wdn    : BitVec 32
  hewers : Vector (BitVec 6) 16
  deriving DecidableEq, Repr

/-- The event router. -/
structure Events where
  status : BitVec 128
  count  : Vector (BitVec 20) 128
  route  : Vector EvRoute 128
  od     : BitVec 4
  pol    : BitVec 4
  deriving DecidableEq, Repr

def EvRoute.reset : EvRoute := { pins := 0, msix := 0, wdn := 0, hewers := Vector.replicate 16 0 }
def Events.reset : Events :=
  { status := 0, count := Vector.replicate 128 0, route := Vector.replicate 128 EvRoute.reset, od := 0, pol := 0 }

end Sys2Proof.Machine
end

