-- ==== Sys2Proof/Machine/UnitsEngine.lean ====
section
/-! DEFINITION. The state of an Ahneafin engine (06), of a Hewer (05, 08) and of the parts of the Warden that the
instruction set reaches (06, Warden extensions). -/

namespace Sys2Proof.Machine

/-- What a stalled engine waits for (05 R198-R209, 06 R268, R273, 07 R304, R306, R310, 03 R109). -/
inductive StallKind
  | load | verdictRead | store | rxNext | push | relDrain | microVerdict | microQueue | listHold | wait | slack
  /-- a micro-routine before its commit point waits for the slack pool: an interrupt point, unlike the other waits for it (06 R260) -/
  | microSlack
  /-- STAKE waits for its next attempt (07 R303) -/
  | stake
  deriving DecidableEq, Repr

/-- A stalled instruction: it is executed again when its wait ends. -/
structure Stall where
  kind  : StallKind
  instr : Instr
  /-- Beats already charged to it, when it waits for the slack pool (03 R109). -/
  paid  : Nat
  /-- The list head it holds (07 R306), as a Loft word. -/
  head  : Option Nat
  deriving DecidableEq, Repr

/-- The five flags (06 R238). -/
structure Flags where
  n : Bool
  z : Bool
  c : Bool
  v : Bool
  g : Bool
  deriving DecidableEq, Repr

/-- The core of an engine (06, Registers and tags). -/
structure Core where
  w    : Vector Word 16
  /-- Green tag of each register (R239). -/
  tag  : BitVec 16
  pc   : Word
  fl   : Flags
  ie   : Bool
  /-- L: 0-31 in a vector handler, 32 at thread level. -/
  lvl  : BitVec 6
  /-- CTL_GREEN (R242). -/
  ctlG : Bool
  /-- The yield mark (R258). -/
  mark : Bool
  deriving DecidableEq, Repr

/-- The interrupt and exception words of an engine's I/O space (05 R192, 06 R281). -/
structure Vectors where
  vbase  : Word
  ien    : BitVec 32
  ipend  : BitVec 32
  lsrc   : Vector (BitVec 6) 16
  xbase  : Word
  xcause : BitVec 4
  xaddr  : Word
  deriving DecidableEq, Repr

/-- An Ahneafin engine. -/
structure Eng where
  core  : Core
  vec   : Vectors
  stall : Option Stall
  /-- A block instruction is in progress: its start-up cycles are paid (07 R298). -/
  block : Bool
  /-- Beats of the running instruction that an earlier stroke has been charged (03 R109). -/
  paid  : Nat
  /-- Attempts that the STAKE in progress has made (07 R303). -/
  tries : Nat
  /-- Core cycle since which the stalled instruction has not been charged (03 R91). -/
  since : Nat
  deriving DecidableEq, Repr

/-- A word of local memory with its green tag (06 R239). -/
structure TWord where
  val   : Word
  green : Bool
  deriving DecidableEq, Repr

def TWord.zero : TWord := { val := 0, green := false }

/-- Where the beat of a queued write was drawn from (03 R120, R121). -/
inductive BeatSource | none | loft | gallery | poolLoft | poolGal
  deriving DecidableEq, Repr

/-- An entry of the commit queue (08, commit queue). -/
structure CqEntry where
  addr   : Word
  val    : Word
  green  : Bool
  /-- Marked for commit (R318, R319). -/
  commit : Bool
  src    : BeatSource
  /-- Stroke in which the beat was charged. -/
  stroke : BitVec 40
  deriving DecidableEq, Repr

/-- States of a Hewer (05, States). -/
inductive HewerState | absent | running | yielded | parked | halted | faulted | loading | stopped
  deriving DecidableEq, Repr

/-- The egress tap's registers (05, Landing taps). -/
structure TxTap where
  desc     : Vector Word 3
  /-- The frame under construction (BUILDING). -/
  building : Option Nat
  /-- Timestamp words returned and not yet read (TX_TSQ). -/
  tsq      : List Word
  /-- Sequence number of the next frame built at the tap. -/
  seq      : BitVec 8
  deriving DecidableEq, Repr

/-- Result, fault and counter registers of HWC. -/
structure HewerRegs where
  result    : BitVec 2
  faultAct  : Bool
  faultCnt  : BitVec 8
  faultCause : BitVec 4
  faultPc   : Word
  accCnt    : BitVec 20
  semCnt    : BitVec 20
  cqCommit  : BitVec 20
  cqDiscard : BitVec 20
  cqStall   : BitVec 20
  glStomp   : BitVec 10
  glDrop    : BitVec 10
  dbgAddr   : BitVec 15
  deriving DecidableEq, Repr

/-- HIO words and latches a Hewer holds beside its vectors. -/
structure Hio where
  /-- Latch of STROKE_REL_HI. -/
  relHi    : BitVec 4
  /-- High-half latches and held high-half writes of the TIME window (R191), by word number. -/
  timeHi   : Mem (BitVec 12)
  timeHeld : Mem (Option (BitVec 12))
  esel     : BitVec 7
  pvcTable : BitVec 4
  pvcIndex : BitVec 10
  deriving DecidableEq, Repr

/-- What a Hewer that is being reset, loaded or paused still waits for (05 R219, 04 R166). -/
structure HewerLoad where
  /-- An engine reset has been accepted and its 2 µs run, and the core cycle of its acceptance. -/
  resetting : Bool
  resetCyc  : Nat
  reload    : Bool
  /-- A HALT waits for the engine's next interrupt point (R216). -/
  haltReq   : Bool
  /-- Boundaries left of a cold pause. -/
  pause     : Option Nat
  /-- The cold loader still runs. -/
  loading   : Bool
  /-- The load runs for a P reset's re-application (R872). -/
  reapply   : Bool
  deriving DecidableEq, Repr

/-- One Hewer. -/
structure Hewer where
  eng   : Eng
  st    : HewerState
  /-- State before a halt (R217). -/
  prev  : HewerState
  bank  : Bool
  bankA : Mem TWord
  bankB : Mem TWord
  cq    : List CqEntry
  tx    : TxTap
  regs  : HewerRegs
  hio   : Hio
  load  : HewerLoad
  /-- COMMIT_STALL already raised in this stroke (08 R322). -/
  stallRaised : Bool
  /-- Local words that the last executed instruction stored to, as they were: the next fetch still sees them so (06 R250). -/
  unseen : List (Nat × TWord)
  deriving DecidableEq, Repr

/-- A semaphore (05 R196). -/
structure Sem where
  held   : Bool
  orphan : Bool
  owner  : BitVec 5
  deriving DecidableEq, Repr

/-- A register checkpoint (06 R274). -/
structure Checkpoint where
  w    : Vector Word 16
  fl   : Flags
  ie   : Bool
  lvl  : BitVec 6
  next : Word
  deriving DecidableEq, Repr

def Core.reset : Core :=
  { w := Vector.replicate 16 0, tag := 0, pc := 0, fl := ⟨false, false, false, false, false⟩, ie := false, lvl := 32,
    ctlG := false, mark := false }

def Vectors.reset : Vectors :=
  { vbase := 0, ien := 0, ipend := 0, lsrc := Vector.replicate 16 0, xbase := 0, xcause := 0, xaddr := 0 }

def Eng.reset : Eng := { core := Core.reset, vec := Vectors.reset, stall := none, block := false, paid := 0, tries := 0, since := 0 }

/-- No stall and no block instruction is left in progress. -/
def Eng.still (x : Eng) : Eng := { x with stall := none, block := false, paid := 0, tries := 0, since := 0 }

/-- The stalled cycles are charged (03 R91): not those of a WAIT or of a wait for the slack pool, nor those between the attempts of a
STAKE, which have a charge of their own. -/
def Eng.billed (x : Eng) : Bool :=
  match x.stall with
  | some y => y.kind != .wait && y.kind != .slack && y.kind != .microSlack && y.kind != .stake
  | none => false

def TxTap.reset : TxTap := { desc := Vector.replicate 3 0, building := none, tsq := [], seq := 0 }

def HewerRegs.reset : HewerRegs :=
  { result := 0, faultAct := false, faultCnt := 0, faultCause := 0, faultPc := 0, accCnt := 0, semCnt := 0,
    cqCommit := 0, cqDiscard := 0, cqStall := 0, glStomp := 0, glDrop := 0, dbgAddr := 0 }

def Hio.reset : Hio := { relHi := 0, timeHi := [], timeHeld := [], esel := 0, pvcTable := 0, pvcIndex := 0 }

def HewerLoad.idle : HewerLoad :=
  { resetting := false, resetCyc := 0, reload := false, haltReq := false, pause := none, loading := false, reapply := false }

def Hewer.reset : Hewer :=
  { eng := Eng.reset, st := .absent, prev := .running, bank := false, bankA := [], bankB := [], cq := [],
    tx := TxTap.reset, regs := HewerRegs.reset, hio := Hio.reset, load := HewerLoad.idle, stallRaised := false,
    unseen := [] }

def Sem.free : Sem := { held := false, orphan := false, owner := 0 }

end Sys2Proof.Machine
end

