-- ==== Sys2Proof/Machine/UnitsNet.lean ====
section
/-! DEFINITION. The state of the Ethernet ports (11), the Landing (12) and the Grader (13). -/

namespace Sys2Proof.Machine

/-- ETH.LINK but for FREEZE. -/
structure Link where
  changes : BitVec 8
  noHcd   : Bool
  anDone  : Bool
  mdix    : Bool
  full    : Bool
  speed   : BitVec 3
  up      : Bool
  deriving DecidableEq, Repr

/-- A frame in transmission on an egress port. -/
structure TxActive where
  frame  : Nat
  queue  : Nat
  /-- Launch time of the first preamble bit at the reference plane, in quarter-ns (R431). -/
  start  : Nat
  /-- Octets after which the frame ends stomped, once it is to be stomped (R876). -/
  stomp  : Option Nat
  /-- The frame was green when it started (R314 GREEN_FWD). -/
  green  : Bool
  /-- Collisions met by this frame at this port (R423). -/
  tries  : Nat
  /-- Egress charge taken at the start for a frame whose end was not stored: activity, stroke and amount (03 R111). -/
  paid   : Option (ActId × BitVec 40 × Nat)
  deriving DecidableEq, Repr

/-- ETH.DIAG_RES or MDIO_RES: a result register (17 R649). -/
structure ResultReg (w : Nat) where
  data   : BitVec w
  valid  : Bool
  rep    : Bool
  deriving DecidableEq, Repr

/-- Sixty-four Tally counters, their snapshot bank included (R435, R436). -/
structure Tally where
  live : Vector (BitVec 40) 64
  snap : Vector (BitVec 40) 64
  deriving DecidableEq, Repr

/-- One Ethernet port. -/
structure EthPort where
  link   : Link
  /-- Burst freeze: the core cycle at which it ends. -/
  freeze : Option Nat
  diag   : Bool
  diagRes : ResultReg 24
  thr    : BitVec 4
  txAdj  : BitVec 12
  rxAdj  : BitVec 12
  tally  : Tally
  tx     : Option TxActive
  /-- Frames that have met collisions, the latest first, with the attempts already made (R423). -/
  retry  : List (Nat × Nat)
  /-- Core cycle before which the port starts no preamble: the inter-frame gap, or a transmission cut short (R421, 08 R332). -/
  gap    : Nat
  /-- Frames being received or awaiting their verdict, oldest first; one that found no descriptor is no frame of the Landing (12
  R442). -/
  rx     : List Nat
  /-- Those of `rx` without a descriptor, with the error bits that their octets show. -/
  bare   : List (Nat × BitVec 8)
  deriving DecidableEq, Repr

/-- The MDIO controller (R438, R439). -/
structure Mdio where
  refused : BitVec 8
  preSup  : Bool
  div     : BitVec 8
  running : Option (BitVec 30)
  res     : ResultReg 16
  deriving DecidableEq, Repr

/-- The Ethernet ports and what they share. -/
structure Eth where
  port      : Vector EthPort 6
  mdio      : Mdio
  snapStroke : BitVec 20
  buckSends : BitVec 20
  buckSegs  : BitVec 20
  buckErr   : BitVec 20
  buckReason : BitVec 3
  /-- The state has changed from HOLDOVER to UNSYNCED and SYNC_OK has not come since (R424). -/
  quietHold : Bool
  /-- No SYNC_OK since the last C, W or D reset (R424). -/
  quietBoot : Bool
  deriving DecidableEq, Repr

/-- What a frame causes at its verdict, only when GOOD (08 R314). -/
inductive GoodEffect
  | port (p : Fin 6) (i : Nat)
  | lnd (i : Nat)
  | grd (i : Nat)
  | event (e : EventId)
  deriving DecidableEq, Repr

/-- A fragment's key in the Offcut table (13, The Offcut table). -/
structure OfcKey where
  v6    : Bool
  src   : BitVec 128
  dst   : BitVec 128
  proto : BitVec 8
  ident : BitVec 32
  deriving DecidableEq, Repr

/-- What the fragment test found (R505). -/
inductive FragKind | none | first | later
  deriving DecidableEq, Repr

/-- What a frame waits for before its consumer set is fixed or it may start (R476, R509). -/
inductive FrameWait
  | none
  /-- a first fragment's verdict -/
  | fragment (f : Nat)
  /-- a copy's verdict -/
  | copy (f : Nat)
  deriving DecidableEq, Repr

/-- A frame deferred at a port (02 R76, R77): the gate entry that opens its slot, none once a changeover has taken the list away, and
the turn of the list in which the occurrence that it missed had opened. -/
structure Deferral where
  port  : Nat
  entry : Option Nat
  turn  : Nat
  deriving DecidableEq, Repr

/-- Descriptor words of a frame built at an egress tap (05, TX_DESC). -/
structure TxDesc where
  mask  : BitVec 8
  tc    : BitVec 3
  tsReq : Bool
  /-- Launch time, in 8 ns units of the stroke. -/
  at_   : Option (BitVec 24)
  seq   : BitVec 8
  deriving DecidableEq, Repr

/-- The end of a Grader walk and match, before the Offcut table is asked (13). -/
structure Graded where
  key    : Vector Word 16
  endc   : BitVec 2
  rule   : Option (BitVec 11)
  frag   : FragKind
  okey   : OfcKey
  /-- MF or M of the last fragment header. -/
  more   : Bool
  deriving DecidableEq, Repr

/-- One frame of the Landing: its descriptor and its stored octets (R441, R442). -/
structure Frame where
  id      : Nat
  /-- Key word 1 SRC: 0-7 switch port, 16 + n egress tap of Hewer n. -/
  src     : Nat
  /-- The activity that originated it (03 R93); none for a forwarded frame. -/
  orig    : Option ActId
  octets  : List Octet
  /-- The received FCS, kept until the verdict (R873: a frame ended by loss of carrier keeps every octet). -/
  fcs     : List Octet
  /-- Payload words arrived. -/
  arrived : Nat
  eof     : Bool
  /-- Cell chain (R442). -/
  chain   : List (BitVec 14)
  /-- Octets received, the FCS included. -/
  rxLen   : Nat
  /-- Error bits of the verdict known from the octets (08 R313 bits 7:1). -/
  errs    : BitVec 8
  stamp   : BitVec 80
  /-- Stroke-relative time of the stamp, in quarter-nanoseconds (02 R79). -/
  rel     : Int
  verdict : Option Word
  /-- Its GOOD verdict came while it waited for a first fragment: it is counted when its consumer set is fixed (R419, 13 R509). -/
  uncounted : Bool
  /-- Its SOF came before the changeover of the planes: it goes by the old plane (04 R170). -/
  old     : Bool
  graded  : Option Graded
  /-- The consumer set has been fixed (R446). -/
  decided : Bool
  cls     : Word
  tc      : BitVec 3
  win     : Option (BitVec 4)
  early   : Bool
  late    : Bool
  /-- Dropped by the MAC: the counter of R419 rows 9 to 11. -/
  macDrop : Option Nat
  ltHit   : Option Nat
  /-- VID that its lookup used (12 R447). -/
  vid     : BitVec 12
  refused : Bool
  mirrorRefused : Bool
  onGood  : List GoodEffect
  wait    : FrameWait
  /-- 802.1CB: stream and sequence of a copy in flight. -/
  frer    : Option (Nat × BitVec 16)
  /-- Hewer whose TX_TSQ takes its egress stamps (R501). -/
  tsTap   : Option (Fin 16)
  /-- RX_META sequence at each tap that takes it: tap (16 the Warden port) and number. -/
  seqs    : List (Nat × BitVec 8)
  desc    : Option TxDesc
  /-- Core cycle of its explicit launch time (02 R78). -/
  launch  : Option Nat
  /-- The request whose verdict it is bound to, and that verdict once it has arrived (08 R333). -/
  bound   : Option (Nat × Option Bool)
  /-- GREEN_STOMP has been raised for it (R326). -/
  stomped : Bool
  /-- Ports where it is deferred (02 R77). -/
  deferred : List Deferral
  /-- Ports where it is held for egress budget in this stroke (03 R111). -/
  held    : List Nat
  deriving DecidableEq, Repr

/-- A learning-table entry (R468-R471). -/
structure LtEntry where
  mac    : BitVec 48
  vid    : BitVec 12
  ports  : BitVec 8
  static : Bool
  hit    : Bool
  deriving DecidableEq, Repr

/-- History of an 802.1CB stream (R476-R478): bit k of `seen` is sequence H - k. -/
structure Frer where
  h    : BitVec 16
  seen : BitVec 32
  /-- Core cycle of the last record. -/
  last : Nat
  deriving DecidableEq, Repr

/-- The Landing. -/
structure Lnd where
  frames  : List Frame
  nextId  : Nat
  /-- Frame ids in each queue, head first; a frame leaves its queue when its consumer has read it. -/
  queue   : Vector (List Nat) 80
  deficit : Vector Nat 64
  /-- The class `cur` of each port's scheduler (R459). -/
  cur     : Vector (Fin 8) 8
  low     : BitVec 15
  min     : BitVec 15
  /-- BUFFER_LOW may be raised (R458). -/
  armed   : Bool
  /-- Governing gate entry and gate cycle of each port (R462). -/
  entry   : Vector (BitVec 6) 6
  cycle   : Vector Nat 6
  /-- Gate cycles begun at each port, over all strokes. -/
  turn    : Vector Nat 6
  table   : Mem (Option LtEntry)
  flush   : Bool
  ltSel   : BitVec 13
  /-- Entry the aging sweep visits next. -/
  sweep   : BitVec 13
  /-- Core cycle at which the sweep's running pass began (R471). -/
  pass    : Nat
  /-- The frame that the Warden port presents (R459). -/
  toWarden : Option Nat
  frer    : Mem (Option Frer)
  tally   : Tally
  /-- Next RX_META sequence of each ingress tap, the Warden port last. -/
  rxSeq   : Vector (BitVec 8) 17
  /-- The layout of the plane that the last changeover made the shadow: frames received before it go by it (04 R170). -/
  prev    : Option Layout
  deriving DecidableEq, Repr

/-- An Offcut entry (13). -/
structure OfcEntry where
  key   : OfcKey
  rule  : Option (BitVec 11)
  /-- Core cycle at which its lifetime runs out. -/
  until_ : Nat
  last  : Bool
  deriving DecidableEq, Repr

/-- The Grader. -/
structure Grd where
  bank    : Bool
  plane   : Bool
  index   : BitVec 15
  ofc     : Vector (Option OfcEntry) 64
  /-- Pending records: first fragment and key (R509). -/
  pend    : List (Nat × OfcKey)
  sel     : BitVec 6
  cnt     : Vector (BitVec 20) 9
  deriving DecidableEq, Repr

def ResultReg.empty (w : Nat) : ResultReg w := { data := 0, valid := false, rep := false }
def Tally.reset : Tally := { live := Vector.replicate 64 0, snap := Vector.replicate 64 0 }
def Link.reset : Link :=
  { changes := 0, noHcd := false, anDone := false, mdix := false, full := false, speed := 0, up := false }
def EthPort.reset : EthPort :=
  { link := Link.reset, freeze := none, diag := false, diagRes := ResultReg.empty 24, thr := 4, txAdj := 0, rxAdj := 0,
    tally := Tally.reset, tx := none, retry := [], gap := 0, rx := [], bare := [] }
def Eth.reset : Eth :=
  { port := Vector.replicate 6 EthPort.reset,
    mdio := { refused := 0, preSup := false, div := 24, running := none, res := ResultReg.empty 16 },
    snapStroke := 0, buckSends := 0, buckSegs := 0, buckErr := 0, buckReason := 0, quietHold := false, quietBoot := true }
def Lnd.reset : Lnd :=
  { frames := [], nextId := 0, queue := Vector.replicate 80 [], deficit := Vector.replicate 64 0,
    cur := Vector.replicate 8 7, low := 1024, min := 16384, armed := true, entry := Vector.replicate 6 0,
    cycle := Vector.replicate 6 0, turn := Vector.replicate 6 0, table := [], flush := false, ltSel := 0, sweep := 0, pass := 0,
    toWarden := none, frer := [], tally := Tally.reset, rxSeq := Vector.replicate 17 0, prev := none }
def Grd.reset : Grd :=
  { bank := false, plane := false, index := 0, ofc := Vector.replicate 64 none, pend := [], sel := 0,
    cnt := Vector.replicate 9 0 }

/-! PORTS section (TYPE 0x02) and SLOTS section (TYPE 0x08). -/

/-- ETH.MODE of port `p`, assembled from its port record (R406). -/
def Layout.mode (L : Layout) (p : Nat) : BitVec 32 :=
  at32 (fld (L.word 2 0 (3 * p)) 0 17) 15 ||| at32 (fld (L.word 2 0 (3 * p + 1)) 0 14) 0
def Layout.portIf (L : Layout) (p : Nat) : Nat := fldN (L.mode p) 29 3
def Layout.portSpeed (L : Layout) (p : Nat) : Nat := fldN (L.mode p) 26 3
def Layout.allowHalf (L : Layout) (p : Nat) : Bool := bit (L.mode p) 25
def Layout.greenLaunch (L : Layout) (p : Nat) : Bool := bit (L.mode p) 24
def Layout.holdAct (L : Layout) (p : Nat) : Bool := bit (L.mode p) 23
def Layout.quietBoot (L : Layout) (p : Nat) : Bool := bit (L.mode p) 22
def Layout.admitMode (L : Layout) (p : Nat) : Nat := fldN (L.mode p) 20 2
def Layout.oneStep (L : Layout) (p : Nat) : Bool := bit (L.mode p) 15
/-- Frame limit; ports 6 and 7 take 9,216. -/
def Layout.maxLen (L : Layout) (p : Nat) : Nat := if p < 6 then fldN (L.mode p) 0 14 else 9216
def Layout.portCfg (L : Layout) (p : Nat) : Word := L.word 2 0 (3 * p + 1)
def Layout.tcEn (L : Layout) (p : Nat) : Bool := bit (L.portCfg p) 18
def Layout.learn (L : Layout) (p : Nat) : Bool := bit (L.portCfg p) 17
def Layout.defPcp (L : Layout) (p : Nat) : Nat := fldN (L.portCfg p) 14 3
def Layout.vlan (L : Layout) (p : Nat) : Word := L.word 2 0 (3 * p + 2)
def Layout.flood (L : Layout) (p : Nat) : BitVec 8 := fld (L.vlan p) 12 8
def Layout.pvid (L : Layout) (p : Nat) : BitVec 12 := fld (L.vlan p) 0 12
/-- Cut-through code of the pair (ingress i, egress j). -/
def Layout.ctCode (L : Layout) (i j : Nat) : Nat := fldN (L.word 2 0 (24 + i)) (2 * j) 2
def Layout.tap (L : Layout) (n : Nat) : Word := L.word 2 0 (32 + n)
def Layout.tapCt (L : Layout) (n p : Nat) : Bool := bit (L.tap n) (2 + p)
def Layout.tapOut (L : Layout) (n : Nat) : Bool := bit (L.tap n) 1
def Layout.tapIn (L : Layout) (n : Nat) : Bool := bit (L.tap n) 0
def Layout.alpha (L : Layout) (q : Nat) : Nat := fldN (L.word 2 0 (48 + 2 * q)) 16 4
def Layout.reserve (L : Layout) (q : Nat) : Nat := fldN (L.word 2 0 (48 + 2 * q)) 0 14
def Layout.strict (L : Layout) (q : Nat) : Bool := bit (L.word 2 0 (49 + 2 * q)) 19
def Layout.quantum (L : Layout) (q : Nat) : Nat := fldN (L.word 2 0 (49 + 2 * q)) 0 12
/-- PCP map: 24 bits. -/
def Layout.pcpMap (L : Layout) : BitVec 24 := fld (L.word 2 0 209) 0 12 ++ fld (L.word 2 0 208) 0 12
def Layout.pcpClass (L : Layout) (k : Nat) : BitVec 3 := fld L.pcpMap (3 * k) 3
def Layout.age (L : Layout) : Nat := fldN (L.word 2 0 210) 0 10
def Layout.mirror (L : Layout) : BitVec 7 := fld (L.word 2 0 211) 0 7
def Layout.nstat (L : Layout) : Nat := fldN (L.word 2 0 212) 0 11
def Layout.nstream (L : Layout) : Nat := fldN (L.word 2 0 213) 0 9

/-- A MAC address as records hold it: two octets per word, the earlier one in bits 7:0; the first octet on
the wire is the most significant of the result. -/
def macOf (w0 w1 w2 : Word) : BitVec 48 :=
  fld w0 0 8 ++ fld w0 8 8 ++ fld w1 0 8 ++ fld w1 8 8 ++ fld w2 0 8 ++ fld w2 8 8

/-- Static entries: address, VID, port mask. -/
def Layout.statics (L : Layout) : List (BitVec 48 × BitVec 12 × BitVec 8) :=
  (List.range (min L.nstat 1024)).map fun k =>
    let i := 214 + 4 * k
    let w3 := L.word 2 0 (i + 3)
    (macOf (L.word 2 0 i) (L.word 2 0 (i + 1)) (L.word 2 0 (i + 2)), fld w3 0 12, fld w3 12 8)

/-- Body index of stream record `s`. -/
def Layout.streamAt (L : Layout) (s : Nat) : Nat := 214 + 4 * L.nstat + 5 * s
def Layout.streamMac (L : Layout) (s : Nat) : BitVec 48 :=
  macOf (L.word 2 0 (L.streamAt s)) (L.word 2 0 (L.streamAt s + 1)) (L.word 2 0 (L.streamAt s + 2))
def Layout.streamVid (L : Layout) (s : Nat) : BitVec 12 := fld (L.word 2 0 (L.streamAt s + 3)) 0 12
def Layout.resetMs (L : Layout) (s : Nat) : Nat := fldN (L.word 2 0 (L.streamAt s + 4)) 8 12
def Layout.hist (L : Layout) (s : Nat) : Nat := fldN (L.word 2 0 (L.streamAt s + 4)) 0 6
/-- The five words of stream record `s`. -/
def Layout.streamRec (L : Layout) (s : Nat) : List Word :=
  if s < L.nstream then (List.range 5).map fun k => L.word 2 0 (L.streamAt s + k) else []

/-- Body indices of the SLOTS blocks (at most six). -/
def slotBlocks (L : Layout) : Nat → Nat → List Nat
  | 0, _ => []
  | n + 1, i =>
    let w := L.word 8 0 i
    i :: slotBlocks L n (i + 2 + 2 * fldN w 3 6 + 3 * fldN w 9 5)

/-- Body index of port `p`'s SLOTS block, if it has one. -/
def Layout.slotBlock (L : Layout) (p : Nat) : Option Nat :=
  (slotBlocks L (min (fldN (L.word 8 0 0) 0 3) 6) 1).find? fun i => fldN (L.word 8 0 i) 0 3 == p

/-- A gate entry: START in 8 ns units, GATES, DROP. -/
structure GateEntry where
  start : Nat
  gates : BitVec 8
  drop  : Bool
  deriving DecidableEq, Repr

/-- Gate entries of port `p` (R462). -/
def Layout.gates (L : Layout) (p : Nat) : List GateEntry :=
  match L.slotBlock p with
  | .none => []
  | .some i =>
    (List.range (fldN (L.word 8 0 i) 3 6)).map fun k =>
      let a := L.word 8 0 (i + 2 + 2 * k)
      let b := L.word 8 0 (i + 3 + 2 * k)
      { start := a.toNat + 2 ^ 20 * fldN b 0 4, gates := fld b 4 8, drop := bit b 12 }

def Layout.guard (L : Layout) (p : Nat) : Nat := (L.slotBlock p).elim 0 fun i => fldN (L.word 8 0 (i + 1)) 8 12
def Layout.gateM (L : Layout) (p : Nat) : Nat := (L.slotBlock p).elim 0 fun i => fldN (L.word 8 0 (i + 1)) 0 8

/-- An arrival window: EARLY, LATE in 8 ns units, DROP_LATE. -/
def Layout.window (L : Layout) (p k : Nat) : Option (Nat × Nat × Bool) :=
  match L.slotBlock p with
  | .none => .none
  | .some i =>
    if k < fldN (L.word 8 0 i) 9 5 then
      let b := i + 2 + 2 * fldN (L.word 8 0 i) 3 6 + 3 * k
      let w2 := L.word 8 0 (b + 2)
      some ((L.word 8 0 b).toNat + 2 ^ 20 * fldN w2 0 4, (L.word 8 0 (b + 1)).toNat + 2 ^ 20 * fldN w2 4 4, bit w2 8)
    else .none

/-! GRADER sections (TYPE 0x04). -/

def Layout.nnode (L : Layout) : Nat := fldN (L.word 4 0 0) 0 8
def Layout.depth (L : Layout) : Nat := if L.nnode = 0 then 256 else fldN (L.word 4 0 1) 0 10
/-- Word `j` of node record `i`. -/
def Layout.node (L : Layout) (i j : Nat) : Word := L.word 4 0 (2 + 64 * i + j)
def Layout.nrule (L : Layout) : Nat := fldN (L.word 4 1 0) 0 12
/-- Word `j` of rule record `i`. -/
def Layout.ruleWord (L : Layout) (i j : Nat) : Word := L.word 4 1 (1 + 12 * i + j)
/-- Offcut settings, R486 where the section is absent. -/
def Layout.ofcCfg (L : Layout) : BitVec 12 := if (L.sect 4 2).isSome then fld (L.word 4 2 0) 0 12 else 0x014

/-- Word `i` of a Grader bank (R488). -/
def Layout.grdWord (L : Layout) (i : Nat) : Word :=
  if i < 8192 then (if i < 64 * L.nnode then L.word 4 0 (2 + i) else 0)
  else if i - 8192 < 12 * L.nrule then L.word 4 1 (1 + (i - 8192)) else 0

end Sys2Proof.Machine
end

