-- ==== Sys2Proof/Machine/UnitsIo.lean ====
section
/-! DEFINITION. The state of the CAN controllers (14), the Treads (15), the two-wire bus (16) and the host
interfaces (17), and the readers of the TREAD section. -/

namespace Sys2Proof.Machine

/-- CAN.STATE.STATE (14 R546). -/
inductive CanState | errorActive | warning | errorPassive | busOff | recovering
  deriving DecidableEq, Repr

/-- A buffer in transmission: its index, its copy in the transmit store and the stamp of its SOF (R537, R538, R540). -/
structure CanTx where
  buf   : Fin 128
  frame : CanFrame
  stamp : BitVec 80
  /-- CMD 2 was written while it was ACTIVE (R539). -/
  abort : Bool
  /-- It was DEFERRED before. -/
  late  : Bool
  deriving DecidableEq, Repr

/-- One CAN controller; its buffers and filters lie in the Loft (R522). -/
structure Can where
  /-- CAN.MODE bits 12:0; bit 15 CFG_ERR is `cfgErr`. -/
  mode    : BitVec 13
  cfgErr  : Bool
  nbtA    : BitVec 16
  nbtB    : BitVec 15
  dbt     : BitVec 20
  xbt     : BitVec 20
  tdc     : BitVec 17
  st      : CanState
  recC    : BitVec 8
  tecC    : BitVec 9
  txres   : BitVec 3
  tguard  : BitVec 16
  rxcfg   : BitVec 9
  errType : BitVec 3
  errPhase : BitVec 2
  cnt     : Vector (BitVec 19) 8
  hpm     : Vector (Vector Word 44) 4
  /-- Core cycle at which the stamp counter was 0 (R541). -/
  stamp0  : Nat
  /-- It takes part in bus traffic (R521). -/
  joined  : Bool
  tx      : Option CanTx
  /-- The stroke whose occurrence of a timed buffer is over: it failed, or the request came after S_max (R545). -/
  missed  : Mem (Option (BitVec 40))
  deriving DecidableEq, Repr

def Can.reset : Can :=
  { mode := 0x400, cfgErr := false, nbtA := 0, nbtB := 0, dbt := 0, xbt := 0, tdc := 0, st := .errorActive, recC := 0,
    tecC := 0, txres := 0, tguard := 0, rxcfg := 0, errType := 0, errPhase := 0, cnt := Vector.replicate 8 0,
    hpm := Vector.replicate 4 (Vector.replicate 44 0), stamp0 := 0, joined := false, tx := none, missed := [] }

/-- TRD STATE (15 R574). -/
inductive TreadState | idle | running | waiting | parked | halted | stopped
  deriving DecidableEq, Repr

/-- What a Tread waits for. -/
inductive TreadWait
  | hold (src : BitVec 2) (pol : Bool) (idx : Fin 8)
  | at_ (reg adv lapq : Bool)
  | take (cond tox : Bool)
  | give (cond : Bool)
  /-- SCATTER waiting for its automatic feed. -/
  | feed (dst : BitVec 2) (n : BitVec 5)
  /-- The automatic drain after a GATHER. -/
  | drain
  deriving DecidableEq, Repr

/-- One Tread (15, Registers, program counter and wrap). -/
structure Tread where
  x : Word
  y : Word
  si : Word
  so : Word
  icnt : Nat
  ocnt : Nat
  z : Bool
  c : Bool
  pc : BitVec 8
  dir : BitVec 8
  latch : BitVec 8
  tx : List Word
  rx : List Word
  st : TreadState
  /-- State before a park or a halt: RUNNING, WAITING or IDLE. -/
  prev : TreadState
  wait : Option TreadWait
  yielded : Bool
  /-- The Tread cycle in which the wait began (R569). -/
  since : Nat
  /-- Ticks since the last restart of the divider, and the Tread cycle of that restart (R559). -/
  ticks : Nat
  c0 : Nat
  txOvf : BitVec 10
  rxUnf : BitVec 10
  /-- The Tread cycle of the last FIFO access, and the levels at its start (R564). -/
  lvlCyc : Nat
  txAt : Nat
  rxAt : Nat
  deriving DecidableEq, Repr

def Tread.reset : Tread :=
  { x := 0, y := 0, si := 0, so := 0, icnt := 0, ocnt := 0, z := false, c := false, pc := 0, dir := 0, latch := 0,
    tx := [], rx := [], st := .idle, prev := .idle, wait := none, yielded := false, since := 0, ticks := 0, c0 := 0, txOvf := 0,
    rxUnf := 0, lvlCyc := 0, txAt := 0, rxAt := 0 }

/-- One flight. -/
structure Flight where
  flags   : BitVec 8
  /-- The Tread cycle in which each flag was last set (R570). -/
  setAt   : Vector (Option Nat) 8
  result  : BitVec 2
  bank    : Bool
  plane   : Bool
  index   : BitVec 11
  stalls  : BitVec 20
  foreign : BitVec 20
  rxDrop  : BitVec 20
  /-- FLIGHT_f_STALL already raised in this stroke (R585). -/
  stallRaised : Bool
  /-- An engine reset has been accepted and its 2 µs run, and the core cycle of its acceptance (R578). -/
  resetting : Bool
  resetCyc : Nat
  deriving DecidableEq, Repr

def Flight.reset : Flight :=
  { flags := 0, setAt := Vector.replicate 8 none, result := 0, bank := false, plane := false, index := 0, stalls := 0, foreign := 0, rxDrop := 0,
    stallRaised := false, resetting := false, resetCyc := 0 }

/-- The Treads and flights. -/
structure Trd where
  /-- Tread cycles from the last C, W or D reset to the start of the running stroke (R557). -/
  base   : Nat
  tread  : Vector Tread 32
  flight : Vector Flight 4
  deriving DecidableEq, Repr

def Trd.reset : Trd := { base := 0, tread := Vector.replicate 32 Tread.reset, flight := Vector.replicate 4 Flight.reset }

/-! TREAD section (TYPE 0x0B), instance = flight. -/

def Layout.flightPresent (L : Layout) (f : Nat) : Bool := L.present (16 + f)
def Layout.startSet (L : Layout) (f : Nat) : BitVec 8 := fld (L.word 11 f 0) 0 8
def Layout.plen (L : Layout) (f : Nat) : Nat := fldN (L.word 11 f 1) 0 12
/-- Record word `k` of Tread `t`. -/
def Layout.trd (L : Layout) (t k : Nat) : Word := L.word 11 (t / 8) (2 + 6 * (t % 8) + k)
/-- Program store word `w` of flight `f`. -/
def Layout.prog (L : Layout) (f w : Nat) : Word := if w < L.plen f then L.word 11 f (50 + w) else 0
def Layout.trdStart (L : Layout) (t : Nat) : BitVec 8 := fld (L.trd t 0) 11 8
def Layout.trdBase (L : Layout) (t : Nat) : BitVec 11 := fld (L.trd t 0) 0 11
def Layout.trdDiv (L : Layout) (t : Nat) : Nat := (L.trd t 2).toNat + 2 ^ 20 * fldN (L.trd t 3) 0 4
def Layout.putMask (L : Layout) (t : Nat) : BitVec 8 := fld (L.trd t 3) 12 8
def Layout.dirs (L : Layout) (t : Nat) : BitVec 8 := fld (L.trd t 3) 4 8
def Layout.inDir (L : Layout) (t : Nat) : Bool := bit (L.trd t 4) 13
def Layout.outDir (L : Layout) (t : Nat) : Bool := bit (L.trd t 4) 12
def Layout.autoDrain (L : Layout) (t : Nat) : Bool := bit (L.trd t 4) 11
def Layout.autoFeed (L : Layout) (t : Nat) : Bool := bit (L.trd t 4) 10
def Layout.inWidth (L : Layout) (t : Nat) : Nat := fldN (L.trd t 4) 5 5
def Layout.outWidth (L : Layout) (t : Nat) : Nat := fldN (L.trd t 4) 0 5
def Layout.rxThr (L : Layout) (t : Nat) : Nat := fldN (L.trd t 5) 16 4
def Layout.txThr (L : Layout) (t : Nat) : Nat := fldN (L.trd t 5) 12 4
def Layout.trdJf (L : Layout) (t : Nat) : Nat := fldN (L.trd t 5) 9 3
def Layout.gatherBase (L : Layout) (t : Nat) : Nat := fldN (L.trd t 5) 6 3
def Layout.scatterBase (L : Layout) (t : Nat) : Nat := fldN (L.trd t 5) 3 3
def Layout.jpin (L : Layout) (t : Nat) : Nat := fldN (L.trd t 5) 0 3

/-- A queue behind a result register, with the value last consumed (17 R649, R650). -/
structure ResultQueue (w : Nat) where
  queue : List (BitVec w)
  last  : Option (BitVec w)
  deriving DecidableEq, Repr

/-- A queued controller transfer (16 R593). -/
structure TwbDesc where
  rd   : Bool
  ten  : Bool
  addr : BitVec 10
  pec  : Bool
  stop : Bool
  len  : BitVec 8
  deriving DecidableEq, Repr

/-- What a controller is doing on the bus (16). -/
inductive TwbRole | idle | controller (attn : Bool) | target
  deriving DecidableEq, Repr

/-- A transfer whose octets have passed on the bus but for those a FIFO could not give or take: SCL is held (R597, R601). -/
inductive TwbHold
  /-- Octets received and not yet in RXD; STATUS and COUNT of the result. -/
  | read (rest : List Octet) (status : BitVec 4) (count : Nat)
  /-- Octets still to be taken from TXD. -/
  | write (need : Nat) (status : BitVec 4) (count : Nat)
  /-- Entries not yet in TRX. -/
  | targetWrite (rest : List (BitVec 12))
  /-- Octets still to be taken from TTX. -/
  | targetRead (need : Nat)
  deriving DecidableEq, Repr

/-- One two-wire bus controller. -/
structure Twb where
  cfg    : BitVec 11
  taddr  : Vector (BitVec 13) 2
  attnRxa : BitVec 9
  attnTx : BitVec 11
  attnData : Vector (BitVec 16) 2
  xaddr  : BitVec 12
  queue  : List TwbDesc
  txd    : List Octet
  rxd    : List Octet
  ttx    : List Octet
  trx    : List (BitVec 12)
  /-- Results: bits 13 ATTN, 12:4 COUNT, 3:0 STATUS. -/
  res    : ResultQueue 14
  /-- Attention messages: PEC and 1 to 4 octets. -/
  attn   : List (Bool × List Octet)
  attnLast : Option (Bool × List Octet)
  attnD  : Vector (BitVec 16) 2
  tlast  : BitVec 3
  role   : TwbRole
  /-- The bus is held by this controller after a transfer with STOP = 0, since this core cycle (R594, R595). -/
  holds  : Bool
  holdCyc : Nat
  /-- ATTN_GO waits for the free bus (R610). -/
  attnGo : Bool
  /-- Losses of arbitration of the current descriptor or message (R604). -/
  losses : Nat
  /-- The transfer in progress is to end after its current octet (R598, R613). -/
  ending : Bool
  recover : Bool
  /-- What the transfer in progress waits for (R597, R601). -/
  stretch : Option TwbHold
  /-- PEC over the octets of the running transaction (R606). -/
  crc : Octet
  alertLow : Bool
  cause  : BitVec 6
  cnt    : Vector (BitVec 19) 5
  deriving DecidableEq, Repr

def Twb.reset : Twb :=
  { cfg := 0x184, taddr := Vector.replicate 2 0, attnRxa := 0, attnTx := 0x08, attnData := Vector.replicate 2 0, xaddr := 0,
    queue := [], txd := [], rxd := [], ttx := [], trx := [], res := { queue := [], last := none }, attn := [],
    attnLast := none, attnD := Vector.replicate 2 0, tlast := 0, role := .idle, holds := false, holdCyc := 0, attnGo := false, losses := 0,
    ending := false, recover := false, stretch := none, crc := 0, alertLow := false, cause := 0, cnt := Vector.replicate 5 0 }

/-- One DMA channel (17, SYS.DMA_c). -/
structure Dma where
  en   : Bool
  dir  : Bool
  vec  : BitVec 5
  ring : BitVec 4
  base : BitVec 64
  tail : BitVec 12
  head : BitVec 12
  halt : Bool
  busy : Bool
  done : BitVec 20
  /-- The descriptor at HEAD was read with OWN = 0: it is read again at the next write of TAIL (R626). -/
  asleep : Bool
  /-- It waits for its DMA budget in this stroke (03 R113). -/
  held : Bool
  deriving DecidableEq, Repr

/-- An MSI-X table entry. -/
structure Msix where
  addr : BitVec 64
  data : BitVec 32
  mask : Bool
  deriving DecidableEq, Repr

/-- A write in the parallel bus's write buffer: address of the 128 KiB space, data, octet enables (R638). -/
structure ParWrite where
  addr : BitVec 17
  data : BitVec 16
  /-- Bit k set: octet k of the half is enabled. -/
  be   : BitVec 2
  deriving DecidableEq, Repr

/-- The host interfaces (17). -/
structure HostIf where
  hsel    : BitVec 2
  ready   : Bool
  /-- An H reset runs (R652, R653); with `linkWait` it waits for link-up first. -/
  resetting : Bool
  linkWait  : Bool
  page    : BitVec 8
  errCount : BitVec 8
  errLast : BitVec 4
  qErr    : Bool
  linkUp  : Bool
  linkSpeed : BitVec 2
  linkWidth : BitVec 2
  d3      : Bool
  dma     : Vector Dma 8
  msix    : Vector Msix 32
  pba     : BitVec 32
  wbuf    : List ParWrite
  /-- The half-shadow (R639). -/
  half    : BitVec 16
  /-- The held low half: its parallel address, the unified address it stood for, and the data (R639). -/
  heldLow : Option (BitVec 17 × Nat × BitVec 16)
  /-- Shadows of latched multi-word values, one set per reader (R646, R647): key reader × 2^18 + offset / 4,
  reader 0 the host, 1 the Warden, 2 + n Hewer n. -/
  shadow  : Mem (BitVec 32)
  deriving DecidableEq, Repr

def Dma.reset : Dma :=
  { en := false, dir := false, vec := 0, ring := 4, base := 0, tail := 0, head := 0, halt := false, busy := false, done := 0,
    asleep := false, held := false }

def HostIf.reset : HostIf :=
  { hsel := 0, ready := false, resetting := false, linkWait := false, page := 0, errCount := 0, errLast := 0, qErr := false,
    linkUp := false, linkSpeed := 0, linkWidth := 0, d3 := false, dma := Vector.replicate 8 Dma.reset,
    msix := Vector.replicate 32 { addr := 0, data := 0, mask := true }, pba := 0, wbuf := [], half := 0, heldLow := none,
    shadow := [] }

end Sys2Proof.Machine
end

