-- ==== Sys2Proof/Machine/UnitsSys.lean ====
section
/-! DEFINITION. The state of the Warden (19), of flash and fuses, of the security island (20), of field updates (21)
and of supply, islands, power states and pins (22, 04). -/

namespace Sys2Proof.Machine

/-- An entry of the undo journal (06 R277): what a Warden word held before the write. -/
inductive JEntry
  | ram (a : Word) (old : Word)
  /-- a Warden I/O word marked "core" -/
  | io (a : Word) (old : Word)
  /-- a cleared pending bit (19 R688) -/
  | pend (v : Fin 32)
  /-- XCAUSE and XADDR as an exception found them; no write, and no part of the level (log 136) -/
  | cause (c : BitVec 4) (a : Word)
  deriving DecidableEq, Repr

/-- A fuse blow on its way (20 R743). -/
inductive FuseBlow
  | revoke (k : Fin 4)
  | pkey (s : Fin 16)
  deriving DecidableEq, Repr

/-- What a queued write or consumption of the Warden concerns (19, address view). -/
inductive WTarget
  /-- a word of the Warden's view below its Window A page -/
  | word (a : Word)
  /-- bits 19:0 of the Window A register at an offset -/
  | reg (off : Nat)
  /-- bits 31:20 of it -/
  | high (off : Nat)
  deriving DecidableEq, Repr

/-- An entry of the Warden's release queue (06 R275, 19 R688, R689). -/
inductive REntry
  /-- A release mark (R274). -/
  | mark
  /-- A write. -/
  | write (t : WTarget) (v : Word)
  /-- The consumption of a result register or FIFO. -/
  | consume (t : WTarget)
  /-- A response to a command. -/
  | response (src : CmdSource) (words : List Word)
  /-- A session message to the service port (21). -/
  | message (kind : Octet) (words : List Word)
  /-- A log record, without MARKER, SEQ and CHECK. -/
  | log (type : BitVec 8) (arg : BitVec 10) (time : BitVec 80) (sync : BitVec 2) (payload : List Word)
  | fuse (b : FuseBlow)
  /-- The command channel of a host context is freed, its command having been read (19 R714). -/
  | free (h : Fin 4)
  deriving DecidableEq, Repr

/-- A flash operation in progress (19, FCMD). -/
inductive FlashOp
  | program (addr : Nat) (octets : List Octet)
  | erase (addr : Nat)
  deriving DecidableEq, Repr

/-- WDN.STATE.MODE. -/
inductive WdnMode | boot | run | restart | down | held
  deriving DecidableEq, Repr

/-- One monitored rail (19 WDN.RAIL_i, 22 R791). -/
structure Rail where
  fault : Bool
  mv    : BitVec 13
  /-- Since when it has been back inside its warn band, as core cycles. -/
  good  : Option Nat
  deriving DecidableEq, Repr

/-- The sensor hub's registers (19). -/
structure Sensors where
  temp  : Vector (BitVec 12) 8
  vin   : BitVec 16
  iin   : BitVec 13
  rail  : Vector Rail 12
  ppm   : BitVec 16
  clkOk : BitVec 4
  /-- Core cycle of the last SENSORS log record (R706). -/
  logged : Nat
  deriving DecidableEq, Repr

/-- The lockstep pair's restart bookkeeping (19). -/
structure Restart where
  count  : BitVec 8
  cause  : BitVec 4
  group  : BitVec 6
  /-- Core cycles of the counting restarts of the last 1,000 ms, newest first (R698). -/
  recent : List Nat
  deriving DecidableEq, Repr

/-- The Warden. -/
structure Wdn where
  eng     : Eng
  ram     : Mem Word
  ckpt    : Vector Checkpoint 2
  /-- Which checkpoint buffer is marked complete (R274). -/
  done    : Fin 2
  journal : List JEntry
  jPeak   : BitVec 12
  /-- The release queue: at most 64 entries beside marks (06 R280). -/
  relq    : List REntry
  relPeak : BitVec 7
  /-- The entry at the queue's head has found no beat: it waits for step 4 (03 R109, R110). -/
  relWait : Bool
  /-- MODEL'S OWN: entries that the firmware, as the model's rows perform it, has still to queue (log 31). -/
  late    : List REntry
  mode    : WdnMode
  slot    : Bool
  restart : Restart
  stPass  : Bool
  stGroup : BitVec 6
  limit   : BitVec 7
  /-- Executed Warden cycles since the last complete CKPT (R696). -/
  age     : Nat
  /-- The CKPT limit runs: a CKPT has completed since start-up. -/
  ageOn   : Bool
  apage   : BitVec 4
  swapRes : BitVec 2
  faddr   : BitVec 25
  fbuf    : Vector Word 16
  fcmd    : Option FlashOp
  flocked : Bool
  ferror  : Bool
  tx      : TxTap
  codeWords : Nat
  /-- SHA-256 of the code region kept at start-up (R694). -/
  codeDigest : BitVec 256
  version : Word
  /-- Cause and comparator group of the management restart that runs. -/
  why     : Option (BitVec 4 × BitVec 6)
  sens    : Sensors
  svpConf : Bool
  session : Bool
  /-- LOG_STAT.SECTOR: the sector being written, as of the last record (19). -/
  logSector : BitVec 8
  deriving DecidableEq, Repr

def Checkpoint.reset : Checkpoint :=
  { w := Vector.replicate 16 0, fl := ⟨false, false, false, false, false⟩, ie := false, lvl := 0, next := 0 }

def Sensors.reset : Sensors :=
  { temp := Vector.replicate 8 0, vin := 0, iin := 0, rail := Vector.replicate 12 { fault := false, mv := 0, good := none },
    ppm := 0, clkOk := 0, logged := 0 }

/-- WDN.CLK (19). -/
def Sensors.clk (x : Sensors) : BitVec 32 := x.ppm ++ (0#12 ++ x.clkOk)

def Wdn.reset : Wdn :=
  { eng := Eng.reset, ram := [], ckpt := Vector.replicate 2 Checkpoint.reset, done := 0, journal := [], jPeak := 0,
    relq := [], relPeak := 0, relWait := false, late := [], mode := .boot, slot := false, restart := { count := 0, cause := 0, group := 0, recent := [] },
    stPass := false, stGroup := 0, limit := 10, age := 0, ageOn := false, apage := 0, swapRes := 0, faddr := 0,
    fbuf := Vector.replicate 16 0, fcmd := none, flocked := false, ferror := false, tx := TxTap.reset, codeWords := 0,
    codeDigest := 0, version := 0, why := none, sens := Sensors.reset, svpConf := false, session := false,
    logSector := 0 }

/-- States of a slot in the slot directory (21). -/
inductive SlotState | empty | receiving | valid | invalid
  deriving DecidableEq, Repr

/-- One flash slot: its octets and its directory state. -/
structure Slot where
  st     : SlotState
  octets : List Octet
  deriving DecidableEq, Repr

/-- An owner key as provisioned (20, Keys and fuses): the public key in the key partition, and its digest in the fuses. -/
structure OwnerKey where
  x      : BitVec 256
  y      : BitVec 256
  digest : BitVec 256
  deriving DecidableEq, Repr

/-- Flash and fuses: what survives every reset (22 R815). -/
structure Flash where
  /-- Slots by TYPE and SLOT: key 128 × TYPE + SLOT; unlisted slots are EMPTY. -/
  slots    : Mem Slot
  /-- Octets the Warden has programmed through the flash interface; an unlisted octet is erased (0xFF). -/
  raw      : Mem Octet
  bootSlot : BitVec 3
  fallback : BitVec 3
  fwConfirmed : Bool
  /-- Substitution table: old package digest, new slot (21 R780). -/
  subst    : List (BitVec 256 × BitVec 7)
  /-- Log ring: record 85 × sector + i as its sixteen words (19 R707). -/
  log      : Mem (List Word)
  /-- Next SEQ (R708). -/
  seq      : BitVec 40
  hwm      : BitVec 40
  sector   : BitVec 8
  record   : Nat
  wraps    : BitVec 8
  revoked  : BitVec 4
  owner    : Vector (Option OwnerKey) 4
  pkeys    : BitVec 16
  pkDisabled : BitVec 16
  uid      : BitVec 40
  debugOff : Bool
  svpOff   : Bool
  vid      : BitVec 16
  idX      : BitVec 256
  idY      : BitVec 256
  /-- The part is an NG-6420-32 (32 MiB of flash). -/
  big      : Bool
  deriving DecidableEq, Repr

def Slot.empty : Slot := { st := .empty, octets := [] }

/-- Flash and fuse contents come from outside (log 2): the reset value lists nothing. The part is taken to be an NG-6420-16, one of the two
that the manual covers (00 R2; DESIGN CHOICE, log 172). -/
def Flash.blank : Flash :=
  { slots := [], raw := [], bootSlot := 0, fallback := 0, fwConfirmed := false, subst := [], log := [], seq := 0, hwm := 0, sector := 0,
    record := 0, wraps := 0, revoked := 0, owner := Vector.replicate 4 none, pkeys := 0, pkDisabled := 0, uid := 0, debugOff := false,
    svpOff := false, vid := 0, idX := 0, idY := 0, big := false }

/-- TRNG states (20). -/
inductive TrngState | startup | ok | fail | dead
  deriving DecidableEq, Repr

/-- The two continuous health tests of the raw bits (20 R747): the last bit and how often it has come in a row; of the current window of
1,024 bits the first bit, how many have come, and how many of them were like the first. -/
structure Health where
  last  : Option Bool
  run   : Nat
  first : Bool
  seen  : Nat
  same  : Nat
  deriving DecidableEq, Repr

def Health.reset : Health := { last := none, run := 0, first := false, seen := 0, same := 0 }

/-- One consumer's request port of the DRBG (20 R750): data and STATUS of the result. -/
structure RngPort (w : Nat) where
  pending : Bool
  res     : ResultReg w
  status  : BitVec 2
  deriving DecidableEq, Repr

/-- An attempt counter of authenticated requests (20 R741, 21 R768). -/
structure Lockout where
  run  : BitVec 4
  /-- Core cycle of the last failure with STATUS 4. -/
  last : Nat
  deriving DecidableEq, Repr

/-- The security island. -/
structure Sec where
  scope   : BitVec 2
  auth    : Vector Word 16
  sig     : Vector Word 26
  /-- The nonce and the core cycle it was drawn at (R739). -/
  nonce   : Option (BitVec 128 × Nat)
  /-- SEC.NONCE as last written. -/
  nonceReg : BitVec 128
  /-- Host claims. -/
  claim   : BitVec 56
  /-- Warden claims. -/
  wclaim  : BitVec 56
  denyCount : BitVec 8
  denyReason : BitVec 2
  denyIsland : BitVec 6
  host    : RngPort 128
  /-- RNG_DATA as latched by the last consuming read. -/
  hostData : BitVec 128
  hewer   : Vector (RngPort 16) 16
  wdn     : RngPort 16
  /-- Attestation: running, with the block's digest at the GO. -/
  att     : Option (BitVec 256)
  attRes  : ResultReg 2
  /-- The signature produced, and ATT_SIG as latched. -/
  attSig  : BitVec 512
  attLatch : BitVec 512
  trng    : TrngState
  health  : Health
  /-- A start-up test runs. -/
  testing : Bool
  /-- The DRBG is being seeded. -/
  seeding : Bool
  fails   : BitVec 8
  lastApt : Bool
  run     : BitVec 4
  reseeds : BitVec 20
  calls   : Nat
  lastSeed : Nat
  authFails : BitVec 8
  lock    : Lockout
  svpNonce : Option (BitVec 128 × Nat)
  svpLock : Lockout
  deriving DecidableEq, Repr

def RngPort.reset (w : Nat) : RngPort w := { pending := false, res := ResultReg.empty w, status := 0 }

def Sec.reset : Sec :=
  { scope := 0, auth := Vector.replicate 16 0, sig := Vector.replicate 26 0, nonce := none, nonceReg := 0, claim := 0,
    wclaim := 0xF, denyCount := 0, denyReason := 0, denyIsland := 0, host := RngPort.reset 128, hostData := 0,
    hewer := Vector.replicate 16 (RngPort.reset 16), wdn := RngPort.reset 16, att := none, attRes := ResultReg.empty 2,
    attSig := 0, attLatch := 0, trng := .startup, health := Health.reset, testing := true, seeding := false, fails := 0, lastApt := false, run := 0,
    reseeds := 0, calls := 0, lastSeed := 0, authFails := 0, lock := { run := 0, last := 0 }, svpNonce := none,
    svpLock := { run := 0, last := 0 } }

/-- The open update (21 R763). -/
structure OpenUpdate where
  src    : CmdSource
  type   : BitVec 2
  slot   : BitVec 7
  size   : Nat
  digest : BitVec 256
  bitmap : BitVec 96
  /-- Core cycle of the owner's last UPDATE_BLOCK or UPDATE_END (R767). -/
  last   : Nat
  deriving DecidableEq, Repr

/-- An activation on its way, and what its taking effect does (21 R775-R782). -/
structure Activation where
  type   : BitVec 2
  slot   : BitVec 7
  trial  : Option Nat
  boot   : Bool
  /-- Substitution entries it will write. -/
  subst  : List (BitVec 256 × BitVec 7)
  /-- Armed by an UPDATE_ACTIVATE_AT (R783). -/
  at_    : Bool
  /-- Who sent the activate command (R789). -/
  src    : CmdSource
  deriving DecidableEq, Repr

/-- An activate command whose staging is in its write phase (21 R775, R777). -/
structure UpdWait where
  act    : Activation
  src    : CmdSource
  tag    : BitVec 8
  hewers : BitVec 16
  /-- UPDATE_ACTIVATE_AT: LOCAL, KIND and the target. -/
  target : Option (Bool × Bool × Vector Word 4)
  deriving DecidableEq, Repr

/-- A pending trial (21 R784): what confirming it does, and its deadline once it has taken effect. -/
structure Trial where
  act      : Activation
  deadline : Option Nat
  deriving DecidableEq, Repr

/-- Field updates. -/
structure Upd where
  cur      : Option OpenUpdate
  ubuf     : Mem Octet
  sbuf     : Mem Octet
  /-- Activation that waits for entry 0, and firmware activation that waits for entry 1 or the switch. -/
  lay      : Option Activation
  fw       : Option Activation
  wait     : Option UpdWait
  trial    : Option Trial
  reverted : Bool
  /-- The latest trial's deadline was missed (STATUS 13). -/
  missed   : Bool
  slotSel  : BitVec 10
  /-- Core cycle of the session's last message. -/
  sessLast : Nat
  deriving DecidableEq, Repr

def Upd.reset : Upd :=
  { cur := none, ubuf := [], sbuf := [], lay := none, fw := none, wait := none, trial := none, reverted := false,
    missed := false, slotSel := 0, sessLast := 0 }

/-- Reset kinds that hold the whole device (22 R813). -/
inductive ResetKind | C | W | D
  deriving DecidableEq, Repr

/-- Power states (22 PWR.STATE.CUR). -/
inductive PowerState | run | drowse | entering
  deriving DecidableEq, Repr

/-- What an island is doing. -/
structure IslandReq where
  island : Fin 56
  on     : Bool
  /-- The request came through PWR.ISL_REQ and reports there. -/
  host   : Bool
  deriving DecidableEq, Repr

/-- Power, resets and the PWR registers. -/
structure Pwr where
  cur      : PowerState
  /-- The accepted request: Deep when true (R805). -/
  req      : Option Bool
  stop     : Bool
  /-- Core cycle at which it began. -/
  stopCyc  : Nat
  /-- The controlled stop has reached its halt (R820). -/
  halted   : Bool
  stateRes : ResultReg 3
  wakeCfg  : BitVec 4
  wakeCause : BitVec 5
  /-- MODEL'S OWN: core cycle of the latest wake in Run or Drowse; sources of the same cycle join its record (R811). -/
  wakeCyc  : Option Nat
  /-- A wake has been accepted and completes within 50 µs. -/
  waking   : Bool
  alarm    : BitVec 40
  alarmOn  : Bool
  cause    : BitVec 4
  rail     : BitVec 4
  vinLow   : BitVec 12
  /-- The latest VIN sample lies below LOW. -/
  below    : Bool
  /-- VIN_LOW has been raised and VIN_OK not yet (R793). -/
  lowSeen  : Bool
  dips     : BitVec 20
  autoResume : Bool
  resume   : BitVec 8
  high     : BitVec 8
  /-- TEMP_HIGH may be raised (R819). -/
  highArmed : Bool
  stops    : BitVec 8
  peak     : BitVec 12
  /-- Sensor i read 125 °C or more at its last sample (R820). -/
  crit     : BitVec 8
  islRes   : ResultReg 9
  islOn    : BitVec 56
  /-- Transitions in progress. -/
  moves    : List IslandReq
  /-- Islands whose re-application runs (04 R177). -/
  reapply  : BitVec 56
  /-- A C, W or D reset holds the device. -/
  held     : Option ResetKind
  /-- The device is in Deep: a D reset holds it until a wake (R809). -/
  deep     : Bool
  /-- The device is Off (22, power states). -/
  off      : Bool
  pllB     : Bool
  clockHold : Bool
  /-- Core cycle of the W reset that an answered SYSTEM_RESET will perform (19 R717). -/
  resetAt  : Option Nat
  /-- FAULT_N is driven low. -/
  faultN   : Bool
  deriving DecidableEq, Repr

/-- Islands that are on after a C reset is released: AON, Warden, security, flash, timebase, sensor hub (22). -/
def bootIslands : BitVec 56 := 0xC000000000000F

def Pwr.reset : Pwr :=
  { cur := .run, req := none, stop := false, stopCyc := 0, halted := false, stateRes := ResultReg.empty 3, wakeCfg := 1, wakeCause := 0,
    wakeCyc := none, waking := false, alarm := 0, alarmOn := false, cause := 1, rail := 0, vinLow := 430, below := false, lowSeen := false, dips := 0,
    autoResume := true, resume := 95, high := 105, highArmed := true, stops := 0, peak := 0, crit := 0,
    islRes := ResultReg.empty 9, islOn := bootIslands, moves := [], reapply := 0, held := some .C, deep := false, off := false,
    pllB := true, clockHold := false, resetAt := none, faultN := true }

/-- What an MFP pin does (04 R162, 15 Pins across events). -/
inductive PinUse
  | hiZ
  | fallback
  | func
  | hold
  deriving DecidableEq, Repr

/-- The MFP pins. -/
structure Pins where
  /-- The PINS record in force at each pin. -/
  recs : Vector Word 96
  use  : Vector PinUse 96
  /-- The pins that keep a high level they were driving (FALLBACK code 5, 15 R581). -/
  high : BitVec 96
  /-- The banks A to D whose VIO rail lies below 1.0 V, as last sampled (23 R830). -/
  unfed : BitVec 4
  deriving DecidableEq, Repr

/-- No bank is known to be unfed before its rail is sampled (DESIGN CHOICE, log 176). -/
def Pins.reset : Pins := { recs := Vector.replicate 96 0, use := Vector.replicate 96 .hiZ, high := 0, unfed := 0 }

/-- What the device has sent to the outside, newest first (the model's own record). -/
inductive Sent
  /-- A frame on a port: octets with their FCS; false when the FCS was complemented. -/
  | frame (p : Fin 6) (octets : List Octet) (true_ : Bool)
  | msix (v : Fin 32)
  /-- A write-back of a DMA channel: descriptor index and octets 8-15; frame data written before it. -/
  | dma (c : Fin 8) (index : BitVec 12) (info aux : BitVec 32) (data : List Octet)
  | svp (kind : Octet) (words : List Word)
  /-- A CAN frame that a buffer has sent (14 R537, R538). -/
  | can (c : Fin 4) (buf : Fin 128) (frame : CanFrame)
  | pulse (n : Fin 2)
  deriving DecidableEq, Repr

end Sys2Proof.Machine
end

