-- ==== Sys2Proof/Machine/UnitsTime.lean ====
section
/-! DEFINITION. The state of the timebase and the scheduler (02) and of the stroke budget unit (03). -/

namespace Sys2Proof.Machine

/-- Synchronization states (02 R47). -/
inductive SyncState | unsynced | synced | holdover
  deriving DecidableEq, Repr

/-- States of a scheduler entry (02, SCHED_n STATUS). -/
inductive SchedState | idle | pending | fired | aborted
  deriving DecidableEq, Repr

/-- STATUS.REASON of a scheduler entry. -/
inductive SchedReason | none | late | unsynced | cancelled | range
  deriving DecidableEq, Repr

/-- One scheduler entry (02, scheduler). -/
structure Sched where
  action   : BitVec 2
  mask     : BitVec 4
  needSync : Bool
  /-- KIND: a stroke target. -/
  stroke   : Bool
  tgt      : Vector Word 4
  st       : SchedState
  reason   : SchedReason
  /-- STATUS.OWNER: the agent's code (R69). -/
  owner    : BitVec 5
  deriving DecidableEq, Repr

/-- A pulse output (02 R82, R83). -/
structure PpsOut where
  quiet   : Bool
  mode    : BitVec 2
  width   : BitVec 13
  offset  : BitVec 16
  /-- The output is high before this count of core cycles, unless R83 keeps it low. -/
  hiUntil : Nat
  /-- Start times of the strokes whose pulse is still to rise (STROKE mode), in quarter-nanoseconds, oldest first. -/
  starts  : List Nat
  /-- The time of the last pulse, in quarter-nanoseconds. -/
  last    : Option Nat
  deriving DecidableEq, Repr

/-- A capture input (02 R81). -/
structure Capture where
  en    : Bool
  ovr   : BitVec 8
  time  : BitVec 80
  valid : Bool
  rep   : Bool
  deriving DecidableEq, Repr

/-- The clock itself. `now` counts 2^-37 quarter-nanoseconds, the step by which a rate trim of one unit moves one core
cycle (R31, R32). -/
structure Clock where
  now    : Nat
  /-- The AON timekeeper: 48 bits of seconds above 15 bits of fraction, in steps of 1/32,768 s (02, always-on timekeeper). -/
  aon    : Nat
  /-- How far the AON timekeeper is into its next step, in 1/1,953,125 of it: a core cycle is 128 (log 39). -/
  aonSub : Nat
  /-- Rate trim, -2^30 to 2^30 (R32). -/
  trim   : Int
  /-- The part of a slew not yet applied, in the unit of `now` (R50). -/
  slew   : Int
  /-- Core cycles since the release of the last C, W or D reset. -/
  cycles : Nat
  deriving DecidableEq, Repr

/-- A lower word held since core cycle `cyc` (R85, R86). -/
structure HeldWord where
  w   : Word
  cyc : Nat
  deriving DecidableEq, Repr

/-- Held lower words of TIME.RATE, ADJ and SET (R85). -/
structure HeldWords where
  rate : Option HeldWord
  adj  : Option HeldWord
  set  : Vector (Option HeldWord) 3
  deriving DecidableEq, Repr

/-- A step that waits for the boundary of its core cycle to be performed (R59): an adjustment in the unit of `now`, or an
absolute time in quarter-nanoseconds. -/
inductive StepReq | shift (x : Int) | set (q : Nat)
  deriving DecidableEq, Repr

/-- The running stroke. -/
structure Stroke where
  count   : BitVec 40
  /-- A stroke has begun since the last C, W or D reset. -/
  running : Bool
  /-- Start time: the grid point it began at (R37), in quarter-nanoseconds. -/
  start   : Nat
  /-- The grid point the next boundary falls at; none while no stroke may start. -/
  ends    : Option Nat
  /-- Core-cycle count at the stroke's start (R38). -/
  cyc0    : Nat
  /-- Phase starts already performed in this stroke: Work, Launch, Slack. -/
  phases  : Vector Bool 3
  /-- Page groups whose settle point has passed in this stroke. -/
  settled : BitVec 128
  deriving DecidableEq, Repr

/-- Synchronization (02 R46, R47). -/
structure Sync where
  st      : SyncState
  /-- Run of intervals of one kind, 0-8, and its kind. -/
  run     : Nat
  good    : Bool
  meas    : Option Word
  /-- LOG_IVL in force for the running interval, and its first core cycle. -/
  ivl     : BitVec 4
  ivlCyc0 : Nat
  /-- Core cycle of SYNC_LOST. -/
  lostCyc : Nat
  deriving DecidableEq, Repr

/-- Runtime configuration and counters of the TIME block. -/
structure TimeRegs where
  foreign   : BitVec 8
  holdMs    : BitVec 16
  logIvl    : BitVec 4
  limit     : BitVec 20
  slipTotal : BitVec 12
  slipLast  : BitVec 20
  stepLost  : BitVec 8
  steps     : BitVec 20
  lateWin   : BitVec 8
  /-- The step queue: old and new time of each step (R53). -/
  stepq     : List (BitVec 80 × BitVec 80)
  deriving DecidableEq, Repr

/-- The timebase. -/
structure Timebase where
  clk    : Clock
  held   : HeldWords
  stroke : Stroke
  sync   : Sync
  regs   : TimeRegs
  pps    : Vector PpsOut 2
  cap    : Vector Capture 2
  sched  : Vector Sched 16
  /-- Steps committed in the core cycle of a boundary not yet performed, oldest first (R59). -/
  steps  : List StepReq
  deriving DecidableEq, Repr

def Sched.reset : Sched :=
  { action := 0, mask := 0, needSync := false, stroke := false, tgt := Vector.replicate 4 0, st := .idle,
    reason := .none, owner := 0 }

/-- TIME block at reset (02, Reset columns): LOG_IVL -3, HOLD_MS 1,000, LIMIT 1,000, W 4, QUIET_UNSYNC 1. -/
def Timebase.reset : Timebase :=
  { clk := { now := 0, aon := 0, aonSub := 0, trim := 0, slew := 0, cycles := 0 },
    held := { rate := none, adj := none, set := Vector.replicate 3 none },
    stroke := { count := 0, running := false, start := 0, ends := none, cyc0 := 0,
                phases := Vector.replicate 3 false, settled := 0 },
    sync := { st := .unsynced, run := 0, good := false, meas := none, ivl := 0xD, ivlCyc0 := 0, lostCyc := 0 },
    regs := { foreign := 0, holdMs := 1000, logIvl := 0xD, limit := 1000, slipTotal := 0, slipLast := 0,
              stepLost := 0, steps := 0, lateWin := 4, stepq := [] },
    pps := Vector.replicate 2 { quiet := true, mode := 0, width := 0, offset := 0, hiUntil := 0, starts := [], last := none },
    cap := Vector.replicate 2 { en := false, ovr := 0, time := 0, valid := false, rep := false },
    sched := Vector.replicate 16 Sched.reset, steps := [] }

/-- What one activity has left, drawn and counted (03). -/
structure Activity where
  parked  : Bool
  overrun : Bool
  yielded : Bool
  cpu     : Nat
  loft    : Nat
  gal     : Nat
  dma     : Nat
  events  : Nat
  /-- Beats drawn from each pool in this stroke (R108). -/
  drawnLoft : Nat
  drawnGal  : Nat
  deriving DecidableEq, Repr

/-- SBU.CNT_n. -/
structure ActCounters where
  park    : BitVec 20
  ovr    : BitVec 20
  wait    : BitVec 20
  held    : BitVec 10
  overCyc : BitVec 20
  deriving DecidableEq, Repr

/-- A delivery held for budget (03 R114, 18 R669): an event, a Bell or a free notice of a channel. -/
inductive HeldDelivery
  | event (e : EventId) (a : ActId)
  | bell (c : Fin 168) (a : ActId)
  | freed (c : Fin 168) (a : ActId)
  deriving DecidableEq, Repr

/-- SBU.ADMIT (03 R96, R866). -/
structure Admit where
  pass  : Bool
  code  : BitVec 4
  res   : BitVec 3
  index : BitVec 6
  deriving DecidableEq, Repr

/-- Host beats of the running and of the last completed stroke (SBU.HOST_USE). -/
structure HostUse where
  beats    : Nat
  ovr     : Nat
  lastBeats : BitVec 20
  lastOver  : BitVec 12
  deriving DecidableEq, Repr

/-- The stroke budget unit. -/
structure Sbu where
  act      : Vector Activity 64
  cnt      : Vector ActCounters 64
  /-- Remaining egress budget, in ns, of activity a on port p, at key 8·a + p. -/
  egLeft   : Mem Int
  poolLoft : Nat
  poolGal  : Nat
  admission : Admit
  use      : HostUse
  /-- SLACK_EMPTY and HOST_FLOOR_MISS already raised in this stroke. -/
  slackRaised : Bool
  floorRaised : Bool
  egPort   : BitVec 3
  egAct    : BitVec 6
  /-- Held deliveries, in the order first held. -/
  heldq    : List HeldDelivery
  deriving DecidableEq, Repr

def Activity.reset : Activity :=
  { parked := false, overrun := false, yielded := false, cpu := 0, loft := 0, gal := 0, dma := 0, events := 0,
    drawnLoft := 0, drawnGal := 0 }

def ActCounters.reset : ActCounters := { park := 0, ovr := 0, wait := 0, held := 0, overCyc := 0 }

def Sbu.reset : Sbu :=
  { act := Vector.replicate 64 Activity.reset, cnt := Vector.replicate 64 ActCounters.reset, egLeft := [],
    poolLoft := 0, poolGal := 0, admission := { pass := false, code := 0, res := 0, index := 0 },
    use := { beats := 0, ovr := 0, lastBeats := 0, lastOver := 0 }, slackRaised := false, floorRaised := false,
    egPort := 0, egAct := 0, heldq := [] }

end Sys2Proof.Machine
end

