-- ==== Sys2Proof/Machine/State.lean ====
section
/-! DEFINITION. The state of the Gorist: every register, memory, queue and mode the manual gives it, beside the queue of
waiting commands and three fields of the model's own (`free`, `rd`, `sent`). -/

namespace Sys2Proof.Machine

/-- Why the machine stops. -/
inductive Fault
  /-- A Tread instruction in an encoding 15 R568 reserves: no staged program holds one (R561), and the manual gives it
  no effect. Raised by the Treads' meanings. Safe: the model stops where the hardware is given nothing to do. -/
  | reservedEncoding
  deriving DecidableEq, Repr

/-- Why a command has no meaning in the model. -/
inductive Refusal
  /-- The command's row has not been modelled. Raised by `exec` alone. Safe. -/
  | notModelled (mnemonic : String)
  deriving DecidableEq, Repr

/-- The whole device. -/
structure State where
  /-- Commands waiting, first in, first out. -/
  pending : List Instr
  tb    : Timebase
  sbu   : Sbu
  lay   : Lay
  plans : Plans
  pins  : Pins
  hw    : Vector Hewer 16
  wdn   : Wdn
  loft  : Mem Word
  sem   : Vector Sem 64
  gal   : Gallery
  eth   : Eth
  lnd   : Lnd
  grd   : Grd
  can   : Vector Can 4
  trd   : Trd
  twb   : Vector Twb 3
  host  : HostIf
  chu   : Chutes
  evt   : Events
  sec   : Sec
  upd   : Upd
  pwr   : Pwr
  flash : Flash
  /-- MODEL'S OWN: how many free values have been drawn (log 5). -/
  free  : Nat
  /-- MODEL'S OWN: what the last reading command returned, low word first. -/
  rd    : List (BitVec 32)
  /-- MODEL'S OWN: what has left the device, newest first. -/
  sent  : List Sent
  deriving DecidableEq, Repr

/-- The device as a C reset has just taken it (22 R815), with cause POWER_ON: it is held until RESET_RELEASE. -/
def State.reset : State :=
  { pending := [], tb := Timebase.reset, sbu := Sbu.reset, lay := Lay.reset, plans := Plans.reset, pins := Pins.reset,
    hw := Vector.replicate 16 Hewer.reset, wdn := Wdn.reset, loft := [], sem := Vector.replicate 64 Sem.free,
    gal := Gallery.reset, eth := Eth.reset, lnd := Lnd.reset, grd := Grd.reset, can := Vector.replicate 4 Can.reset,
    trd := Trd.reset, twb := Vector.replicate 3 Twb.reset, host := HostIf.reset, chu := Chutes.reset, evt := Events.reset,
    sec := Sec.reset, upd := Upd.reset, pwr := Pwr.reset, flash := Flash.blank, free := 0, rd := [],
    sent := [] }

end Sys2Proof.Machine
end

