-- ==== Sys2Proof/Machine/Operands.lean ====
section
/-! DEFINITION. The Ahneafin encoding formats and operand forms (06 R251-R255, 07 R284-R287): the words of every instruction, what
its operand fields name, and the instruction that words stand for. -/

namespace Sys2Proof

/-! What the fields name. -/

/-- Destination, a and b of the two forms (07, Reading the entries). -/
def R2.dst : R2 → Fin 16
  | .s2 rd _ => rd
  | .l3 f => f.rd
def R2.a : R2 → Fin 16
  | .s2 rd _ => rd
  | .l3 f => f.rs
def R2.b : R2 → Fin 16
  | .s2 _ rs => rs
  | .l3 f => f.rt

/-- Cycles of a one-cycle operation in its two forms. -/
def R2.cyc : R2 → Nat
  | .s2 _ _ => 1
  | .l3 _ => 2

/-- A shared form is legal: bits 3:0 and AUX are zero (R252, R286). -/
def R2.legal : R2 → Bool
  | .s2 _ _ => true
  | .l3 f => f.z == 0 && f.aux == 0

/-- Pair operands name the low register (R284, R285). -/
def evenReg (r : Fin 16) : Bool := r.val % 2 == 0

/-- The high register of a pair. -/
def highReg (r : Fin 16) : Fin 16 := ix 16 (r.val + 1)

/-- Field position and width of BFX and BFI (R290). -/
def L3.pos (f : L3) : Nat := fldN f.aux 5 5
def L3.width (f : L3) : Nat := fldN f.aux 0 5

def MemForm.reg : MemForm → Fin 16
  | .sm _ rd _ => rd
  | .lm f => f.rd

/-- Effective address of a memory form, the base register holding `rb` (R253). -/
def LM.ea (f : LM) (rb : Word) : Word := if f.abs then f.disp else rb + f.disp
def MemForm.base : MemForm → Fin 16
  | .sm _ _ rb => rb
  | .lm f => f.rb
def MemForm.ea (m : MemForm) (rb : Word) : Word :=
  match m with
  | .sm off _ _ => rb + off.setWidth 20
  | .lm f => f.ea rb

/-- One cycle more in the long form (07 R291). -/
def MemForm.cyc (m : MemForm) (short : Nat) : Nat :=
  match m with
  | .sm _ _ _ => short
  | .lm _ => short + 1

end Sys2Proof

namespace Sys2Proof.Machine

/-- The words of an instruction: one, or two (06, Encoding formats). -/
structure Enc where
  first  : Word
  second : Option Word
  deriving DecidableEq, Repr

def Enc.long (x : Enc) : Bool := x.second.isSome

/-! The formats (R251, R252). -/

def r4 (r : Fin 16) : BitVec 4 := BitVec.ofNat 4 r.val

def encS2 (op : BitVec 8) (rd rs : Fin 16) : Enc := ⟨0#4 ++ op ++ r4 rd ++ r4 rs, none⟩
def encSI (op : BitVec 4) (f : SI) : Enc := ⟨1#4 ++ op ++ f.imm ++ r4 f.rd, none⟩
def encSB (cond : BitVec 4) (off : BitVec 12) : Enc := ⟨2#4 ++ cond ++ off, none⟩
def encSM (op : BitVec 2) (off : BitVec 6) (rd rb : Fin 16) : Enc := ⟨3#4 ++ op ++ off ++ r4 rd ++ r4 rb, none⟩
def encSS (op imm : BitVec 8) : Enc := ⟨4#4 ++ op ++ imm, none⟩
def encL3 (op : BitVec 8) (f : L3) : Enc := ⟨8#4 ++ r4 f.rd ++ r4 f.rs ++ r4 f.rt ++ f.z, some (op ++ f.aux)⟩
def encLI (op : BitVec 8) (f : LI) : Enc := ⟨9#4 ++ op ++ r4 f.rd ++ r4 f.rs, some f.imm⟩
def encLB (op : BitVec 4) (f : LB) : Enc := ⟨10#4 ++ f.cond ++ op ++ f.z ++ r4 f.rs, some f.addr⟩
def encLM (op : BitVec 7) (f : LM) : Enc := ⟨11#4 ++ bool 1 f.abs ++ op ++ r4 f.rd ++ r4 f.rb, some f.disp⟩

/-- An operation with an S2 and an L3 code (R286). -/
def encR2 (op : BitVec 8) : R2 → Enc
  | .s2 rd rs => encS2 op rd rs
  | .l3 f => encL3 op f

/-- A memory instruction: the same code in SM and LM (R287). -/
def encMem (op : BitVec 2) : MemForm → Enc
  | .sm off rd rb => encSM op off rd rb
  | .lm f => encLM (op.setWidth 7) f

/-- COND (06, condition table). -/
def Flags.holds (f : Flags) (cond : BitVec 4) : Bool :=
  match cond.toNat with
  | 0 => true
  | 1 => f.z
  | 2 => !f.z
  | 3 => f.c
  | 4 => !f.c
  | 5 => f.n
  | 6 => !f.n
  | 7 => f.v
  | 8 => !f.v
  | 9 => f.c && !f.z
  | 10 => !f.c || f.z
  | 11 => f.n == f.v
  | 12 => f.n != f.v
  | 13 => !f.z && f.n == f.v
  | 14 => f.g
  | _ => !f.g

/-! Decoding (R251, R252, R286, R287), for STEP; `none` is a word of no instruction. A block instruction is given `steps`. -/

def reg4 (x : BitVec 4) : Fin 16 := ix 16 x.toNat

def decodeS2 (e : EngineId) (op : Nat) (rd rs : Fin 16) : Option Instr :=
  let r : R2 := .s2 rd rs
  match op with
  | 0x00 => some (.mov e rd rs) | 0x01 => some (.add e r) | 0x02 => some (.adc e r) | 0x03 => some (.sub e r)
  | 0x04 => some (.sbc e r) | 0x05 => some (.cmp e rd rs) | 0x06 => some (.and e r) | 0x07 => some (.or e r)
  | 0x08 => some (.xor e r) | 0x09 => some (.not e rd rs) | 0x0A => some (.neg e rd rs) | 0x0B => some (.tst e rd rs)
  | 0x0C => some (.shl e r) | 0x0D => some (.shr e r) | 0x0E => some (.asr e r) | 0x0F => some (.ror e r)
  | 0x10 => some (.qadd e r) | 0x11 => some (.qsub e r) | 0x12 => some (.qaddu e r) | 0x13 => some (.qsubu e r)
  | 0x14 => some (.mul e r) | 0x15 => some (.par e rd rs) | 0x16 => some (.swp e rd rs) | 0x17 => some (.mkg e rd rs)
  | 0x18 => some (.mks e rd rs) | 0x19 => some (.mkc e rd rs) | 0x1A => some (.movd e rd rs)
  | _ => none

def decodeL3 (e : EngineId) (steps op : Nat) (f : L3) : Option Instr :=
  let r : R2 := .l3 f
  match op with
  | 0x01 => some (.add e r) | 0x02 => some (.adc e r) | 0x03 => some (.sub e r) | 0x04 => some (.sbc e r)
  | 0x06 => some (.and e r) | 0x07 => some (.or e r) | 0x08 => some (.xor e r) | 0x0C => some (.shl e r)
  | 0x0D => some (.shr e r) | 0x0E => some (.asr e r) | 0x0F => some (.ror e r) | 0x10 => some (.qadd e r)
  | 0x11 => some (.qsub e r) | 0x12 => some (.qaddu e r) | 0x13 => some (.qsubu e r) | 0x14 => some (.mul e r)
  | 0x20 => some (.mulu e f) | 0x21 => some (.muls e f) | 0x22 => some (.addd e f) | 0x23 => some (.subd e f)
  | 0x24 => some (.brev e f) | 0x25 => some (.bfx e f) | 0x26 => some (.bfi e f) | 0x27 => some (.sxt e f)
  | 0x28 => some (.csel e f) | 0x30 => some (.crc e f) | 0x31 => some (.bcrc e f steps) | 0x32 => some (.bcpy e f steps)
  | 0x33 => some (.bfil e f steps) | 0x34 => some (.bpve e f steps) | 0x38 => some (.pqnt e f) | 0x39 => some (.pdeq e f)
  | 0x3A => some (.pdlt e f) | 0x40 => some (.lpush e f) | 0x41 => some (.lpop e f) | 0x42 => some (.cfree e f)
  | 0x43 => some (.pswap e f) | 0x44 => some (.stake e f)
  | _ => none

def decodeSI (e : EngineId) (op : Nat) (f : SI) : Option Instr :=
  match op with
  | 0 => some (.movq e f) | 1 => some (.addq e f) | 2 => some (.cmpq e f) | 3 => some (.shlq e f) | 4 => some (.shrq e f)
  | 5 => some (.asrq e f) | 6 => some (.mko e f) | 7 => some (.btst e f) | 8 => some (.bset e f) | 9 => some (.bclr e f)
  | _ => none

def decodeSS (e : EngineId) (op : Nat) (i : BitVec 8) : Option Instr :=
  match op with
  | 0x00 => some (.nop e i) | 0x01 => some (.yield e i) | 0x02 => some (.wait e i) | 0x03 => some (.reti e i)
  | 0x04 => some (.ei e i) | 0x05 => some (.di e i) | 0x06 => some (.trap e i) | 0x07 => some (.ret e i)
  | 0x10 => some (.push e i) | 0x11 => some (.pop e i) | 0x20 => some (.ckpt e i)
  | _ => none

def decodeLI (e : EngineId) (op : Nat) (f : LI) : Option Instr :=
  match op with
  | 0x01 => some (.addi e f) | 0x05 => some (.cmpi e f) | 0x06 => some (.andi e f) | 0x07 => some (.ori e f)
  | 0x08 => some (.xori e f) | 0x0B => some (.tsti e f) | 0x10 => some (.movi e f) | 0x11 => some (.pdbd e f)
  | _ => none

def decodeLB (e : EngineId) (op : Nat) (f : LB) : Option Instr :=
  match op with
  | 0 => some (.jcc e f) | 1 => some (.callcc e f) | 2 => some (.jrcc e f) | 3 => some (.callrcc e f)
  | _ => none

def decodeMem (e : EngineId) (op : Nat) (m : MemForm) : Option Instr :=
  match op with
  | 0 => some (.ld e m) | 1 => some (.st e m) | 2 => some (.ldd e m) | 3 => some (.std e m)
  | _ => none

def decodeLM (e : EngineId) (op : Nat) (f : LM) : Option Instr := if op = 4 then some (.lea e f) else decodeMem e op (.lm f)

/-- The instruction that a first word and the word after it stand for. -/
def decodeAhf (e : EngineId) (steps : Nat) (w x : Word) : Option Instr :=
  let d : Fin 16 := reg4 (fld w 4 4)
  let c : Fin 16 := reg4 (fld w 0 4)
  match fldN w 16 4 with
  | 0 => decodeS2 e (fldN w 8 8) d c
  | 1 => decodeSI e (fldN w 12 4) { imm := fld w 4 8, rd := c }
  | 2 => some (.bcc e (fld w 12 4) (fld w 0 12))
  | 3 => decodeMem e (fldN w 14 2) (.sm (fld w 8 6) d c)
  | 4 => decodeSS e (fldN w 8 8) (fld w 0 8)
  | 8 => decodeL3 e steps (fldN x 12 8)
      { rd := reg4 (fld w 12 4), rs := reg4 (fld w 8 4), rt := d, z := fld w 0 4, aux := fld x 0 12 }
  | 9 => decodeLI e (fldN w 8 8) { rd := d, rs := c, imm := x }
  | 10 => decodeLB e (fldN w 8 4) { cond := fld w 12 4, z := fld w 4 4, rs := c, addr := x }
  | 11 => decodeLM e (fldN w 8 7) { abs := bit w 15, rd := d, rb := c, disp := x }
  | _ => none

/-- A first word of the formats that have a second one (06 R248). -/
def longFirst (w : Word) : Bool := decide (8 ≤ fldN w 16 4) && decide (fldN w 16 4 < 12)

end Sys2Proof.Machine
end

