-- ==== Sys2Proof/Machine/Ops.lean ====
section
/-! DEFINITION. Operations shared by the commands: the active layout, free values, the clock (02), events and local
sources (18, 05), Chute notices (18) and stroke budgets (03). -/

namespace Sys2Proof.Machine

/-! Small accessors. -/

/-- The active layout; the blank layout while there is none (04 R132: every LO field takes its value from it). -/
def State.lo (s : State) : Layout := s.lay.active.getD Layout.blank

def State.modTb (f : Timebase → Timebase) (s : State) : State := { s with tb := f s.tb }
def State.modSbu (f : Sbu → Sbu) (s : State) : State := { s with sbu := f s.sbu }
def State.modAct (a : ActId) (f : Activity → Activity) (s : State) : State :=
  s.modSbu fun b => { b with act := vmod b.act a f }
def State.modHw (n : Fin 16) (f : Hewer → Hewer) (s : State) : State := { s with hw := vmod s.hw n f }
def State.modWdn (f : Wdn → Wdn) (s : State) : State := { s with wdn := f s.wdn }
def State.modHost (f : HostIf → HostIf) (s : State) : State := { s with host := f s.host }
def State.modPwr (f : Pwr → Pwr) (s : State) : State := { s with pwr := f s.pwr }
def State.modLay (f : Lay → Lay) (s : State) : State := { s with lay := f s.lay }
def State.modGal (f : Gallery → Gallery) (s : State) : State := { s with gal := f s.gal }
/-- HWC.DBG_ADDR survives no reset (05, Registers; 00 R16). -/
def Hewer.dropDbg (h : Hewer) : Hewer := { h with regs := { h.regs with dbgAddr := 0 } }
def State.modRegs (n : Fin 16) (f : HewerRegs → HewerRegs) (s : State) : State :=
  s.modHw n fun h => { h with regs := f h.regs }

/-- The next free value, of width `w` (log 5). -/
def State.freeVal (s : State) (w : Nat) : BitVec w := Config.freeValue s.free w
/-- The free value is used up. -/
def State.drawn (s : State) : State := { s with free := s.free + 1 }

/-- How many of the bits of `x` are set. -/
def ones {w : Nat} (x : BitVec w) : Nat := (List.range w).countP fun i => x.getLsbD i

/-- Bit `i` set to `b`. -/
def setBit {w : Nat} (x : BitVec w) (i : Nat) (b : Bool) : BitVec w :=
  if b then x ||| (1#w <<< i) else x &&& ~~~(1#w <<< i)

/-- An activity's ID as an index of 64. -/
def actHewer (n : Fin 16) : ActId := ix 64 n.val
def actFlight (f : Fin 4) : ActId := ix 64 (16 + f.val)
def actDma (c : Fin 8) : ActId := ix 64 (20 + c.val)
def actWarden : ActId := 29

/-! The clock (02 R31-R33, R43, R50). -/

/-- One second, in the unit of `Clock.now`. -/
def secUnit : Nat := 4000000000 * 2 ^ 37
/-- The seconds field is 48 bits wide (R869). -/
def timeMod : Nat := 2 ^ 48 * secUnit

/-- System time in quarter-nanoseconds. -/
def Clock.qns (c : Clock) : Nat := c.now / 2 ^ 37

/-- Quarter-nanoseconds as the 80-bit time value: seconds above, nanoseconds and quarters in the low 32 bits. -/
def time80 (q : Nat) : BitVec 80 := BitVec.ofNat 80 (q / 4000000000 * 2 ^ 32 + q % 4000000000)

/-- The exact time of an 80-bit value, in quarter-nanoseconds (R869). -/
def ofTime80 (t : BitVec 80) : Nat :=
  (t.toNat / 2 ^ 32 * 4000000000 + t.toNat % 2 ^ 32) % (2 ^ 48 * 4000000000)

/-- Word `m` of an 80-bit value. -/
def word80 (t : BitVec 80) (m : Nat) : Word := fld t (20 * m) 20

/-- Four words as an 80-bit value. -/
def of80 (w : Vector Word 4) : BitVec 80 := w[3] ++ w[2] ++ w[1] ++ w[0]

/-- `x` cut to the range -m to m. -/
def clampTo (m x : Int) : Int := max (-m) (min m x)

/-- `a` divided by `b`, rounded up. -/
def ceilDiv (a b : Nat) : Nat := (a + b - 1) / b

/-- One step of the AON timekeeper, 1/32,768 s, in the unit of `Clock.now`. -/
def aonUnit : Nat := secUnit / 32768

/-- The AON timekeeper counts `n` nominal core cycles (log 39: its oscillator is exact in the model). -/
def Clock.aonRun (n : Nat) (c : Clock) : Clock :=
  { c with aon := (c.aon + (c.aonSub + 128 * n) / 1953125) % 2 ^ 63, aonSub := (c.aonSub + 128 * n) % 1953125 }

/-- The AON timekeeper takes the time `t`, in the unit of `Clock.now`, its fraction rounded down (R43). -/
def Clock.aonTake (t : Nat) (c : Clock) : Clock := { c with aon := t / aonUnit % 2 ^ 63, aonSub := 0 }

/-- System time taken from the AON timekeeper (R44). -/
def Clock.fromAon (c : Clock) : Clock := { c with now := c.aon * aonUnit }

/-- Core cycles until system time is at or after `q` quarter-nanoseconds (R37). -/
def Clock.cyclesTo (c : Clock) (q : Nat) : Nat :=
  let need := q * 2 ^ 37 - c.now
  if need = 0 then 0
  else
    let base := (2 ^ 40 + c.trim).toNat
    let k : Nat := c.slew.natAbs / 2 ^ 28
    let r : Nat := c.slew.natAbs % 2 ^ 28
    let sg : Int := if c.slew < 0 then -1 else 1
    let fast := (2 ^ 40 + c.trim + sg * 268435456).toNat
    if need ≤ k * fast then ceilDiv need fast
    else
      let rest := need - k * fast
      let part := (2 ^ 40 + c.trim + sg * r).toNat
      if rest ≤ part then k + 1 else k + 1 + ceilDiv (rest - part) base

/-- `n` core cycles pass (R31, R50: a slew applies 2^-12 of the nominal interval per cycle). In the core cycle of a carry into
the seconds these are copied into the AON timekeeper and its fraction is cleared (R43); it counts on from there. -/
def Clock.advance (n : Nat) (c : Clock) : Clock :=
  let app := clampTo ((n : Int) * 2 ^ 28) c.slew
  let x : Nat := ((c.now : Int) + n * (2 ^ 40 + c.trim) + app).toNat
  let sec := x / secUnit
  let c' := if sec = c.now / secUnit then c.aonRun n
    else (c.aonTake (sec * secUnit)).aonRun (n - c.cyclesTo (sec * 4000000000))
  { c' with now := x % timeMod, slew := c.slew - app, cycles := c.cycles + n }

/-- System time `n` core cycles ago in quarter-nanoseconds, at the rate that stands (log 178). -/
def Clock.qnsAgo (n : Nat) (c : Clock) : Nat := ((c.now - n * (2 ^ 40 + c.trim)) % timeMod).toNat / 2 ^ 37

/-- Time passes until `q` quarter-nanoseconds, if it has not been reached. -/
def State.runTo (q : Nat) (s : State) : State :=
  s.modTb fun t => { t with clk := t.clk.advance (t.clk.cyclesTo q) }

/-- Time passes until core cycle `k`, if it has not been reached. -/
def State.runToCycle (k : Nat) (s : State) : State :=
  s.modTb fun t => { t with clk := t.clk.advance (k - t.clk.cycles) }

/-- Core cycle `k` of the running stroke comes before its end. -/
def State.beforeEnd (s : State) (k : Nat) : Bool :=
  match s.tb.stroke.ends with
  | none => false
  | some e => decide ((s.tb.clk.advance (k - s.tb.clk.cycles)).qns < e)

/-- An instant's command has its effect at its instant: time moves there first. What lies behind the end of the running
stroke waits for the boundary (DESIGN CHOICE, log 14). -/
def State.whenAt (k : Nat) (f : State → State) (s : State) : State :=
  if s.tb.stroke.ends.isNone || s.beforeEnd k then f (s.runToCycle k) else s

/-- The same for an instant given in quarter-nanoseconds. -/
def State.whenTime (q : Nat) (f : State → State) (s : State) : State :=
  if (match s.tb.stroke.ends with | none => true | some e => decide (q < e)) then f (s.runTo q) else s

/-- One core cycle passes with no command (DESIGN CHOICE, log 4). A held device's clock stands still. -/
def State.tick (s : State) : State :=
  if s.pwr.held.isSome || s.pwr.off || s.pwr.clockHold then s
  else s.modTb fun t => { t with clk := t.clk.advance 1 }

/-- System time in quarter-nanoseconds. -/
def State.qns (s : State) : Nat := s.tb.clk.qns
/-- System time. -/
def State.time (s : State) : BitVec 80 := time80 s.qns
/-- Core cycles since the stroke began (R38); none while no stroke runs. -/
def State.strokeCyc (s : State) : Nat :=
  if s.tb.stroke.running then s.tb.clk.cycles - s.tb.stroke.cyc0 else 0
/-- Core cycles in `k` ms of nominal time. -/
def msCycles (k : Nat) : Nat := 500000 * k

/-! Events (18 R674-R682). -/

/-- The named events (24 R861). -/
def evStrokeWrap : EventId := 0
def evTimeStep : EventId := 1
def evSyncLost : EventId := 2
def evSyncOk : EventId := 3
def evPpsCapture : EventId := 4
def evSchedFired : EventId := 5
def evSchedLate : EventId := 6
def evStrokeSlip : EventId := 7
def evBudgetPark : EventId := 8
def evBudgetOverrun : EventId := 9
def evSlackEmpty : EventId := 10
def evHostFloorMiss : EventId := 11
def evLayoutLoaded : EventId := 12
def evLayoutReject : EventId := 13
def evChangeoverDone : EventId := 14
def evChangeoverAbort : EventId := 15
def evHewerFault (n : Fin 16) : EventId := ix 128 (16 + n.val)
def evGreenStomp : EventId := 32
def evCommitStall : EventId := 33
def evSettleDone : EventId := 34
def evLeaseBroken : EventId := 35
def evForeignWrite : EventId := 36
def evMemEccFix : EventId := 37
def evMemEccFail : EventId := 38
def evPvcMismatch : EventId := 39
def evLinkChange (p : Fin 6) : EventId := ix 128 (40 + p.val)
def evBurst (p : Fin 4) : EventId := ix 128 (46 + p.val)
def evLaunchLate : EventId := 50
def evMdioDone : EventId := 51
def evBufferLow : EventId := 52
def evQueueDrop : EventId := 53
def evLearnFull : EventId := 54
def evLearnMove : EventId := 55
def evOffcutMiss : EventId := 56
def evOffcutFull : EventId := 57
def evTallySat : EventId := 58
def evSnapshotDone : EventId := 59
def evFrerError : EventId := 60
def evHopLimit : EventId := 61
def evTcOverflow : EventId := 62
def evMirrorDrop : EventId := 63
/-- CAN_c event `k`: 0-3 HPM_k, 4 RX, 5 TX, 6 STATE, 7 LATE. -/
def evCan (c : Fin 4) (k : Nat) : EventId := ix 128 (64 + 8 * c.val + k)
def evFlightSignal (f : Fin 4) : EventId := ix 128 (96 + f.val)
def evFlightStall (f : Fin 4) : EventId := ix 128 (100 + f.val)
def evTwb (b : Fin 3) : EventId := ix 128 (104 + b.val)
def evTwbAttention : EventId := 107
def evBellHost : EventId := 108
def evChuteAborted : EventId := 109
def evChuteFreed : EventId := 110
def evHostResetDone : EventId := 111
def evMgmtRestart : EventId := 112
def evMgmtDown : EventId := 113
def evLockstepMismatch : EventId := 114
def evCmdDone : EventId := 115
def evUpdateStaged : EventId := 116
def evAuthFail : EventId := 117
def evEntropyFail : EventId := 118
def evPwrDenied : EventId := 119
def evVinLow : EventId := 120
def evVinOk : EventId := 121
def evTempHigh : EventId := 122
def evTempCrit : EventId := 123
def evRailFault : EventId := 124
def evClockFault : EventId := 125
def evIslandReady : EventId := 126
def evLogWrap : EventId := 127

/-- Vector `v` becomes pending. -/
def Vectors.pend (v : Nat) (x : Vectors) : Vectors := { x with ipend := setBit x.ipend v true }

def Hewer.pend (v : Nat) (h : Hewer) : Hewer := { h with eng := { h.eng with vec := h.eng.vec.pend v } }

/-- Local source `i` occurs at an engine (05 R192). -/
def Vectors.localSrc (i : Fin 16) (x : Vectors) : Vectors :=
  if bit x.lsrc[i] 5 then x.pend (fldN x.lsrc[i] 0 5) else x

/-- Local source `i` occurs at Hewer `n`. -/
def State.lsrc (n : Fin 16) (i : Fin 16) (s : State) : State :=
  s.modHw n fun h => { h with eng := { h.eng with vec := h.eng.vec.localSrc i } }

/-- Local source `i` occurs at the Warden. -/
def State.wsrc (i : Fin 16) (s : State) : State :=
  s.modWdn fun w => { w with eng := { w.eng with vec := w.eng.vec.localSrc i } }

/-- Local source `i` occurs at every Hewer. -/
def State.lsrcAll (i : Fin 16) (s : State) : State :=
  { s with hw := s.hw.map fun h => { h with eng := { h.eng with vec := h.eng.vec.localSrc i } } }

/-- MSI-X vectors whose message is to be issued (R681: occurrences merge while one waits). -/
def State.msix (m : BitVec 32) (s : State) : State := s.modHost fun h => { h with pba := h.pba ||| m }

/-- Event `e` is delivered to the Hewer, Warden and MSI-X sinks of its route (R679); pins follow the status bit. -/
def State.deliver (e : EventId) (s : State) : State :=
  let r := s.evt.route[e]
  let s := { s with hw := Vector.ofFn fun n => if bit r.hewers[n] 5 then s.hw[n].pend (fldN r.hewers[n] 0 5) else s.hw[n] }
  let s := s.modWdn fun w => { w with eng := { w.eng with vec := { w.eng.vec with ipend := w.eng.vec.ipend ||| r.wdn } } }
  s.msix r.msix

/-- The status bit is set and the occurrence counted (R674, R676). -/
def State.mark (e : EventId) (s : State) : State :=
  { s with evt := { s.evt with status := setBit s.evt.status e.val true, count := vmod s.evt.count e satInc } }

/-- `k` more make a counter that stands at `c` newly stand at its largest value. -/
def saturates {w : Nat} (c : BitVec w) (k : Nat) : Bool := !isSat c && isSat (satAdd c k)

/-- TALLY_SAT, hardware raised; its own counter saturates in silence (R676). -/
def State.raiseSat (s : State) : State := (s.mark evTallySat).deliver evTallySat

/-- A counter that stood at `c` has counted `k` more: TALLY_SAT when it newly saturates (00 R867). -/
def State.satEvent {w : Nat} (c : BitVec w) (k : Nat) (s : State) : State := if saturates c k then s.raiseSat else s

/-- An occurrence marked, with the TALLY_SAT of its counter. -/
def State.occur (e : EventId) (s : State) : State :=
  let c := s.evt.count[e]
  let s := s.mark e
  if e = evTallySat then s else s.satEvent c 1

/-- Device hardware raises event `e`: never charged or held (R92, R682). -/
def State.raise (e : EventId) (s : State) : State := (s.occur e).deliver e

/-- `raise` when the condition holds. -/
def State.raiseIf (b : Bool) (e : EventId) (s : State) : State := if b then s.raise e else s

/-- Sinks of an event's route (R682). -/
def State.sinks (s : State) (e : EventId) : Nat :=
  let r := s.evt.route[e]
  ones r.pins + ones r.msix + ones r.wdn + (List.finRange 16).countP fun n => bit r.hewers[n] 5

def HeldDelivery.act : HeldDelivery → ActId
  | .event _ a => a
  | .bell _ a => a
  | .freed _ a => a

/-- HELD_CNT of activity `a` counts once more (R111-R114, R126). -/
def State.heldInc (a : ActId) (s : State) : State :=
  let c := s.sbu.cnt[a].held
  (s.modSbu fun b => { b with cnt := vmod b.cnt a fun x => { x with held := satInc x.held } }).satEvent c 1

/-- Activity `a` pays `k` event deliveries, if it has them and nothing of it is held already (R114). -/
def State.payEvents (a : ActId) (k : Nat) (s : State) : Option State :=
  if k ≤ s.sbu.act[a].events ∧ !(s.sbu.heldq.any fun h => h.act == a) then
    some (s.modAct a fun x => { x with events := x.events - k })
  else none

/-- A delivery is held, counted when it is first held (R114, R115). -/
def State.hold (h : HeldDelivery) (s : State) : State :=
  if s.sbu.heldq.contains h then s
  else (s.modSbu fun b => { b with heldq := b.heldq ++ [h] }).heldInc h.act

/-- An activity's own action raises event `e` (R682). -/
def State.raiseBy (a : ActId) (e : EventId) (s : State) : State :=
  let s := s.occur e
  match s.payEvents a (s.sinks e) with
  | some s => s.deliver e
  | none => s.hold (.event e a)

/-! The Warden's journal (06 R277). -/

/-- The journal's level: its entries, but for what exceptions keep of XCAUSE and XADDR (06 R277). -/
def Wdn.level (w : Wdn) : Nat := w.journal.countP fun j => match j with
  | .cause _ _ => false
  | _ => true

/-- A journal entry is recorded (06 R277). -/
def Wdn.record (j : JEntry) (w : Wdn) : Wdn :=
  let u : Wdn := { w with journal := j :: w.journal }
  { u with jPeak := satNat 12 (max w.jPeak.toNat u.level) }

/-- A RAM word written, with its entry. -/
def Wdn.setRam (k : Nat) (v : Word) (w : Wdn) : Wdn :=
  let old := memRead 0 w.ram k
  { w.record (.ram (BitVec.ofNat 20 k) old) with ram := memWrite 0 w.ram k v }

/-! The Warden's outputs: log records through the release queue (19 R707, R710; 06 R275). -/

/-- Entries of the release queue other than marks: its level (06 R280). -/
def relLevel (q : List REntry) : Nat := q.countP fun e => e != REntry.mark

/-- Entries put at the end of the release queue (06 R275). -/
def Wdn.relPut (es : List REntry) (w : Wdn) : Wdn :=
  { w with relq := w.relq ++ es, relPeak := satNat 7 (max w.relPeak.toNat (relLevel (w.relq ++ es))) }

/-- A store of the program, a consuming read or a mark joins the release queue: a store that met a full one has trapped (06 R280). -/
def State.relStore (e : REntry) (s : State) : State := s.modWdn (·.relPut [e])

/-- The firmware queues what it still had to, as far as the queue has room (06 R280, log 31). -/
def Wdn.pump (w : Wdn) : Wdn :=
  let room := 64 - relLevel w.relq
  { w with late := w.late.drop room }.relPut (w.late.take room)

/-- An entry of the firmware joins the release queue, behind what it still has to queue (06 R275, R280). -/
def State.relPush (e : REntry) (s : State) : State := s.modWdn fun w => { w with late := w.late ++ [e] }.pump

/-- No reset holds the device, and it is neither Off nor in Deep. -/
def State.powered (s : State) : Bool := s.pwr.held.isNone && !s.pwr.off && !s.pwr.deep
/-- The islands that Drowse retains are clocked (22 R806). -/
def State.awake (s : State) : Bool := s.powered && s.pwr.cur != .drowse
/-- Host accesses to the SYS, EVT and PWR blocks have their effect: outside an H reset, in Drowse too (17 R654, 22 R807). -/
def State.hostLets (s : State) : Bool := s.powered && !s.host.resetting
/-- Every other host access has its effect (17 R654, 22 R807). -/
def State.hostWorks (s : State) : Bool := s.awake && !s.host.resetting

/-- The Warden executes: MODE is RUN, the device neither held nor in Drowse. -/
def State.wardenRuns (s : State) : Bool := s.wdn.mode == .run && s.awake

/-- TIME.STATE.SYNC's code. -/
def syncCode : SyncState → BitVec 2
  | .unsynced => 0
  | .synced => 1
  | .holdover => 2

/-- The Warden makes a log record (R707, R710). -/
def State.logRec (type : BitVec 8) (arg : Nat) (payload : List Word) (s : State) : State :=
  if s.wardenRuns then s.relPush (.log type (BitVec.ofNat 10 arg) s.time (syncCode s.tb.sync.st) payload) else s

/-! Chutes (18). -/

/-- The sender of channel `c` (R655). -/
def chanSender (c : Fin 168) : ChuteEnd :=
  if c.val < 4 then .ctx (ix 4 c.val)
  else if c.val < 8 then .warden
  else if c.val < 72 then .ctx (ix 4 ((c.val - 8) / 16))
  else if c.val < 136 then .hewer (ix 16 ((c.val - 72) % 16))
  else if c.val < 152 then .warden
  else .hewer (ix 16 (c.val - 152))

/-- The receiver of channel `c` (R655). -/
def chanReceiver (c : Fin 168) : ChuteEnd :=
  if c.val < 4 then .warden
  else if c.val < 8 then .ctx (ix 4 (c.val - 4))
  else if c.val < 72 then .hewer (ix 16 ((c.val - 8) % 16))
  else if c.val < 136 then .ctx (ix 4 ((c.val - 72) / 16))
  else if c.val < 152 then .hewer (ix 16 (c.val - 136))
  else .warden

/-- The activity whose own action an endpoint's write is; none for the host (R668). -/
def chuteAct : ChuteEnd → Option ActId
  | .ctx _ => none
  | .warden => some actWarden
  | .hewer n => some (actHewer n)

/-- Peer number of an endpoint in a host context's page: 0 the Warden, 1 + n Hewer n. -/
def chutePeer : ChuteEnd → Nat
  | .hewer n => 1 + n.val
  | _ => 0

def State.modCtx (h : Fin 4) (f : ChuteCtx → ChuteCtx) (s : State) : State :=
  { s with chu := { s.chu with ctx := vmod s.chu.ctx h f } }
def State.modChan (c : Fin 168) (f : Channel → Channel) (s : State) : State :=
  { s with chu := { s.chu with chan := vmod s.chu.chan c f } }

/-- What a Bell of channel `c` costs: its sinks (R668). -/
def State.bellCost (s : State) (c : Fin 168) : Nat :=
  match chanReceiver c with
  | .ctx h => s.sinks evBellHost + (if s.chu.ctx[h].en then 1 else 0) + ones s.chu.ctx[h].pins
  | _ => 1

/-- What a free notice of channel `c` costs. -/
def State.freedCost (s : State) (c : Fin 168) : Nat :=
  match chanSender c with
  | .ctx _ => s.sinks evChuteFreed
  | _ => 1

/-- The Bell of channel `c` reaches its receiver (R666, R667). -/
def State.deliverBell (c : Fin 168) (s : State) : State :=
  match chanReceiver c, chanSender c with
  | .hewer n, .ctx h => s.lsrc n (ix 16 (8 + h.val))
  | .hewer n, _ => s.lsrc n 12
  | .warden, .ctx h => s.wsrc (ix 16 h.val)
  | .warden, _ => s.wsrc 4
  | .ctx h, _ =>
    let s := s.deliver evBellHost
    if s.chu.ctx[h].en then s.msix (1#32 <<< s.chu.ctx[h].vec.toNat) else s

/-- The free notice of channel `c` reaches its sender (R666). -/
def State.deliverFreed (c : Fin 168) (s : State) : State :=
  match chanSender c with
  | .hewer n => s.lsrc n 13
  | .warden => s.wsrc 5
  | .ctx h =>
    (s.modCtx h fun x => { x with freed := setBit x.freed (chutePeer (chanReceiver c)) true }).deliver evChuteFreed

/-- A Bell rung by endpoint `by_`, charged or held (R668, R669). -/
def State.ringBell (by_ : ChuteEnd) (c : Fin 168) (s : State) : State :=
  let s := match chanReceiver c with
    | .ctx _ => s.occur evBellHost
    | _ => s
  match chuteAct by_ with
  | none => s.deliverBell c
  | some a =>
    match s.payEvents a (s.bellCost c) with
    | some s => s.deliverBell c
    | none => s.hold (.bell c a)

/-- A free notice caused by endpoint `by_`, charged or held (R668, R669). -/
def State.noticeFreed (by_ : ChuteEnd) (c : Fin 168) (s : State) : State :=
  let s := match chanSender c with
    | .ctx _ => s.occur evChuteFreed
    | _ => s
  match chuteAct by_ with
  | none => s.deliverFreed c
  | some a =>
    match s.payEvents a (s.freedCost c) with
    | some s => s.deliverFreed c
    | none => s.hold (.freed c a)

/-- The abort notice of channel `c`, never charged (R666, R668). -/
def State.noticeAborted (c : Fin 168) (s : State) : State :=
  match chanSender c with
  | .hewer n => s.lsrc n 14
  | .warden => s.wsrc 6
  | .ctx h =>
    (s.modCtx h fun x => { x with aborted := setBit x.aborted (chutePeer (chanReceiver c)) true }).raise evChuteAborted

/-- A held Bell of a channel that leaves FULL is withdrawn (R669). -/
def State.withdrawBell (c : Fin 168) (s : State) : State :=
  s.modSbu fun b => { b with heldq := b.heldq.filter fun h => match h with
    | .bell d _ => d != c
    | _ => true }

/-- A FULL channel is aborted (R661). -/
def State.abortChan (c : Fin 168) (s : State) : State :=
  if s.chu.chan[c].st = .full then
    ((s.modChan c fun x => { x with st := .aborted }).withdrawBell c).noticeAborted c
  else s

/-- Every FULL channel towards an endpoint is aborted (R661). -/
def State.abortTowards (e : ChuteEnd) (s : State) : State :=
  (List.finRange 168).foldl (fun s c => if chanReceiver c = e then s.abortChan c else s) s

/-- Island `i` is on (22 R799). -/
def State.islandOn (s : State) (i : Nat) : Bool := bit s.pwr.islOn i
/-- Island `i` is on and clocked (22, island table). -/
def State.unitOn (s : State) (i : Nat) : Bool := s.islandOn i && s.awake

/-- A register access by an agent reaches a unit whose island is `i`. -/
def State.heard (s : State) (a : Agent) (i : Nat) : Bool :=
  s.islandOn i && match a with
    | .host => s.hostWorks
    | _ => s.awake

/-- The block's registers reach the agent: the host outside an H reset, and the Warden; no Hewer reaches Window A (05 R186,
17 R654). -/
def State.reaches (s : State) : Agent → Bool
  | .host => s.hostWorks
  | .warden => s.awake
  | .hewer _ => false

/-- The same for the EVT and PWR blocks, which the host reaches in Drowse (22 R807). -/
def State.reachesAon (s : State) : Agent → Bool
  | .host => s.hostLets
  | .warden => s.awake
  | .hewer _ => false

/-- What an agent reads from a unit that does not hear it: the host zero where its accesses have no effect (17 R654, 22 R807);
a register of an unpowered unit is an open value. -/
def State.silent (a : Agent) (s : State) : BitVec 32 × State :=
  match a with
  | .host => if s.hostWorks then (s.freeVal 32, s.drawn) else (0, s)
  | _ => (s.freeVal 32, s.drawn)

/-- A receiver is available (R660). -/
def State.available (s : State) : ChuteEnd → Bool
  | .hewer n =>
    let h := s.hw[n]
    s.lo.present n.val && h.st != .absent && h.st != .faulted && h.st != .loading && h.st != .stopped && s.islandOn (4 + n.val)
      && s.pwr.cur != .drowse
  | .warden => s.wdn.mode != .down
  | .ctx _ => s.host.hsel != 3 && !s.host.resetting

/-- A change of state under which endpoint `e` may become unavailable: then channels towards it are aborted (R661). -/
def State.losing (e : ChuteEnd) (f : State → State) (s : State) : State :=
  let t := f s
  if s.available e && !t.available e then t.abortTowards e else t

/-- Hewer `n` goes to a state (05, States). -/
def State.hewerTo (n : Fin 16) (st : HewerState) (s : State) : State :=
  s.losing (.hewer n) fun s => s.modHw n fun h => { h with st := st }

/-- Held deliveries served after a refill: each activity's in order, as far as its budget goes (R114). -/
def State.serveHeld (s : State) : State :=
  let q := s.sbu.heldq
  let s := s.modSbu fun b => { b with heldq := [] }
  (q.foldl (fun (p : State × List ActId) h =>
    let s := p.1
    let a := h.act
    let cost := match h with
      | .event e _ => s.sinks e
      | .bell c _ => s.bellCost c
      | .freed c _ => s.freedCost c
    if p.2.contains a || s.sbu.act[a].events < cost then
      (s.modSbu fun b => { b with heldq := b.heldq ++ [h] }, a :: p.2)
    else
      let s := s.modAct a fun x => { x with events := x.events - cost }
      (match h with
        | .event e _ => s.deliver e
        | .bell c _ => s.deliverBell c
        | .freed c _ => s.deliverFreed c, p.2)) (s, [])).1

/-- Every MFP ball and system ball of bank `b` is high-impedance: its VIO rail lies below 1.0 V (23 R830). -/
def State.floats (s : State) (b : Nat) : Bool := bit s.pins.unfed b

/-- FAULT_N, a system ball of bank A, is driven low (23 R830, R837). -/
def State.faultLow (s : State) : Bool := s.pwr.faultN && !s.floats 0

/-- IRQ pins asserted (R680, R667). -/
def State.irq (s : State) : BitVec 4 :=
  let ev := (List.finRange 128).foldl (fun m e =>
    if bit s.evt.status e.val then m ||| s.evt.route[e].pins else m) 0#4
  (List.finRange 4).foldl (fun m h =>
    let full := (List.finRange 168).any fun c => chanReceiver c == .ctx h && s.chu.chan[c].st == .full
    if full then m ||| s.chu.ctx[h].pins else m) ev

/-- The IRQ balls that the device drives to their asserted level: system balls of bank A (23 R830). -/
def State.irqBalls (s : State) : BitVec 4 := if s.floats 0 then 0 else s.irq

/-! Stroke budgets (03). -/

/-- The two beat resources. -/
inductive BeatKind | loft | gal
  deriving DecidableEq, Repr

/-- The outcome of a request for a beat (R108, R109). -/
structure BeatResult where
  granted : Bool
  src     : BeatSource
  st      : State

/-- The pool of a resource. -/
def Sbu.pool (b : Sbu) : BeatKind → Nat
  | .loft => b.poolLoft
  | .gal => b.poolGal

/-- Beats left of an activity's own budget. -/
def Activity.left (x : Activity) : BeatKind → Nat
  | .loft => x.loft
  | .gal => x.gal

def Activity.drawnOf (x : Activity) : BeatKind → Nat
  | .loft => x.drawnLoft
  | .gal => x.drawnGal

/-- One beat from the budget of `a`. -/
def State.spendBeat (a : ActId) (k : BeatKind) (s : State) : State :=
  s.modAct a fun x => match k with
    | .loft => { x with loft := x.loft - 1 }
    | .gal => { x with gal := x.gal - 1 }

/-- One beat from the pool, drawn by `a`. -/
def State.drawBeat (a : ActId) (k : BeatKind) (s : State) : State :=
  match k with
  | .loft => (s.modAct a fun x => { x with drawnLoft := x.drawnLoft + 1 }).modSbu fun b => { b with poolLoft := b.poolLoft - 1 }
  | .gal => (s.modAct a fun x => { x with drawnGal := x.drawnGal + 1 }).modSbu fun b => { b with poolGal := b.poolGal - 1 }

/-- SLACK_EMPTY, the first time in a stroke that a draw meets an empty pool (R109). -/
def State.slackEmpty (k : BeatKind) (s : State) : State :=
  if s.sbu.pool k = 0 ∧ !s.sbu.slackRaised then (s.modSbu fun b => { b with slackRaised := true }).raise evSlackEmpty
  else s

/-- Activity `a` asks for one beat: from its budget, else from the pool, else it waits (R108, R109). -/
def State.beat (a : ActId) (k : BeatKind) (s : State) : BeatResult :=
  let x := s.sbu.act[a]
  if 0 < x.left k then
    ⟨true, match k with | .loft => .loft | .gal => .gallery, s.spendBeat a k⟩
  else if 0 < s.sbu.pool k ∧ x.drawnOf k < (s.lo.slackCap a.val).toNat then
    ⟨true, match k with | .loft => .poolLoft | .gal => .poolGal, s.drawBeat a k⟩
  else
    let c := s.sbu.cnt[a].wait
    let s := (s.modSbu fun b => { b with cnt := vmod b.cnt a fun x => { x with wait := satInc x.wait } }).satEvent c 1
    ⟨false, .none, s.slackEmpty k⟩

/-- A beat for a write at its release; without one the write waits for step 4 (R690; 03 R108-R110). -/
def State.paidWrite (k : BeatKind) (f : State → State) (s : State) : Bool × State :=
  let r := s.beat actWarden k
  (r.granted, if r.granted then f r.st else r.st.modWdn fun w => { w with relWait := true })

/-- A discarded write's beat goes back to where it was drawn from (R121). -/
def State.giveBack (a : ActId) (b : BeatSource) (s : State) : State :=
  match b with
  | .none => s
  | .loft => s.modAct a fun x => { x with loft := x.loft + 1 }
  | .gallery => s.modAct a fun x => { x with gal := x.gal + 1 }
  | .poolLoft =>
    (s.modAct a fun x => { x with drawnLoft := x.drawnLoft - 1 }).modSbu fun b => { b with poolLoft := b.poolLoft + 1 }
  | .poolGal =>
    (s.modAct a fun x => { x with drawnGal := x.drawnGal - 1 }).modSbu fun b => { b with poolGal := b.poolGal + 1 }

/-- An overdraft beat of the host (R118). -/
def State.overdraft (s : State) : State :=
  let s := s.modSbu fun b => { b with use := { b.use with ovr := b.use.ovr + 1 } }
  if s.sbu.floorRaised || !s.tb.stroke.running then s else (s.modSbu fun b => { b with floorRaised := true }).raise evHostFloorMiss

/-- One host beat of a memory: floor, pool, overdraft (R116-R118). -/
def State.hostBeat (k : BeatKind) (s : State) : State :=
  let s : State := match k with
    | .gal => s.modSbu fun b => { b with use := { b.use with beats := b.use.beats + 1 } }
    | .loft => s
  let x : Activity := s.sbu.act[(28 : ActId)]
  if 0 < x.left k then s.spendBeat 28 k
  else if 0 < s.sbu.pool k ∧ x.drawnOf k < (s.lo.slackCap (28 : Nat)).toNat then s.drawBeat 28 k
  else (s.slackEmpty k).overdraft

/-- `n` host beats. -/
def State.hostBeats (k : BeatKind) : Nat → State → State
  | 0, s => s
  | n + 1, s => State.hostBeats k n (s.hostBeat k)

/-- One host register beat; register beats have no pool (R117). -/
def State.hostReg (s : State) : State :=
  if 0 < s.sbu.act[(28 : ActId)].cpu then s.modAct 28 fun x => { x with cpu := x.cpu - 1 } else s.overdraft

/-- A register access of the host that takes effect costs one register beat; other agents' cost none. -/
def State.paid (a : Agent) (s : State) : State :=
  match a with
  | .host => if s.hostLets then s.hostReg else s
  | _ => s

/-- The same for a Chute access: a context's is the host's. -/
def State.paidEnd (e : ChuteEnd) (s : State) : State :=
  match e with
  | .ctx _ => s.paid .host
  | _ => s

/-- `k` cycles of compute charged to `a`; those beyond a zero budget count in OVER_CYC (R101). -/
def State.compute (a : ActId) (k : Nat) (s : State) : State :=
  let left := s.sbu.act[a].cpu
  let s := s.modAct a fun x => { x with cpu := x.cpu - k }
  if k ≤ left then s
  else
    let c := s.sbu.cnt[a].overCyc
    (s.modSbu fun b => { b with cnt := vmod b.cnt a fun x => { x with overCyc := satAdd x.overCyc (k - left) } }).satEvent
      c (k - left)

/-! Engines. -/

/-- The activity of an engine. -/
def engAct : EngineId → ActId
  | .hewer n => actHewer n
  | .warden => actWarden

/-- An engine. -/
def State.eng (s : State) : EngineId → Eng
  | .hewer n => s.hw[n].eng
  | .warden => s.wdn.eng

/-- An engine changes. -/
def State.modEng (e : EngineId) (f : Eng → Eng) (s : State) : State :=
  match e with
  | .hewer n => s.modHw n fun h => { h with eng := f h.eng }
  | .warden => s.modWdn fun w => { w with eng := f w.eng }

/-- Cycles of its own that an engine has been stalled in the running stroke without being charged: 2 ns on a Hewer, 4 ns on the Warden
(03 R91). -/
def State.stalledFor (s : State) (e : EngineId) : Nat :=
  let d := s.tb.clk.cycles - max (s.eng e).since s.tb.stroke.cyc0
  match e with
  | .hewer _ => d
  | .warden => d / 2

/-- The stalled cycles are charged as compute (03 R91, 05 R189); they do not count towards CKPT_LIMIT (19 R696). -/
def State.billStall (e : EngineId) (s : State) : State :=
  if (s.eng e).billed then (s.compute (engAct e) (s.stalledFor e)).modEng e fun x => { x with since := s.tb.clk.cycles } else s

/-- The same for every engine. -/
def State.billStalls (s : State) : State := ((List.finRange 16).foldl (fun s n => s.billStall (.hewer n)) s).billStall .warden

/-- Egress budget left to a pair of activity and port, in fifths of a nanosecond (R111). -/
def State.egLeft (s : State) (a : ActId) (p : Nat) : Int := memRead 0 s.sbu.egLeft (8 * a.val + p)

/-- `x` fifths of a nanosecond charged to a pair of activity and port. -/
def State.chargeEg (a : ActId) (p : Nat) (x : Nat) (s : State) : State :=
  s.modSbu fun b => { b with egLeft := memWrite 0 b.egLeft (8 * a.val + p) (memRead 0 b.egLeft (8 * a.val + p) - x) }

/-- Usable fraction of a capacity (03, Admission). -/
def usable (x : Nat) : Nat := 15 * x / 16

/-- Sum of a resource over all activity records of a layout. -/
def Layout.sumAct (L : Layout) (f : Nat → Nat) : Nat :=
  ((List.range 64).map fun a => if L.present a then f a else 0).foldl (· + ·) 0

/-- Refill: every remaining budget of every present activity, the pools, the stroke's counts (R97, R98). -/
def State.refill (s : State) : State :=
  let L := s.lo
  let ns := 8 * L.period.toNat
  s.modSbu fun b =>
    { b with
      act := Vector.ofFn fun a : ActId =>
        { b.act[a] with cpu := (L.compute a.val).toNat, loft := (L.loft a.val).toNat, gal := (L.gallery a.val).toNat,
                        dma := (L.dma a.val).toNat, events := (L.events a.val).toNat, drawnLoft := 0, drawnGal := 0 },
      egLeft := L.egress.foldl (fun m e => memWrite 0 m (8 * e.1 + e.2.1) (5 * (e.2.2.toNat : Int))) [],
      poolLoft := usable (2 * ns) - L.sumAct fun a => (L.loft a).toNat,
      poolGal := usable ns - L.sumAct fun a => (L.gallery a).toNat,
      use := { beats := 0, ovr := 0, lastBeats := satNat 20 b.use.beats, lastOver := satNat 12 b.use.ovr },
      slackRaised := false, floorRaised := false }

end Sys2Proof.Machine
end

