-- ==== Sys2Proof/Machine/Flags.lean ====
section
/-! DEFINITION. Registers with their tags, and the flags (06 R237-R240; 07 R288-R290). -/

namespace Sys2Proof.Machine

/-! Registers (R237, R240). -/

/-- A register with its tag. -/
def Core.reg (c : Core) (r : Fin 16) : TWord := { val := c.w[r], green := bit c.tag r.val }

/-- A register written with its tag. -/
def Core.put (r : Fin 16) (v : TWord) (c : Core) : Core := { c with w := vset c.w r v.val, tag := setBit c.tag r.val v.green }

/-- A pair, by its low register (R284). -/
def Core.pairVal (c : Core) (r : Fin 16) : BitVec 40 := c.w[(highReg r)] ++ c.w[r]
def Core.pairTag (c : Core) (r : Fin 16) : Bool := bit c.tag r.val || bit c.tag (highReg r).val

/-- A 40-bit result gives one tag to both words (R240). -/
def Core.putPair (r : Fin 16) (v : BitVec 40) (t : Bool) (c : Core) : Core :=
  (c.put r { val := fld v 0 20, green := t }).put (highReg r) { val := fld v 20 20, green := t }

def Core.setFl (f : Flags) (c : Core) : Core := { c with fl := f }

/-- Green control (R242). -/
def Core.control (g : Bool) (c : Core) : Core := { c with ctlG := c.ctlG || g }

/-! Flag computations (R238). -/

def neg {w : Nat} (r : BitVec w) : Bool := r.msb
def zero {w : Nat} (r : BitVec w) : Bool := r == 0

/-- a + b + c, its carry and its signed overflow. -/
def addC {w : Nat} (a b : BitVec w) (c : Bool) : BitVec w × Bool × Bool :=
  let k := a.toNat + b.toNat + c.toNat
  let r := BitVec.ofNat w k
  (r, decide (2 ^ w ≤ k), a.msb == b.msb && r.msb != a.msb)

/-- a − b − (1 − c), its carry (no borrow) and its signed overflow. -/
def subC {w : Nat} (a b : BitVec w) (c : Bool) : BitVec w × Bool × Bool :=
  let r := a - b - (if c then 0 else 1)
  (r, decide (b.toNat + (!c).toNat ≤ a.toNat), a.msb != b.msb && r.msb != a.msb)

/-- N Z C V G. -/
def Flags.arith {w : Nat} (x : BitVec w × Bool × Bool) (g : Bool) : Flags :=
  { n := neg x.1, z := zero x.1, c := x.2.1, v := x.2.2, g := g }

/-- N Z G. -/
def Flags.logic {w : Nat} (f : Flags) (r : BitVec w) (g : Bool) : Flags := { f with n := neg r, z := zero r, g := g }

/-- N Z V G. -/
def Flags.sat {w : Nat} (f : Flags) (r : BitVec w) (v g : Bool) : Flags := { f with n := neg r, z := zero r, v := v, g := g }

/-- N Z C G. -/
def Flags.shift {w : Nat} (f : Flags) (r : BitVec w) (c g : Bool) : Flags := { f with n := neg r, z := zero r, c := c, g := g }

/-- Z G. -/
def Flags.zg (f : Flags) (z g : Bool) : Flags := { f with z := z, g := g }

/-! Saturation (07, Arithmetic and logic): the value and whether it was clamped. -/

def satS (x : Int) : Word × Bool :=
  if x < -524288 then (0x80000, true) else if 524287 < x then (0x7FFFF, true) else (BitVec.ofInt 20 x, false)

def satU (x : Int) : Word × Bool :=
  if x < 0 then (0, true) else if 1048575 < x then (0xFFFFF, true) else (BitVec.ofInt 20 x, false)

/-! Shifts (07 R289): the result and C, from the amount and the old C. -/

def shlC (a : Word) (s : Nat) (c : Bool) : Word × Bool :=
  if s = 0 then (a, c) else if s ≤ 20 then (a <<< s, bit a (20 - s)) else (0, false)

def shrC (a : Word) (s : Nat) (c : Bool) : Word × Bool :=
  if s = 0 then (a, c) else if s ≤ 20 then (a >>> s, bit a (s - 1)) else (0, false)

def asrC (a : Word) (s : Nat) (c : Bool) : Word × Bool :=
  if s = 0 then (a, c) else if s ≤ 20 then (a.sshiftRight s, bit a (s - 1)) else (a.sshiftRight 20, a.msb)

def rorC (a : Word) (s : Nat) (c : Bool) : Word × Bool :=
  let r := a.rotateRight (s % 20)
  (r, if s % 20 = 0 then c else r.msb)

end Sys2Proof.Machine
end

