-- ==== Sys2Proof/Machine/Readable.lean ====
section
/-! DEFINITION. The bits of a Window A register that can read as other than zero (00 R9, R11, R13), for the units whose island can be
off: a write-only or reserved bit, or a reserved offset, reads zero there too. From the register tables of 02, 05, 11 to 16 and 19. -/

namespace Sys2Proof.Machine

/-- Bits `hi` down to `lo`. -/
def bitSpan (hi lo : Nat) : BitVec 32 := BitVec.ofNat 32 (2 ^ (hi + 1) - 2 ^ lo)

/-- TIME (02, Registers). -/
def timeBits (off : Nat) : BitVec 32 :=
  if 0x100 ≤ off ∧ off < 0x300 then
    let o := off % 0x20
    if o = 0 then bitSpan 11 8 ||| bitSpan 5 2
    else if o < 0x14 then bitSpan 19 0
    else if o = 0x14 then bitSpan 12 8 ||| bitSpan 6 4 ||| bitSpan 1 0
    else 0
  else if 0x090 ≤ off ∧ off < 0x0B0 then (if off % 0x10 = 0 then bitSpan 31 30 ||| bitSpan 19 0 else bitSpan 19 0)
  else if off < 0x010 ∨ off = 0x014 ∨ off = 0x018 ∨ (0x02C ≤ off ∧ off < 0x03C) ∨ off = 0x040 ∨ off = 0x044 ∨ off = 0x064 then bitSpan 19 0
  else match off with
    | 0x010 => bitSpan 19 0
    | 0x01C => bitSpan 23 0
    | 0x020 => bitSpan 23 0
    | 0x024 => bitSpan 23 0
    | 0x028 => bitSpan 23 0
    | 0x060 => bitSpan 31 12
    | 0x06C => bitSpan 31 0
    | 0x070 => bitSpan 27 0
    | 0x074 => bitSpan 7 0
    | 0x078 => bitSpan 31 0
    | 0x07C => bitSpan 31 0
    | 0x080 => bitSpan 19 4 ||| bitSpan 1 0
    | _ => 0

/-- HWC (05, Registers): the engine's own registers show only while it is HALTED, which an engine without power is not. -/
def hwcBits (off : Nat) : BitVec 32 :=
  if 0x300 ≤ off then bitSpan 19 18 ||| bitSpan 4 0
  else match off with
    | 0x004 => bitSpan 17 16 ||| bitSpan 12 8 ||| bitSpan 5 4 ||| bitSpan 2 0
    | 0x008 => bitSpan 0 0
    | 0x00C => bitSpan 31 0
    | 0x014 => bitSpan 19 0
    | 0x018 => bitSpan 19 0
    | 0x01C => bitSpan 19 0
    | 0x020 => bitSpan 19 0
    | 0x024 => bitSpan 19 0
    | 0x028 => bitSpan 10 4 ||| bitSpan 1 0
    | 0x02C => bitSpan 19 0
    | 0x030 => bitSpan 11 0
    | 0x040 => bitSpan 31 31 ||| bitSpan 19 0
    | 0x044 => bitSpan 31 31 ||| bitSpan 19 0
    | 0x0C8 => bitSpan 14 0
    | 0x0CC => bitSpan 20 0
    | _ => 0

/-- A port's ETH registers (11, Registers). -/
def ethBits (off : Nat) : BitVec 32 :=
  if 0x800 ≤ off ∧ off < 0xC00 then bitSpan 19 0
  else match off with
    | 0x000 => bitSpan 31 15 ||| bitSpan 13 0
    | 0x004 => bitSpan 31 24 ||| bitSpan 8 0
    | 0x00C => bitSpan 3 0
    | 0x010 => bitSpan 31 24 ||| bitSpan 17 0
    | 0x018 => bitSpan 27 16 ||| bitSpan 11 0
    | 0x7F0 => bitSpan 31 0
    | 0x7F4 => bitSpan 31 0
    | _ => 0

/-- LND (12, Registers). -/
def lndBits (off : Nat) : BitVec 32 :=
  if 0x100 ≤ off ∧ off < 0x180 then
    match off % 0x10 with
    | 0x0 => bitSpan 18 14
    | 0x4 => bitSpan 19 0
    | 0x8 => bitSpan 15 0
    | _ => 0
  else if 0x200 ≤ off ∧ off < 0x240 then bitSpan 9 0
  else if 0x400 ≤ off ∧ off < 0x900 then
    match off % 0x10 with
    | 0x0 => bitSpan 19 16 ||| bitSpan 13 0
    | 0x4 => bitSpan 19 19 ||| bitSpan 11 0
    | 0x8 => bitSpan 29 16 ||| bitSpan 14 0
    | _ => bitSpan 19 0
  else if 0x1000 ≤ off ∧ off < 0x1060 then
    match off % 0x10 with
    | 0x0 => bitSpan 19 0
    | 0x4 => bitSpan 13 0
    | _ => 0
  else if 0x2000 ≤ off ∧ off < 0x2400 then bitSpan 31 31 ||| bitSpan 15 0
  else if 0x3000 ≤ off ∧ off < 0x3400 then bitSpan 19 0
  else match off with
    | 0x000 => bitSpan 29 16 ||| bitSpan 14 0
    | 0x004 => bitSpan 14 0
    | 0x008 => bitSpan 14 0
    | 0x00C => bitSpan 9 0
    | 0x010 => bitSpan 6 0
    | 0x014 => bitSpan 23 0
    | 0x1100 => bitSpan 30 30
    | 0x1104 => bitSpan 12 0
    | 0x1108 => bitSpan 15 0
    | 0x110C => bitSpan 15 0
    | 0x1110 => bitSpan 15 0
    | 0x1114 => bitSpan 31 29 ||| bitSpan 19 0
    | 0x3400 => bitSpan 31 0
    | 0x3404 => bitSpan 31 0
    | _ => 0

/-- GRD (13, Registers). -/
def grdBits (off : Nat) : BitVec 32 :=
  if 0x100 ≤ off ∧ off < 0x124 then bitSpan 31 31 ||| bitSpan 19 0
  else if 0x030 ≤ off ∧ off < 0x050 then bitSpan 31 0
  else match off with
    | 0x000 => bitSpan 17 0
    | 0x004 => bitSpan 11 0
    | 0x008 => bitSpan 11 0
    | 0x00C => bitSpan 0 0
    | 0x010 => bitSpan 16 16 ||| bitSpan 14 0
    | 0x014 => bitSpan 19 0
    | 0x01C => bitSpan 14 8 ||| bitSpan 3 0
    | 0x020 => bitSpan 5 0
    | 0x024 => bitSpan 31 28 ||| bitSpan 26 16 ||| bitSpan 7 0
    | 0x028 => bitSpan 31 0
    | 0x02C => bitSpan 11 0
    | _ => 0

/-- CAN (14, Registers). -/
def canBits (off : Nat) : BitVec 32 :=
  if 0x040 ≤ off ∧ off < 0x060 then bitSpan 19 0
  else if 0x080 ≤ off ∧ off < 0x09C then bitSpan 19 0
  else if 0x400 ≤ off ∧ off < 0x800 then (if off % 0x100 < 0xB0 then bitSpan 19 0 else 0)
  else match off with
    | 0x000 => bitSpan 15 15 ||| bitSpan 12 12 ||| bitSpan 10 8 ||| bitSpan 6 4 ||| bitSpan 2 0
    | 0x004 => bitSpan 15 0
    | 0x008 => bitSpan 14 0
    | 0x00C => bitSpan 19 2
    | 0x010 => bitSpan 19 2
    | 0x014 => bitSpan 16 0
    | 0x018 => bitSpan 19 0
    | 0x024 => bitSpan 2 0
    | 0x02C => bitSpan 15 0
    | 0x030 => bitSpan 8 8 ||| bitSpan 6 0
    | 0x034 => bitSpan 19 0
    | 0x038 => bitSpan 19 0
    | 0x03C => bitSpan 6 4 ||| bitSpan 1 0
    | _ => 0

/-- TRD (15, Registers). -/
def trdBits (off : Nat) : BitVec 32 :=
  if off < 0x800 then
    match off % 0x40 / 4 with
    | 1 => bitSpan 19 0
    | 2 => bitSpan 17 16 ||| bitSpan 14 12 ||| bitSpan 8 0
    | 3 => bitSpan 10 0
    | 4 => bitSpan 19 0
    | 5 => bitSpan 19 0
    | 7 => bitSpan 19 0
    | 8 => bitSpan 18 0
    | 9 => bitSpan 16 0
    | 10 => bitSpan 19 0
    | 11 => bitSpan 19 0
    | 12 => bitSpan 13 0
    | 13 => bitSpan 19 0
    | 14 => bitSpan 19 0
    | 15 => bitSpan 19 0
    | _ => 0
  else match off % 0x100 with
    | 0x04 => bitSpan 17 16 ||| bitSpan 5 4 ||| bitSpan 1 0
    | 0x08 => bitSpan 7 0
    | 0x0C => bitSpan 7 0
    | 0x10 => bitSpan 16 16 ||| bitSpan 10 0
    | 0x14 => bitSpan 13 0
    | 0x18 => bitSpan 31 31 ||| bitSpan 19 0
    | 0x1C => bitSpan 31 31 ||| bitSpan 19 0
    | 0x20 => bitSpan 31 31 ||| bitSpan 19 0
    | _ => 0

/-- TWB (16, Registers). -/
def twbBits (off : Nat) : BitVec 32 :=
  match off with
  | 0x00 => bitSpan 10 7 ||| bitSpan 4 0
  | 0x04 => bitSpan 12 0
  | 0x08 => bitSpan 12 0
  | 0x0C => bitSpan 8 0
  | 0x10 => bitSpan 10 8 ||| bitSpan 6 0
  | 0x14 => bitSpan 15 0
  | 0x18 => bitSpan 15 0
  | 0x1C => bitSpan 11 0
  | 0x28 => bitSpan 19 19 ||| bitSpan 7 0
  | 0x30 => bitSpan 19 19 ||| bitSpan 11 0
  | 0x34 => bitSpan 31 30 ||| bitSpan 13 0
  | 0x3C => bitSpan 19 12
  | 0x40 => bitSpan 5 0
  | 0x44 => bitSpan 31 30 ||| bitSpan 9 7
  | 0x48 => bitSpan 15 0
  | 0x4C => bitSpan 15 0
  | _ => if 0x50 ≤ off ∧ off < 0x64 then bitSpan 19 0 else 0

/-- The sensor registers of WDN (19, The WDN block). -/
def sensorBits (off : Nat) : BitVec 32 :=
  if 0x040 ≤ off ∧ off < 0x060 then bitSpan 11 0
  else if 0x080 ≤ off ∧ off < 0x0B0 then bitSpan 15 15 ||| bitSpan 12 0
  else match off with
    | 0x060 => bitSpan 15 0
    | 0x064 => bitSpan 12 0
    | 0x0C0 => bitSpan 31 16 ||| bitSpan 3 0
    | _ => 0

/-- The bits of the register at Window A offset `off`, in a unit whose island can be off. -/
def readableBits (off : Nat) : BitVec 32 :=
  let off := off / 4 * 4
  if 0x1000 ≤ off ∧ off < 0x2000 then timeBits (off - 0x1000)
  else if 0xC000 ≤ off ∧ off < 0x10000 then hwcBits (off % 0x400)
  else if 0x10000 ≤ off ∧ off < 0x16000 then ethBits (off % 0x1000)
  else if 0x18000 ≤ off ∧ off < 0x1C000 then lndBits (off - 0x18000)
  else if 0x1C000 ≤ off ∧ off < 0x20000 then grdBits (off - 0x1C000)
  else if 0x20000 ≤ off ∧ off < 0x28000 then canBits (off % 0x2000)
  else if 0x28000 ≤ off ∧ off < 0x29400 then trdBits (off - 0x28000)
  else if 0x2C000 ≤ off ∧ off < 0x2CC00 then twbBits (off % 0x400)
  else if 0x38000 ≤ off ∧ off < 0x38100 then sensorBits (off - 0x38000)
  else 0

/-- What agent `a` reads from the register at `off` of a unit without power: an open value in its readable bits (log 133). -/
def State.silentAt (a : Agent) (off : Nat) (s : State) : BitVec 32 × State :=
  let (v, s) := s.silent a
  (v &&& readableBits off, s)

end Sys2Proof.Machine
end

