-- ==== Sys2Proof/Machine/Grade.lean ====
section
/-! DEFINITION. Pure functions on a frame's octets: check values, tags and PTP (11), the Grader's walk and match (13). -/

namespace Sys2Proof.Machine

/-! CRC-32 of IEEE 802.3 (12 R468 names its parameters). -/

/-- Eight steps of the reflected CRC-32 over one octet. -/
def crc32Step (c : BitVec 32) (o : Octet) : BitVec 32 :=
  (List.range 8).foldl (fun c _ => if bit c 0 then (c >>> 1) ^^^ 0xEDB88320#32 else c >>> 1) (c ^^^ o.setWidth 32)

/-- CRC-32 of an octet string, complemented. -/
def crc32 (m : List Octet) : BitVec 32 := ~~~(m.foldl crc32Step 0xFFFFFFFF#32)

/-- The four octets of an FCS in wire order, least significant first. -/
def fcsOctets (c : BitVec 32) : List Octet := (List.range 4).map fun i => fld c (8 * i) 8

/-! Big-endian fields. -/

/-- `n` octets from `i` on, most significant first. -/
def beNat (m : List Octet) (i n : Nat) : Nat := (List.range n).foldl (fun a k => 256 * a + (m.getD (i + k) 0).toNat) 0
def be16 (m : List Octet) (i : Nat) : Nat := beNat m i 2

/-- `v` written as `n` octets, most significant first, at octet `i`. -/
def putBe (m : List Octet) (i n v : Nat) : List Octet :=
  (List.range n).foldl (fun m k => m.set (i + k) (BitVec.ofNat 8 (v / 256 ^ (n - 1 - k)))) m

def isVlan (t : Nat) : Bool := t == 0x8100 || t == 0x88A8

/-- The destination and source addresses, first octet most significant. -/
def dstMac (m : List Octet) : BitVec 48 := BitVec.ofNat 48 (beNat m 0 6)
def srcMac (m : List Octet) : BitVec 48 := BitVec.ofNat 48 (beNat m 6 6)
/-- A group address: bit 0 of the first octet. -/
def isGroup (a : BitVec 48) : Bool := bit a 40

/-- The outermost tag's control information, if the frame is tagged (11 R416, 12 R447). -/
def outerTci (m : List Octet) : Option Nat := if isVlan (be16 m 12) && 16 ≤ m.length then some (be16 m 14) else none

/-- Position of the EtherType after at most two VLAN tags. -/
def typeAt (m : List Octet) : Nat :=
  if isVlan (be16 m 12) then (if isVlan (be16 m 16) then 20 else 16) else 12

/-- Where a PTP message begins, and whether UDP over IPv4 (1) or IPv6 (2) carries it (11, Holdover action). -/
def ptpAt (m : List Octet) : Option (Nat × Nat) :=
  let t := typeAt m
  let ty := be16 m t
  let p := t + 2
  if m.length < p then none
  else if ty = 0x88F7 then some (p, 0)
  else if ty = 0x0800 then
    let l4 := p + 4 * ((m.getD p 0).toNat % 16)
    let port := be16 m (l4 + 2)
    if (m.getD (p + 9) 0).toNat = 17 ∧ (be16 m (p + 6)) % 8192 = 0 ∧ l4 + 4 ≤ m.length ∧ (port = 319 ∨ port = 320) then
      some (l4 + 8, 1) else none
  else if ty = 0x86DD then
    let port := be16 m (p + 42)
    if (m.getD (p + 6) 0).toNat = 17 ∧ p + 44 ≤ m.length ∧ (port = 319 ∨ port = 320) then some (p + 48, 2) else none
  else none

def isPtp (m : List Octet) : Bool := (ptpAt m).isSome

/-- The sequence number of a redundancy tag (12, 802.1CB elimination). -/
def rtagSeq (m : List Octet) : Option (BitVec 16) :=
  let t := typeAt m
  if be16 m t = 0xF1C1 ∧ t + 6 ≤ m.length then some (BitVec.ofNat 16 (be16 m (t + 4))) else none

/-- A frame padded to 60 octets (11 R420). -/
def padded (m : List Octet) : List Octet := m ++ List.replicate (60 - m.length) 0

/-- Payload word `i` of stored octets with its marks (07, SWP and the mark instructions). -/
def frameWord (m : List Octet) (eof : Bool) (i : Nat) : Word :=
  let lo := m.getD (2 * i) 0
  let one := eof && m.length == 2 * i + 1
  let hi : Octet := if one then 0 else m.getD (2 * i + 1) 0
  let last := eof && m.length ≤ 2 * i + 2
  (bool 1 false ++ bool 1 one ++ bool 1 last ++ bool 1 (i == 0) ++ hi ++ lo : BitVec 20)

/-- The octets a frame word carries. -/
def wordOctets (w : Word) : List Octet := if bit w 18 then [fld w 0 8] else [fld w 0 8, fld w 8 8]

/-! The walk (13 R485, R490-R493). -/

/-- The window octets that a field with shift `sh` and width `w` covers. -/
def covers (sh w : Nat) : List Nat :=
  (List.range 3).filter fun k => decide (0 < w) && decide (sh ≤ 23 - 8 * k) && decide (16 - 8 * k ≤ sh + w - 1)

/-- A field of the window at position `p`. -/
def windowField (m : List Octet) (p sh w : Nat) : Nat := (beNat m p 3 / 2 ^ sh) % 2 ^ w

/-- The state of a walk. -/
structure Walk where
  key  : Vector Word 16
  pos  : Nat
  path : BitVec 16
  /-- Addresses an OFC 2 visit remembered. -/
  ip6  : Option (BitVec 128 × BitVec 128)
  frag : FragKind
  okey : OfcKey
  more : Bool
  /-- Octets of the frame the walk has needed. -/
  need : Nat
  deriving DecidableEq, Repr

def OfcKey.zero : OfcKey := { v6 := false, src := 0, dst := 0, proto := 0, ident := 0 }

/-- Octet positions a node reads at its position (R492, R504). -/
def nodeReads (L : Layout) (i : Nat) (w : Walk) : List Nat :=
  let n (j : Nat) := L.node i j
  let at_ (off sh wd : Nat) := (covers sh wd).map fun k => w.pos + off + k
  let ex := (List.range 4).flatMap fun j =>
    let a := n (6 + 2 * j)
    if bit a 15 then at_ (fldN a 0 10) (fldN a 10 5) (fldN (n (7 + 2 * j)) 0 5) else []
  let sel := if fldN (n 1) 5 5 = 0 then [] else at_ (fldN (n 0) 0 10) (fldN (n 0) 10 5) (fldN (n 1) 0 5)
  let adv := if bit (n 1) 10 then at_ (fldN (n 2) 0 10) (fldN (n 2) 10 5) (fldN (n 3) 0 5) else []
  let ofc := match fldN (n 15) 0 2 with
    | 1 => (List.range 16).map fun k => w.pos + 4 + k
    | 2 => (List.range 32).map fun k => w.pos + 8 + k
    | 3 => if w.ip6.isSome then (List.range 8).map fun k => w.pos + k else []
    | _ => []
  ex ++ sel ++ adv ++ ofc

/-- What an OFC 1 or OFC 3 visit says about fragmentation (R505). -/
def fragKind (off : Nat) (more : Bool) : FragKind := if off ≠ 0 then .later else if more then .first else .none

/-- An IPv4 address in the IPv4-mapped form. -/
def mapped4 (a : Nat) : BitVec 128 := BitVec.ofNat 128 (0xFFFF * 2 ^ 32 + a)

/-- Offcut reads of a visit (R504). -/
def ofcVisit (m : List Octet) (ofc : Nat) (w : Walk) : Walk :=
  let p := w.pos
  match ofc with
  | 1 =>
    let f := be16 m (p + 6)
    { w with frag := fragKind (f % 8192) (f / 8192 % 2 == 1), more := f / 8192 % 2 == 1,
             okey := { v6 := false, src := mapped4 (beNat m (p + 12) 4), dst := mapped4 (beNat m (p + 16) 4),
                       proto := m.getD (p + 9) 0, ident := BitVec.ofNat 32 (be16 m (p + 4)) } }
  | 2 => { w with ip6 := some (BitVec.ofNat 128 (beNat m (p + 8) 16), BitVec.ofNat 128 (beNat m (p + 24) 16)) }
  | 3 =>
    match w.ip6 with
    | none => w
    | some (src, dst) =>
      let f := be16 m (p + 2)
      { w with frag := fragKind (f / 8) (f % 2 == 1), more := f % 2 == 1,
               okey := { v6 := true, src := src, dst := dst, proto := m.getD p 0, ident := BitVec.ofNat 32 (beNat m (p + 4) 4) } }
  | _ => w

/-- A visit to node `i` (R491): the state after it and the next-node code. -/
def nodeVisit (L : Layout) (m : List Octet) (i : Nat) (w : Walk) : Walk × Nat :=
  let n (j : Nat) := L.node i j
  let w := ofcVisit m (fldN (n 15) 0 2) w
  let key := (List.range 4).foldl (fun (key : Vector Word 16) j =>
    let a := n (6 + 2 * j)
    let b := n (7 + 2 * j)
    if bit a 15 then
      vset key (ix 16 (fldN b 5 4)) (BitVec.ofNat 20 (windowField m (w.pos + fldN a 0 10) (fldN a 10 5) (fldN b 0 5)))
    else key) w.key
  let sel := BitVec.ofNat 20 (windowField m (w.pos + fldN (n 0) 0 10) (fldN (n 0) 10 5) (fldN (n 1) 0 5))
  let nedge := min (fldN (n 1) 5 5) 16
  let edge := (List.range nedge).find? fun e => (sel ^^^ n (16 + 3 * e)) &&& n (17 + 3 * e) == 0
  let next := match edge with
    | some e => fldN (n (18 + 3 * e)) 0 8
    | none => fldN (n 5) 0 8
  let adv := fldN (n 4) 0 10 +
    (if bit (n 1) 10 then
      windowField m (w.pos + fldN (n 2) 0 10) (fldN (n 2) 10 5) (fldN (n 3) 0 5) * fldN (n 3) 5 6 else 0)
  ({ w with key := key, path := w.path ||| fld (n 14) 0 16, pos := w.pos + adv }, next)

/-- The walk with `fuel` visits left, standing before node `i`: its end and END code (R492, R493). -/
def walkFrom (L : Layout) (m : List Octet) : Nat → Nat → Walk → Walk × BitVec 2
  | 0, _, w => (w, 3)
  | fuel + 1, i, w =>
    let reads := nodeReads L i w
    if reads.any fun p => decide (L.depth ≤ p) then (w, 1)
    else
      let w := { w with need := reads.foldl (fun a p => max a (p + 1)) w.need }
      if reads.any fun p => decide (m.length ≤ p) then (w, 2)
      else
        let (w, next) := nodeVisit L m i w
        if next = 0xFF then (w, 0) else walkFrom L m fuel next w

def Walk.start : Walk :=
  { key := Vector.replicate 16 0, pos := 0, path := 0, ip6 := none, frag := .none, okey := OfcKey.zero, more := false,
    need := 0 }

/-- The whole walk of a frame (R490). -/
def walk (L : Layout) (m : List Octet) : Walk × BitVec 2 :=
  if L.nnode = 0 then (Walk.start, 0) else walkFrom L m 24 0 Walk.start

/-- The finished key (R494): words 0 and 1 over the extracted ones. -/
def walkKey (w : Walk) (endc : BitVec 2) (src : Nat) : Vector Word 16 :=
  let k0 : Word := (endc ++ 0#2 ++ w.path : BitVec 20)
  let k1 : Word := BitVec.ofNat 20 (src % 32) ||| bool 20 (w.frag == .first) <<< 5 ||| bool 20 (w.frag == .later) <<< 6
  vset (vset w.key 0 k0) 1 k1

/-- Rule `i` matches a key (R495). -/
def ruleMatches (L : Layout) (key : Vector Word 16) (i : Nat) : Bool :=
  let r0 := L.ruleWord i 0
  bit r0 16 && (List.range 4).all fun j =>
    (key[(ix 16 (fldN r0 (4 * j) 4))] ^^^ L.ruleWord i (1 + 2 * j)) &&& L.ruleWord i (2 + 2 * j) == 0

/-- The lowest-indexed matching rule (R495). -/
def matchRule (L : Layout) (key : Vector Word 16) : Option (BitVec 11) :=
  ((List.range (min L.nrule 2048)).find? (ruleMatches L key)).map (BitVec.ofNat 11)

/-- Walk and match of a frame's octets under a layout's tables. -/
def grade (L : Layout) (m : List Octet) (src : Nat) : Graded :=
  let (w, e) := walk L m
  let key := walkKey w e src
  { key := key, endc := e, rule := matchRule L key, frag := w.frag, okey := w.okey, more := w.more }

end Sys2Proof.Machine
end

