-- ==== Sys2Proof/Machine/Time.lean ====
section
/-! DEFINITION. The timebase and the scheduler (02): clock corrections, synchronization, scheduler writes, PPS. -/

namespace Sys2Proof.Machine

/-- An agent's code in OWNER fields: 0-15 Hewer n, 16 Warden, 17 host (02, TIME.STATE). -/
def agentCode : Agent → BitVec 5
  | .hewer n => BitVec.ofNat 5 n.val
  | .warden => 16
  | .host => 17

def State.modTimeRegs (f : TimeRegs → TimeRegs) (s : State) : State := s.modTb fun t => { t with regs := f t.regs }
def State.modClk (f : Clock → Clock) (s : State) : State := s.modTb fun t => { t with clk := f t.clk }

/-- A foreign write is counted (R34, R69). -/
def State.foreignTime (s : State) : State := s.modTimeRegs fun r => { r with foreign := satInc r.foreign }

/-- `f` when the agent is the time owner, else the write is discarded and counted (R34). -/
def State.byOwner (a : Agent) (f : State → State) (s : State) : State :=
  if !s.heard a 54 then s else if agentCode a = s.lo.owner then f s else s.foreignTime

/-! The grid (R37, R56). -/

/-- The stroke period in quarter-nanoseconds. -/
def Layout.periodQ (L : Layout) : Nat := 32 * L.period.toNat
/-- The origin in quarter-nanoseconds. -/
def Layout.originQ (L : Layout) : Nat := ofTime80 (L.origin 3 ++ L.origin 2 ++ L.origin 1 ++ L.origin 0)

/-- The number of the last grid point at or before `t`. -/
def Layout.gridIndex (L : Layout) (t : Nat) : Int := ((t : Int) - L.originQ).fdiv L.periodQ
/-- Grid point `k`. -/
def Layout.gridPoint (L : Layout) (k : Int) : Nat := ((L.originQ : Int) + k * L.periodQ).toNat
/-- The first grid point strictly after `t`. -/
def Layout.gridAfter (L : Layout) (t : Nat) : Nat := L.gridPoint (L.gridIndex t + 1)
/-- The first grid point at or after `t`. -/
def Layout.gridFrom (L : Layout) (t : Nat) : Nat :=
  let k := L.gridIndex t
  if L.gridPoint k = t then t else L.gridPoint (k + 1)

/-! Steps (R52-R57). -/

/-- The Warden's queued write of STEPQ_POP (19, Warden I/O). -/
def popEntry : REntry := .write (.word 0xF0026) 1

/-- The Warden builds the TIME_STEP record of a step-queue entry, with the entry's new time as its time, and queues STEPQ_POP
behind it (R53, R54; 19, step table). The step counter and the stroke counter are read as the record is built (DEDUCED). -/
def State.logStep (e : BitVec 80 × BitVec 80) (s : State) : State :=
  let n := s.tb.stroke.count
  let payload := [word80 e.1 0, word80 e.1 1, word80 e.1 2, word80 e.1 3, s.tb.regs.steps, fld n 0 20, fld n 20 20]
  (s.relPush (.log 2 (BitVec.ofNat 10 s.lo.owner.toNat) e.2 (syncCode s.tb.sync.st) payload)).relPush popEntry

/-- Step-queue entries whose record waits in the release queue: one STEPQ_POP each. -/
def State.popsQueued (s : State) : Nat := (s.wdn.relq ++ s.wdn.late).countP (· == popEntry)

/-- While it executes, the Warden reads the step queue and makes a record for each entry that has none waiting (R53, R54): after a
restart, for those whose record was discarded too. -/
def State.logSteps (s : State) : State :=
  if s.wardenRuns then (s.tb.regs.stepq.drop s.popsQueued).foldl (fun s e => s.logStep e) s else s

/-- A step is counted and queued (R53, R54); the Warden logs what was queued (19, TIME_STEP record). -/
def State.recordStep (old new : BitVec 80) (s : State) : State :=
  let s := s.modTimeRegs fun r =>
    { r with steps := satInc r.steps,
             stepq := if r.stepq.length < 8 then r.stepq ++ [(old, new)] else r.stepq,
             stepLost := if r.stepq.length < 8 then r.stepLost else satInc r.stepLost }
  (s.logSteps.raise evTimeStep).wsrc 9

/-- STEPQ_POP takes effect: the head entry leaves (R54). -/
def State.stepqPop (s : State) : State := s.modTimeRegs fun r => { r with stepq := r.stepq.tail }

/-- Where the running stroke ends after a step from `t` to `t'`, and the grid points skipped (R42, R56, R57). In a changeover stroke
the points of the new layout's grid are counted, over all of the interval (DESIGN CHOICE, log 157). -/
def State.moveEnd (t t' : Nat) (s : State) : State :=
  match s.tb.stroke.ends with
  | none => s
  | some _ =>
    if s.tb.stroke.running then
      let skipped := (s.lo.gridIndex t' - s.lo.gridIndex t).toNat
      let s := s.modTb fun b => { b with stroke := { b.stroke with ends := some (s.lo.gridAfter t') } }
      if 0 < skipped then
        (s.modTimeRegs fun r => { r with slipTotal := satInc r.slipTotal, slipLast := satNat 20 skipped }).raise
          evStrokeSlip
      else s
    else s.modTb fun b => { b with stroke := { b.stroke with ends := some (s.lo.gridFrom t') } }

/-- System time takes a new value, in the unit of `Clock.now`, in one core cycle (R43, R52). -/
def State.stepTo (now' : Nat) (s : State) : State :=
  let old := s.qns
  let n := now' % timeMod
  let s := s.modClk fun c => { c.aonTake n with now := n, slew := 0 }
  (s.moveEnd old (n / 2 ^ 37)).recordStep (time80 old) (time80 (n / 2 ^ 37))

/-- A committed step applies: an adjustment takes what is left of a slew with it (R51, R52). -/
def State.applyStep (r : StepReq) (s : State) : State :=
  match r with
  | .shift x => s.stepTo ((s.tb.clk.now + x + s.tb.clk.slew) % timeMod).toNat
  | .set q => s.stepTo (q * 2 ^ 37)

/-- A boundary is due in the running core cycle and has not been performed. -/
def State.boundaryDue (s : State) : Bool :=
  match s.tb.stroke.ends with
  | some e => decide (e ≤ s.qns)
  | none => false

/-- The running core cycle is the one in which the running stroke began. -/
def State.inBoundaryCycle (s : State) : Bool := s.tb.stroke.running && s.tb.clk.cycles == s.tb.stroke.cyc0

/-- A step committed in the core cycle of a boundary applies in the following one (R59): it waits for a boundary still to be
performed. -/
def State.commitStep (r : StepReq) (s : State) : State :=
  if s.boundaryDue then s.modTb fun t => { t with steps := t.steps ++ [r] }
  else if s.inBoundaryCycle then (s.runToCycle (s.tb.clk.cycles + 1)).applyStep r
  else s.applyStep r

/-- The steps that waited for the boundary just performed apply in the following core cycle (R59). -/
def State.lateSteps (s : State) : State :=
  match s.tb.steps with
  | [] => s
  | rs =>
    let s := (s.modTb fun t => { t with steps := [] }).runToCycle (s.tb.clk.cycles + 1)
    rs.foldl (fun s r => s.applyStep r) s

/-- An adjustment of `x` quarter-nanoseconds: slewed up to 1 µs, else stepped, with what is left of a slew (R50-R52). While a slew
is in progress the sum alone decides, as R51 says: an adjustment above 1 µs whose sum is 1 µs or less slews (DESIGN CHOICE,
log 158). -/
def State.adjust (x : Int) (s : State) : State :=
  let sum := x * 2 ^ 37 + s.tb.clk.slew
  if sum.natAbs ≤ 4000 * 2 ^ 37 then s.modClk fun c => { c with slew := sum }
  else s.commitStep (.shift (x * 2 ^ 37))

/-- A lower word is held no longer than 1 µs (R86). -/
def HeldWord.expired (now : Nat) (h : HeldWord) : Bool := decide (h.cyc + 500 < now)

/-- The word of a held write that has not expired. -/
def heldNow (now : Nat) (h : Option HeldWord) : Option Word := (h.filter fun x => !x.expired now).map (·.w)

/-- A held write that has expired is discarded. -/
def heldLeft (now : Nat) (h : Option HeldWord) : Option HeldWord := h.filter fun x => !x.expired now

/-- The word of a held write at a commit. -/
def State.heldWord (h : Option HeldWord) (s : State) : Option Word := heldNow s.tb.clk.cycles h

/-- A write of a lower word, to be held (R85). -/
def State.toHold (w : Word) (s : State) : Option HeldWord := some { w := w, cyc := s.tb.clk.cycles }

/-- A lower word of TIME.RATE, TIME.ADJ or TIME.SET is held (R85). -/
def State.modHeld (f : HeldWords → HeldWords) (s : State) : State := s.modTb fun t => { t with held := f t.held }

/-- TIME.ADJ committed (R51, R85). -/
def State.commitAdj (hi : Word) (s : State) : State :=
  let v := (hi ++ (s.heldWord s.tb.held.adj).getD 0 : BitVec 40)
  (s.modHeld fun h => { h with adj := none }).adjust v.toInt

def execTimeAdjust (a : Agent) (hi : Word) (s : State) : Host.Outcome State Fault Refusal :=
  let s := s.paid a
  .next (s.byOwner a (·.commitAdj hi))

/-- TIME.SET committed (R52, R85, R869). -/
def State.commitSet (w3 : Word) (s : State) : State :=
  let h := s.tb.held.set
  let v := (w3 ++ (s.heldWord h[2]).getD 0 ++ (s.heldWord h[1]).getD 0 ++ (s.heldWord h[0]).getD 0 : BitVec 80)
  (s.modHeld fun h => { h with set := Vector.replicate 3 none }).commitStep (.set (ofTime80 v))

def execTimeSet (a : Agent) (w3 : Word) (s : State) : Host.Outcome State Fault Refusal :=
  let s := s.paid a
  .next (s.byOwner a (·.commitSet w3))

/-- TIME.RATE committed: the trim saturates at ±2^30 (R32, R85). -/
def State.commitRate (hi : Word) (s : State) : State :=
  let lo := (s.heldWord s.tb.held.rate).getD (fld (BitVec.ofInt 40 s.tb.clk.trim) 0 20)
  let v := (hi ++ lo : BitVec 40)
  (s.modHeld fun h => { h with rate := none }).modClk fun c => { c with trim := clampTo (2 ^ 30) v.toInt }

def execRateTrimWrite (a : Agent) (hi : Word) (s : State) : Host.Outcome State Fault Refusal :=
  let s := s.paid a
  .next (s.byOwner a (·.commitRate hi))

/-- The held writes of a register. -/
def HeldWords.of (h : HeldWords) : HeldReg → List HeldWord
  | .rate => h.rate.toList
  | .adj => h.adj.toList
  | .set => h.set.toList.filterMap id

/-- The expired writes of a register are discarded. -/
def HeldWords.drop (r : HeldReg) (now : Nat) (h : HeldWords) : HeldWords :=
  match r with
  | .rate => { h with rate := heldLeft now h.rate }
  | .adj => { h with adj := heldLeft now h.adj }
  | .set => { h with set := h.set.map (heldLeft now) }

/-- 1 µs has passed since the oldest held write of a register: what has then been held longer is discarded (R86). -/
def execLowerWordDiscard (r : HeldReg) (s : State) : Host.Outcome State Fault Refusal :=
  .next (match ((s.tb.held.of r).map (·.cyc)).min? with
    | none => s
    | some k => s.whenAt (k + 501) fun s => s.modTb fun t => { t with held := t.held.drop r t.clk.cycles })

/-- TIME.MEAS (R46). -/
def State.putMeas (v : Word) (s : State) : State := s.modTb fun t => { t with sync := { t.sync with meas := some v } }

def execMeasWrite (a : Agent) (v : Word) (s : State) : Host.Outcome State Fault Refusal :=
  let s := s.paid a
  .next (s.byOwner a (·.putMeas v))

/-- System time runs to the next whole second (R33, R43). -/
def execSecondsCarry (s : State) : Host.Outcome State Fault Refusal :=
  .next (s.whenTime ((s.qns / 4000000000 + 1) * 4000000000) id)

/-- Core cycles until a slew has applied all of itself (R50). -/
def Clock.slewCycles (c : Clock) : Nat := ceilDiv c.slew.natAbs (2 ^ 28)

/-- The slew in progress runs out (R50). -/
def execSlewComplete (s : State) : Host.Outcome State Fault Refusal :=
  .next (s.whenAt (s.tb.clk.cycles + s.tb.clk.slewCycles) id)

/-! Synchronization (R46, R47). -/

/-- Core cycles of a sync interval of 2^n s. -/
def syncCycles (n : BitVec 4) : Nat :=
  if n.toInt < 0 then 500000000 / 2 ^ n.toInt.natAbs else 500000000 * 2 ^ n.toInt.natAbs

/-- The measurement of an interval makes it good (R46). -/
def goodMeas (limit : BitVec 20) : Option Word → Bool
  | some v => v.toInt.natAbs ≤ limit.toNat
  | none => false

/-- A judged interval: the run, and the state after it (R47). -/
def Sync.judge (good : Bool) (lostCyc : Nat) (y : Sync) : Sync :=
  let run := if y.good = good then min 8 (y.run + 1) else 1
  let st :=
    if run < 8 then y.st
    else match y.st, good with
      | .unsynced, true => .synced
      | .holdover, true => .synced
      | .synced, false => .holdover
      | st, _ => st
  { y with run := run, good := good, st := st, lostCyc := if y.st = .synced ∧ st = .holdover then lostCyc else y.lostCyc }

/-- A sync interval ends (R46, R47; 11 R424: SYNC_OK ends both quiet conditions). It is judged by the LIMIT that stands at its end
(DESIGN CHOICE, log 159). -/
def execSyncIntervalEnd (s : State) : Host.Outcome State Fault Refusal :=
  let y := s.tb.sync
  .next (s.whenAt (y.ivlCyc0 + syncCycles y.ivl) fun s =>
    let z := y.judge (goodMeas s.tb.regs.limit y.meas) s.tb.clk.cycles
    let s := s.modTb fun t =>
      { t with sync := { z with meas := none, ivl := t.regs.logIvl, ivlCyc0 := y.ivlCyc0 + syncCycles y.ivl } }
    if y.st = z.st then s
    else if z.st = .synced then
      ({ s with eth := { s.eth with quietHold := false, quietBoot := false } } : State).raise evSyncOk
    else s.raise evSyncLost)

/-- The holdover limit elapses (R47, R49): the HOLD_MS that stands at the expiry counts from SYNC_LOST (DESIGN CHOICE, log 159). -/
def execHoldoverExpiry (s : State) : Host.Outcome State Fault Refusal :=
  if s.tb.sync.st = .holdover then
    .next (s.whenAt (s.tb.sync.lostCyc + msCycles s.tb.regs.holdMs.toNat) fun s =>
      let s := s.modTb fun t => { t with sync := { t.sync with st := .unsynced } }
      { s with eth := { s.eth with quietHold := true } })
  else .next s

/-! The scheduler (R60-R70, R87). -/

def State.modSched (n : Fin 16) (f : Sched → Sched) (s : State) : State :=
  s.modTb fun t => { t with sched := vmod t.sched n f }

/-- The stroke count an entry's target names. -/
def Sched.targetStroke (e : Sched) : BitVec 40 := e.tgt[1] ++ e.tgt[0]
/-- The time an entry's target names, in quarter-nanoseconds (R869). -/
def Sched.targetTime (e : Sched) : Nat := ofTime80 (of80 e.tgt)

/-- A stroke target may be armed (R63). -/
def inRange (target count : BitVec 40) : Bool :=
  let d := (target - count).toNat
  1 ≤ d && d ≤ 2 ^ 39

/-- CTRL's fields, stored (TIME.SCHED_n CTRL). -/
def Sched.setCtrl (v : BitVec 32) (e : Sched) : Sched :=
  { e with action := fld v 4 2, mask := fld v 8 4, needSync := bit v 3, stroke := bit v 2 }

/-- An ARM taken for agent `a` (R63, R69). -/
def Sched.arm (a : Agent) (count : BitVec 40) (e : Sched) : Sched :=
  if e.stroke && !inRange e.targetStroke count then { e with reason := .range }
  else { e with st := .pending, reason := .none, owner := agentCode a }

/-- Entry 0's abort is a changeover's (04, LAY.ABORT). -/
def State.countAbort (reason : BitVec 3) (s : State) : State :=
  s.modLay fun l => { l with abortCnt := satInc l.abortCnt, abortReason := reason }

/-- A pending entry is cancelled, without an event (R69; entry 0: LAY.ABORT, log 12). -/
def State.cancelSched (n : Fin 16) (s : State) : State :=
  let s := s.modSched n fun e => { e with st := .aborted, reason := .cancelled }
  if n = 0 then s.countAbort 3 else s

/-- A write of an entry's CTRL (R63, R67-R69, R87). -/
def State.schedCtrl (a : Agent) (n : Fin 16) (v : BitVec 32) (s : State) : State :=
  if (n.val < 2 ∧ a ≠ .warden) ∨ !s.heard a 54 then s
  else if bit v 0 && bit v 1 then s
  else
    let e := s.tb.sched[n]
    if e.st = .pending then
      if bit v 1 then (if agentCode a = e.owner ∨ a = .warden then s.cancelSched n else s.foreignTime) else s
    else
      s.modSched n fun e =>
        let e := e.setCtrl v
        if bit v 0 then e.arm a s.tb.stroke.count else e

/-- A write of TGT_m of an entry (R67, R87). -/
def State.schedTgt (a : Agent) (n : Fin 16) (m : Fin 4) (v : Word) (s : State) : State :=
  if (n.val < 2 ∧ a ≠ .warden) ∨ s.tb.sched[n].st = .pending ∨ !s.heard a 54 then s
  else s.modSched n fun e => { e with tgt := vset e.tgt m v }

/-- An ARM write of CTRL (R63). -/
def execSchedArm (a : Agent) (n : Fin 16) (ctrl : BitVec 32) (s : State) : Host.Outcome State Fault Refusal :=
  let s := s.paid a
  .next (s.schedCtrl a n (ctrl ||| 1))

/-- A CANCEL of a pending entry (R69). -/
def execSchedCancel (a : Agent) (n : Fin 16) (s : State) : Host.Outcome State Fault Refusal :=
  let s := s.paid a
  .next (if s.tb.sched[n].st = .pending then s.schedCtrl a n 2 else s)

/-- An entry is aborted at a boundary (R61, R64); entry 0 raises CHANGEOVER_ABORT in place of SCHED_LATE. -/
def State.lateSched (n : Fin 16) (r : SchedReason) (code : BitVec 3) (s : State) : State :=
  let s := s.modSched n fun e => { e with st := .aborted, reason := r }
  if n = 0 then (s.countAbort code).raise evChangeoverAbort else s.raise evSchedLate

/-- Entry `n` at a boundary whose start time is `start`: fired (true), aborted or left pending (R60-R64). W·P is taken with the
period of the layout that is active as the entry is evaluated: at a changeover boundary entries 1 to 15 see the new one (DESIGN
CHOICE, log 160). -/
def State.evalSched (n : Fin 16) (start : Nat) (s : State) : Bool × State :=
  let e := s.tb.sched[n]
  if e.st ≠ .pending then (false, s)
  else
    let t := e.targetTime
    let late := !e.stroke && decide (t + s.tb.regs.lateWin.toNat * s.lo.periodQ ≤ start)
    let due := if e.stroke then decide (e.targetStroke = s.tb.stroke.count) else decide (t ≤ start)
    if late then (false, s.lateSched n .late 1)
    else if !due then (false, s)
    else if e.needSync && decide (s.tb.sync.st ≠ .synced) then (false, s.lateSched n .unsynced 2)
    else (true, s.modSched n fun e => { e with st := .fired })

/-! PPS (R81-R83). -/

/-- A rising edge at PPS_IN_n. -/
def execPpsCapture (n : Fin 2) (s : State) : Host.Outcome State Fault Refusal :=
  let c := s.tb.cap[n]
  if c.en then
    let c' := { c with time := s.time, valid := true, rep := false, ovr := if c.valid then satInc c.ovr else c.ovr }
    .next ((s.modTb fun t => { t with cap := vset t.cap n c' }).raise evPpsCapture)
  else .next s

/-- The first time at or after `now` that is `off` past a multiple of `m`. -/
def nextAt (now off m : Nat) : Nat := (now - off % m + m - 1) / m * m + off % m

/-- A pulse in PPS mode is due at the first whole second plus OFFSET that has not had its pulse and lies less than 2 ns back, or
ahead (R82). -/
def PpsOut.nextSecond (o : PpsOut) (now : Nat) : Nat :=
  let off := 32 * o.offset.toNat
  let t := nextAt (now - 7) off 4000000000
  if o.last = some t then nextAt (t + 1) off 4000000000 else t

/-- A pulse in STROKE mode: the first stroke start whose pulse has not risen and is not 2 ns late or more (R82). -/
def PpsOut.nextStart (o : PpsOut) (now : Nat) : Option Nat :=
  o.starts.find? fun t => decide (now < t + 32 * o.offset.toNat + 8)

/-- PPS_OUT_n is held low (R83). -/
def State.ppsQuiet (s : State) (n : Fin 2) : Bool := s.tb.pps[n].quiet && decide (s.tb.sync.st = .unsynced)

/-- PPS_OUT_n is driven high: in a pulse, but not while R83 keeps it low, a pulse in progress included, nor while bank A is unfed (23
R830). -/
def State.ppsHigh (s : State) (n : Fin 2) : Bool :=
  decide (s.tb.clk.cycles < s.tb.pps[n].hiUntil) && !s.ppsQuiet n && !s.floats 0

/-- PPS_OUT_n rises for the pulse of time `t`; in STROKE mode that of stroke start `st`. -/
def State.pulseAt (n : Fin 2) (t : Nat) (st : Option Nat) (s : State) : State :=
  let s := s.modTb fun b => { b with pps := vmod b.pps n fun o =>
    { o with hiUntil := b.clk.cycles + 4 * max 1 o.width.toNat, last := some t,
             starts := match st with
               | some x => (o.starts.dropWhile (· != x)).tail
               | none => o.starts } }
  if s.floats 0 then s else { s with sent := .pulse n :: s.sent }

/-- A pulse of PPS_OUT_n: at the next whole second or at a stroke's start, plus OFFSET, which may reach past that stroke's end
(R82, R83). -/
def execPpsPulse (n : Fin 2) (s : State) : Host.Outcome State Fault Refusal :=
  let o := s.tb.pps[n]
  if s.ppsQuiet n then .next s
  else if o.mode = 1 then .next (s.whenTime (o.nextSecond s.qns) (·.pulseAt n (o.nextSecond s.qns) none))
  else if o.mode = 2 then
    match o.nextStart s.qns with
    | some st => .next (s.whenTime (st + 32 * o.offset.toNat) (·.pulseAt n (st + 32 * o.offset.toNat) (some st)))
    | none => .next s
  else .next s

/-- A stroke start whose STROKE-mode pulse may still be to come: OFFSET reaches at most 65,535 units of 8 ns. -/
def PpsOut.begun (start : Nat) (o : PpsOut) : PpsOut :=
  { o with starts := (o.starts.filter fun t => decide (start < t + 32 * 65536)) ++ [start] }

/-! SBU (03). -/

/-- SBU.CTRL.CLR_CNT clears every counter of SBU.CNT_n (03, SBU.CTRL); a Hewer does not reach the block. -/
def State.clearSbu (s : State) : State := s.modSbu fun b => { b with cnt := Vector.replicate 64 ActCounters.reset }

def execSbuCounterClear (a : Agent) (s : State) : Host.Outcome State Fault Refusal :=
  let s := s.paid a
  .next (if s.reaches a then s.clearSbu else s)

end Sys2Proof.Machine
end

