-- ==== Sys2Proof/Machine/Gallery.lean ====
section
/-! DEFINITION. The Gallery (10): views, swaps, requests, leases and the host's Window B. -/

namespace Sys2Proof.Machine

/-- `n` entries from `src` on copied to `dst` on, keeping the canonical form. -/
def memCopy {α : Type} (m : Mem α) (src dst n : Nat) : Mem α :=
  (m.filter fun e => decide (src ≤ e.1 ∧ e.1 < src + n)).foldl (fun t e => memPut (e.1 - src + dst) e.2 t) (memClear m dst n)

/-! Views (R377, R378). -/

/-- The frame a party sees at logical page `p` of group `r`: the write view or the settled view (10, view table). -/
def GroupRec.viewFrame (r : GroupRec) (code : BitVec 5) (p : Nat) : Nat :=
  let i := p - r.first
  let own := code.toNat == r.owner
  let host := code == 17
  let settled :=
    if r.hostDirect then false
    else if r.type == 2 then host
    else !own
  if settled then r.frame + r.npages + i else r.frame + i

/-- The frame address an agent reads logical word `w` at; none where no group maps its page. -/
def State.galAddr (s : State) (code : BitVec 5) (w : Nat) : Option Nat :=
  (s.lo.grpOfPage (w / 512)).map fun r => 512 * r.viewFrame code (w / 512) + w % 512

/-- An uncorrectable error met at a frame address (R376). -/
def State.eccFail (a : Nat) (s : State) : State :=
  (s.modGal fun g => { g with eccFail := satInc g.eccFail, eccFrame := BitVec.ofNat 9 (a / 512) }).raise evMemEccFail

/-- A corrected error (R376). -/
def State.eccFix (s : State) : State := (s.modGal fun g => { g with eccFix := satInc g.eccFix }).raise evMemEccFix

/-- The word at frame address `a` read: a single-bit error is corrected, in the memory too, an uncorrectable one reads zero and
stays until the word's next write (R376, log 152). -/
def State.galFrameRead (a : Nat) (s : State) : Word × State :=
  match memRead none s.gal.flaws a with
  | some true => (0, s.eccFail a)
  | some false => (memRead 0 s.gal.mem a, (s.modGal fun g => { g with flaws := memWrite none g.flaws a none }).eccFix)
  | none => (memRead 0 s.gal.mem a, s)

/-- Logical word `w` as an agent reads it; an unmapped page reads zero (R376-R378). -/
def State.galRead (code : BitVec 5) (w : Nat) (s : State) : Word × State :=
  match s.galAddr code w with
  | none => (0, s)
  | some a => s.galFrameRead a

/-- A foreign write: discarded, counted, raised (R378)
 -/
def State.foreignWrite (code : BitVec 5) (w : Nat) (s : State) : State :=
  let c := s.gal.forCount
  let s := s.modGal fun g =>
    { g with forCount := satInc g.forCount, forAgent := code, forPage := BitVec.ofNat 9 (w / 512) }
  (s.satEvent c 1).raise evForeignWrite

/-- A frame word written: it is whole again (R376). -/
def Gallery.put (a : Nat) (v : Word) (g : Gallery) : Gallery :=
  { g with mem := memWrite 0 g.mem a v, flaws := memWrite none g.flaws a none }

/-- Group `r` has swapped in the running core cycle, at once. -/
def State.swapsNow (s : State) (r : GroupRec) : Bool :=
  s.gal.grp[(ix 128 r.group)].swapCyc == some s.tb.clk.cycles && !bit s.gal.waiting r.group

/-- Word `w` of the write view takes the bits of `v` that `mask` names; only the owner writes (R378, R400). A merge of part of a word
reads it (R376). A write in the core cycle of a swap is in the new settled view too (R388). -/
def State.galWrite (code : BitVec 5) (w : Nat) (mask v : Word) (s : State) : State :=
  match s.lo.grpOfPage (w / 512) with
  | none => s.foreignWrite code w
  | some r =>
    if code.toNat = r.owner then
      let a := 512 * (r.frame + (w / 512 - r.first)) + w % 512
      let (old, s) := if mask = BitVec.allOnes 20 then (0, s) else s.galFrameRead a
      let x := (old &&& ~~~mask) ||| (v &&& mask)
      let s := s.modGal (·.put a x)
      if s.swapsNow r then s.modGal (·.put (a + 512 * r.npages) x) else s
    else s.foreignWrite code w

/-! Swaps (R383-R389, R392, R393, R402). -/

def State.modGrp (g : Fin 128) (f : GroupState → GroupState) (s : State) : State :=
  s.modGal fun x => { x with grp := vmod x.grp g f }

/-- The settled view takes the write view's words (R383). -/
def Gallery.publish (r : GroupRec) (g : Gallery) : Gallery :=
  { g with mem := memCopy g.mem (512 * r.frame) (512 * (r.frame + r.npages)) (512 * r.npages),
           flaws := memCopy g.flaws (512 * r.frame) (512 * (r.frame + r.npages)) (512 * r.npages),
           settled := setBit g.settled r.group true }

/-- The owning Hewer is in a state in which its groups do not swap (R387). -/
def State.ownerStopped (s : State) (r : GroupRec) : Bool :=
  if r.owner < 16 then
    let st := s.hw[(ix 16 r.owner)].st
    st == .halted || st == .faulted || st == .loading || st == .stopped
  else false

/-- Lease slots held on group `g`. -/
def Gallery.leases (x : Gallery) (g : Nat) : List (Fin 16) :=
  (List.finRange 16).filter fun i => x.lease[i].held && x.lease[i].grp.toNat == g

/-- Lease slots that a settle point of group `g` in core cycle `now` finds: one acquired in that cycle counts after it (R395). -/
def Gallery.leasesAt (x : Gallery) (now g : Nat) : List (Fin 16) := (x.leases g).filter fun i => x.lease[i].since != some now

/-- Every slot that names group `g` loses its lease (R393). -/
def Gallery.breakLeases (g : Nat) (x : Gallery) : Gallery :=
  { x with lease := x.lease.map fun l => if l.held && l.grp.toNat == g then { l with held := false, broken := true } else l }

/-- The outcome of a group's settle point: whether it swaps (R384-R387, R392, R393). -/
def State.judgeSettle (r : GroupRec) (s : State) : Bool × State :=
  let g : Fin 128 := ix 128 r.group
  if r.hostDirect then (false, s)
  else if s.ownerStopped r then (false, s.modGrp g fun x => { x with stop := true })
  else
    let s := s.modGrp g fun x => { x with stop := false }
    if r.req && !s.gal.grp[g].req then (false, s)
    else
      let now := s.tb.clk.cycles
      let slots := s.gal.leasesAt now r.group
      let limit := if r.lease2 then 2 else 1
      if slots.isEmpty then (true, s)
      else if slots.any fun i => decide (limit ≤ s.gal.lease[i].defers) then
        (true, (s.modGal fun x => x.breakLeases r.group).raise evLeaseBroken)
      else
        let s := s.modGal fun x =>
          { x with lease := x.lease.map fun l =>
              if l.held && l.grp.toNat == r.group && l.since != some now then { l with defers := l.defers + 1 } else l }
        (false, s.modGrp g fun x => { x with deferred := satInc x.deferred, deferCyc := some now })

/-- A swap that has been allowed: at once, or, where a host read runs, after it (R389, R402). -/
def State.takeSwap (reading : Bool) (r : GroupRec) (s : State) : State :=
  let n := fld s.tb.stroke.count 0 20
  let s := s.modGrp (ix 128 r.group) fun x => { x with req := false, deferred := 0, stroke := n, swapCyc := some s.tb.clk.cycles }
  if reading then s.modGal fun x => { x with waiting := setBit x.waiting r.group true } else s.modGal (·.publish r)

/-- SETTLE_DONE, once in a core cycle (R389). -/
def State.settleDone (s : State) : State :=
  if s.gal.doneCyc = some s.tb.clk.cycles then s
  else (s.modGal fun x => { x with doneCyc := some s.tb.clk.cycles }).raise evSettleDone

/-- The settle points of several groups in one core cycle, SETTLE_DONE once (R389). -/
def State.settle (rs : List GroupRec) (reading : BitVec 128) (s : State) : State :=
  let (done, s) := rs.foldl (fun (p : Bool × State) r =>
    let s := p.2.modTb fun t => { t with stroke := { t.stroke with settled := setBit t.stroke.settled r.group true } }
    let (sw, s) := s.judgeSettle r
    if sw then
      let busy := bit reading r.group
      (p.1 || (r.evt && !busy), s.takeSwap busy r)
    else (p.1, s)) (false, s)
  if done then s.settleDone else s

/-- Groups not yet settled in this stroke. -/
def State.unsettled (s : State) : List GroupRec := s.lo.groups.filter fun r => !bit s.tb.stroke.settled r.group

/-- Core cycles of stroke-relative time that a hinge covers: settle points inside it wait for its end (04 R176). -/
def hingeCycles : Nat := 1000

/-- Group `g` reaches its settle point, with every group that settles in the same cycle (R384). `reading` names the groups
inside a host read request (R402). -/
def execSettlePoint (g : Fin 128) (reading : BitVec 128) (s : State) : Host.Outcome State Fault Refusal :=
  match s.lo.grp g.val with
  | none => .next s
  | some r =>
    let t := 4 * s.lo.settleAt r
    let k := s.tb.stroke.cyc0 + t
    if s.tb.stroke.running && !bit s.tb.stroke.settled g.val && !(s.plans.hinge.active && decide (t < hingeCycles))
        && s.beforeEnd k then
      let s := s.runToCycle k
      .next (s.settle (s.unsettled.filter fun q => s.lo.settleAt q == s.lo.settleAt r) reading)
    else .next s

/-- Swaps that waited for a host read take place (R402). -/
def execDeferredSwap (s : State) : Host.Outcome State Fault Refusal :=
  let rs := s.lo.groups.filter fun r => bit s.gal.waiting r.group
  let s := s.modGal fun x => rs.foldl (fun x r => x.publish r) { x with waiting := 0 }
  .next (if rs.any (·.evt) then s.settleDone else s)

/-- A swap request and its result (R385, R386). -/
def State.swapReq (code : BitVec 5) (g : Nat) (s : State) : BitVec 2 × State :=
  match s.lo.grp g with
  | none => (2, s)
  | some r =>
    if code.toNat ≠ r.owner then (1, s)
    else if r.hostDirect then (2, s)
    else if !r.req then (0, s)
    else
      let i : Fin 128 := ix 128 g
      if s.gal.grp[i].req then (3, s) else (0, s.modGrp i fun x => { x with req := true })

/-- A swap request through GAL.SWAP_REQ or the Warden's SWAP_REQ; a Hewer requests with PSWAP (R385). -/
def execSwapRequest (a : Agent) (g : Fin 128) (s : State) : Host.Outcome State Fault Refusal :=
  let s := s.paid a
  let (r, s) := s.swapReq (agentCode a) g.val
  .next (match a with
    | .host => s.modGal fun x => { x with swapRes := r }
    | .warden => s.modWdn fun w => { w with swapRes := r }
    | .hewer _ => s)

/-! Leases (R390, R391, R394). -/

/-- Slot `i` may be acquired: its group is mapped and has a settled view. -/
def State.leasable (s : State) (l : Lease) : Bool :=
  match s.lo.grp l.grp.toNat with
  | some r => !r.hostDirect
  | none => false

/-- LEASE_CTRL.ACQUIRE (R390). -/
def State.acquire (mask : BitVec 16) (s : State) : State :=
  s.modGal fun x =>
    { x with lease := Vector.ofFn fun i : Fin 16 =>
        let l := x.lease[i]
        if bit mask i.val && !l.held && s.leasable l then { l with held := true, defers := 0, since := some s.tb.clk.cycles }
        else l }

/-- Groups whose swap a settle point of the running core cycle deferred for leases that are all released now: they swap after all
(R395). -/
def State.releasedNow (s : State) : List GroupRec :=
  s.lo.groups.filter fun r =>
    s.gal.grp[(ix 128 r.group)].deferCyc == some s.tb.clk.cycles && (s.gal.leasesAt s.tb.clk.cycles r.group).isEmpty

/-- LEASE_CTRL.RELEASE (R394): a group that no slot holds any more has nothing deferred. In the core cycle of the group's settle point
it takes effect before it (R395). -/
def State.release (mask : BitVec 16) (s : State) : State :=
  let s := s.modGal fun x =>
    { x with lease := Vector.ofFn fun i : Fin 16 => if bit mask i.val then { x.lease[i] with held := false } else x.lease[i] }
  let rs := s.releasedNow
  let s := rs.foldl (fun s r => (s.takeSwap false r).modGrp (ix 128 r.group) fun x => { x with deferCyc := none }) s
  let s := if rs.any (·.evt) then s.settleDone else s
  s.modGal fun x =>
    { x with grp := Vector.ofFn fun g : Fin 128 => if (x.leases g.val).isEmpty then { x.grp[g] with deferred := 0 } else x.grp[g] }

def execLeaseAcquire (mask : BitVec 16) (s : State) : Host.Outcome State Fault Refusal :=
  let s := s.paid .host
  .next (if !s.hostWorks then s else s.acquire mask)

def execLeaseRelease (mask : BitVec 16) (s : State) : Host.Outcome State Fault Refusal :=
  let s := s.paid .host
  .next (if !s.hostWorks then s else s.release mask)

/-! Window B (R398-R403). -/

/-- The 2 MiB of Window B: 1 MiB unpacked, 640 KiB packed, the rest reserved. -/
def unpackedEnd : Nat := 0x100000
def packedEnd : Nat := 0x1A0000

/-- The bits an octet of Window B stands for: logical word and bit, none beyond the word's 20 bits (R398, R399). -/
def windowBBit (addr b : Nat) : Nat × Nat :=
  if addr < unpackedEnd then (addr / 4, 8 * (addr % 4) + b)
  else ((8 * (addr - unpackedEnd) + b) / 20, (8 * (addr - unpackedEnd) + b) % 20)

/-- Words that octet `addr` touches (R401). -/
def windowBWords (addr : Nat) : List Nat :=
  if addr < packedEnd then ((List.range 8).map fun b => (windowBBit addr b).1).eraseDups else []

/-- The words a run of octets touches, in ascending order. -/
def windowBTouched (addr n : Nat) : List Nat := ((List.range n).flatMap fun i => windowBWords (addr + i)).eraseDups

/-- An error has come about in the frame word at `a`: a single-bit one, or an uncorrectable one, which stays so (R376). -/
def Gallery.flaw (e : Nat × Bool) (g : Gallery) : Gallery :=
  if e.1 < 262144 then { g with flaws := memWrite none g.flaws e.1 (some (e.2 || memRead none g.flaws e.1 == some true)) } else g

/-- Words read by the host. -/
def State.galFetch : List Nat → State → List (Nat × Word) × State
  | [], s => ([], s)
  | w :: ws, s =>
    let (v, s) := (s.hostBeat .gal).galRead 17 w
    let (rest, s) := s.galFetch ws
    ((w, v) :: rest, s)

/-- Bit `b` of the octet at `addr`, out of the words read; above bit 19 of the unpacked view the sign or zero (R398). -/
def windowBOctet (L : Layout) (ws : List (Nat × Word)) (addr : Nat) : Octet :=
  (List.range 8).foldl (fun o b =>
    let (w, k) := windowBBit addr b
    match ws.find? fun e => e.1 == w with
    | none => o
    | some (_, v) =>
      let sign := match L.grpOfPage (w / 512) with
        | some r => r.signed && bit v 19
        | none => false
      setBit o b (if k < 20 then bit v k else sign)) 0

/-- A host read of `count` octets of Window B (R398, R399, R401, R402). Its operand `flaws` brings the errors that have come about in frame
words since the last one (word, uncorrectable): whoever reads such a word next meets its error (R376; log 152). -/
def execHostGalleryRead (addr count : Nat) (flaws : List (Nat × Bool)) (s : State) : Host.Outcome State Fault Refusal :=
  if !s.hostWorks then .next s
  else
    let (ws, s) := (s.modGal fun g => flaws.foldl (fun g e => g.flaw e) g).galFetch (windowBTouched addr count)
    .next { s with rd := (List.range count).map fun i => (windowBOctet s.lo ws (addr + i)).setWidth 32 }

/-- The mask and value that a run of octets writes into word `w`. -/
def windowBWrite (addr : Nat) (octets : List (Option Octet)) (w : Nat) : Word × Word :=
  ((List.range octets.length).zip octets).foldl (fun (p : Word × Word) e =>
    match e.2 with
    | none => p
    | some o =>
      (List.range 8).foldl (fun (p : Word × Word) b =>
        let (u, k) := windowBBit (addr + e.1) b
        if u = w ∧ k < 20 ∧ addr + e.1 < packedEnd then (setBit p.1 k true, setBit p.2 k (bit o b)) else p) p) (0, 0)

/-- Words that enabled octets touch. -/
def windowBEnabled (addr : Nat) (octets : List (Option Octet)) : List Nat :=
  (((List.range octets.length).zip octets).flatMap fun e => if e.2.isSome then windowBWords (addr + e.1) else []).eraseDups

/-- A host write to Window B: one beat a word, bits merged (R400, R401, R403). -/
def State.galStore (addr : Nat) (octets : List (Option Octet)) (s : State) : State :=
  (windowBEnabled addr octets).foldl (fun s w =>
    let s := s.hostBeat .gal
    let (m, v) := windowBWrite addr octets w
    if m = 0 then s else s.galWrite 17 w m v) s

def execHostGalleryWrite (addr : Nat) (octets : List (Option Octet)) (s : State) : Host.Outcome State Fault Refusal :=
  .next (if !s.hostWorks then s else s.galStore addr octets)

/-! Changeover and reset (04 R174, R175; R404, R405). -/

/-- The five words of a group's record. -/
def Layout.grpWords (L : Layout) (g : Nat) : List Word :=
  match L.grpRec g with
  | some i => (List.range 5).map fun k => L.word 5 0 (i + k)
  | none => []

/-- Group `g` has an identical entry in both layouts (04 R174). -/
def keptGroup (old new : Layout) (g : Nat) : Bool := (old.grp g).isSome && old.grpWords g == new.grpWords g

/-- The page map changes from `old` to `new`: other groups are cleared, their leases broken (04 R174, R175). -/
def State.remap (old new : Layout) (s : State) : State :=
  let gone := new.groups.filter fun r => !keptGroup old new r.group
  let s := s.modGal fun x =>
    let clear (m : Mem Word) := gone.foldl (fun m r => memClear m (512 * r.frame) (512 * r.frames)) m
    let clearF (m : Mem (Option Bool)) := gone.foldl (fun m r => memClear m (512 * r.frame) (512 * r.frames)) m
    let w := (List.range 128).foldl (fun w g => if keptGroup old new g then w else setBit w g false) x.waiting
    { x with mem := clear x.mem, flaws := clearF x.flaws, waiting := w }
  (List.finRange 16).foldl (fun s i =>
    let l := s.gal.lease[i]
    if l.held && !keptGroup old new l.grp.toNat then
      (s.modGal fun x => { x with lease := vset x.lease i { l with held := false, broken := true } }).raise evLeaseBroken
    else s) s

/-- Frames of bank `b` are cleared (R404). -/
def Gallery.clearBank (b : Nat) (g : Gallery) : Gallery :=
  { g with mem := memClear g.mem (131072 * b) 131072, flaws := memClear g.flaws (131072 * b) 131072 }

/-- What an H reset does to leases and requests (R405; 10, Reset columns). -/
def State.galHReset (s : State) : State :=
  s.modGal fun x =>
    { x with lease := Vector.replicate 16 Lease.reset,
             grp := Vector.ofFn fun g : Fin 128 =>
               let q := { x.grp[g] with deferred := 0 }
               match s.lo.grp g.val with
               | some r => if r.owner = 17 then { q with req := false } else q
               | none => q,
             settled := 0, swapRes := 0 }

end Sys2Proof.Machine
end

