-- ==== Sys2Proof/Machine/HewerOps.lean ====
section
/-! DEFINITION. Operations on a Hewer that other units cause: verdicts on its commit queue and tags (06 R243, 08
R318-R324) and the release of its semaphores (05 R200). -/

namespace Sys2Proof.Machine

/-- A local memory with every green tag cleared (06 R243). -/
def clearGreen (m : Mem TWord) : Mem TWord :=
  m.filterMap fun e => if e.2.val = 0 then none else some (e.1, { e.2 with green := false })

/-- Every register tag, memory tag, G and CTL_GREEN cleared (06 R243). -/
def Hewer.clearTags (h : Hewer) : Hewer :=
  { h with bankA := clearGreen h.bankA, bankB := clearGreen h.bankB,
           eng := { h.eng with core := { h.eng.core with tag := 0, ctlG := false,
                                                         fl := { h.eng.core.fl with g := false } } } }

/-- A discarded entry's beat goes back when it was charged in this stroke (03 R121). -/
def State.refund (n : Fin 16) (e : CqEntry) (s : State) : State :=
  if e.stroke = s.tb.stroke.count then s.giveBack (actHewer n) e.src else s

/-- A verdict resolves the commit queue of Hewer `n` (08 R318, R321); an entry resolved is green no longer (08 R311). -/
def State.resolveCq (n : Fin 16) (good : Bool) (s : State) : State :=
  let q := s.hw[n].cq
  if good then s.modHw n fun h => { h with cq := h.cq.map fun e => { e with commit := true, green := false } }
  else
    let gone := q.filter fun e => e.green && !e.commit
    let keep := (q.filter fun e => !(e.green && !e.commit)).map fun e => { e with commit := true }
    let s := s.modHw n fun h => { h with cq := keep }
    let s := gone.foldl (fun s e => s.refund n e) s
    let c := s.hw[n].regs.cqDiscard
    (s.modRegs n fun r => { r with cqDiscard := satAdd r.cqDiscard gone.length }).satEvent c gone.length

/-- The head frame's verdict reaches Hewer `n` (06 R243, 08 R318, 05 LSRC 1). -/
def State.verdictAt (n : Fin 16) (good : Bool) (s : State) : State :=
  ((s.resolveCq n good).modHw n (·.clearTags)).lsrc n 1

/-- HWC.GL counts a stomped green-launched frame (08 R335, R342). -/
def State.glStomp (n : Fin 16) (s : State) : State :=
  let c := s.hw[n].regs.glStomp
  (s.modRegs n fun r => { r with glStomp := satInc r.glStomp }).satEvent c 1

/-- HWC.GL counts a bound frame dropped (08 R337). -/
def State.glDrop (n : Fin 16) (s : State) : State :=
  let c := s.hw[n].regs.glDrop
  (s.modRegs n fun r => { r with glDrop := satInc r.glDrop }).satEvent c 1

/-- HWC.ACC_CNT counts (05). -/
def State.accCount (n : Fin 16) (s : State) : State :=
  let c := s.hw[n].regs.accCnt
  (s.modRegs n fun r => { r with accCnt := satInc r.accCnt }).satEvent c 1

/-- Every semaphore that `owner` holds becomes free with ORPHAN (05 R200). -/
def State.orphanSems (owner : BitVec 5) (s : State) : State :=
  { s with sem := s.sem.map fun x => if x.held && x.owner == owner then { x with held := false, orphan := true } else x }

/-! The Loft and its semaphores (05 R194-R200). -/

/-- The bank of Loft word `w` is powered: islands 20 to 23 (05, Loft access). -/
def State.loftOn (s : State) (w : Nat) : Bool := s.islandOn (20 + w / 131072)

/-- Loft word `w`; in an unpowered bank an open value. -/
def State.loftRead (w : Nat) (s : State) : Word × State :=
  if s.loftOn w then (memRead 0 s.loft w, s) else (s.freeVal 20, s.drawn)

/-- Loft word `w` written. -/
def State.loftWrite (w : Nat) (v : Word) (s : State) : State :=
  if s.loftOn w then { s with loft := memWrite 0 s.loft w v } else s

/-- One atomic take by `owner` (05 R196): the result word, and the semaphore after it. -/
def State.semTake (owner : BitVec 5) (k : Fin 64) (s : State) : Word × State :=
  let x := s.sem[k]
  if !s.islandOn 20 then (s.freeVal 20 &&& 0xE001F, s.drawn)
  else if x.held then ((1#1 ++ bool 1 x.orphan ++ 0#13 ++ x.owner : BitVec 20), s)
  else
    ((1#1 ++ bool 1 x.orphan ++ 1#1 ++ 0#12 ++ owner : BitVec 20),
      { s with sem := vset s.sem k { held := true, orphan := false, owner := owner } })

/-- A release: by the owner it frees the semaphore; a foreign one is counted at the Hewer that tried it (05 R198, R199). -/
def State.semRelease (owner : BitVec 5) (k : Fin 64) (s : State) : State :=
  let x := s.sem[k]
  if x.held ∧ x.owner = owner then { s with sem := vset s.sem k { x with held := false } }
  else if owner.toNat < 16 then
    let n : Fin 16 := ix 16 owner.toNat
    let c := s.hw[n].regs.semCnt
    (s.modRegs n fun r => { r with semCnt := satInc r.semCnt }).satEvent c 1
  else s

/-- The images' memory: low half first (05 R185). -/
def Hewer.word (h : Hewer) (a : Nat) : TWord :=
  let low := a < 16384
  let i := a % 16384
  if low = !h.bank then memRead TWord.zero h.bankA i else memRead TWord.zero h.bankB i

/-- A word of local memory as instruction fetch sees it (06 R250). -/
def Hewer.fetchWord (h : Hewer) (a : Nat) : TWord :=
  match h.unseen.find? fun e => e.1 == a with
  | some (_, v) => v
  | none => h.word a

/-- A word of local memory written (05 R185). -/
def Hewer.setLocal (a : Nat) (v : TWord) (h : Hewer) : Hewer :=
  let low := a < 16384
  let i := a % 16384
  if low = !h.bank then { h with bankA := memWrite TWord.zero h.bankA i v }
  else { h with bankB := memWrite TWord.zero h.bankB i v }

end Sys2Proof.Machine
end

