-- ==== Sys2Proof/Machine/Net.lean ====
section
/-! DEFINITION. The Landing's shared operations (12): cells, descriptors, queues, admission, Tally, taps, the learning
table and 802.1CB histories. -/

namespace Sys2Proof.Machine

def State.modLnd (f : Lnd → Lnd) (s : State) : State := { s with lnd := f s.lnd }
def State.modEth (f : Eth → Eth) (s : State) : State := { s with eth := f s.eth }
def State.modPort (p : Fin 6) (f : EthPort → EthPort) (s : State) : State :=
  s.modEth fun e => { e with port := vmod e.port p f }
def State.modGrd (f : Grd → Grd) (s : State) : State := { s with grd := f s.grd }

/-! Frames. -/

def Lnd.frame? (l : Lnd) (id : Nat) : Option Frame := l.frames.find? fun f => f.id == id
def State.frame? (s : State) (id : Nat) : Option Frame := s.lnd.frame? id
def State.modFrame (id : Nat) (f : Frame → Frame) (s : State) : State :=
  s.modLnd fun l => { l with frames := l.frames.map fun x => if x.id == id then f x else x }

/-- A frame's verdict is GOOD. -/
def Frame.good (f : Frame) : Bool := match f.verdict with
  | some v => bit v 0
  | none => false

/-- The layout a frame goes by: its SOF came before the last changeover, or not (04 R170). -/
def State.loOf (s : State) (f : Frame) : Layout := if f.old then s.lnd.prev.getD s.lo else s.lo

/-! Line times. -/

/-- Octet time of a LINK.SPEED code, in fifths of a nanosecond. -/
def octTime (speed : BitVec 3) : Nat :=
  match speed.toNat with
  | 1 => 4000
  | 2 => 400
  | 3 => 40
  | _ => 16

/-- Octets from the destination address on that a transmission has sent, the one in progress included (08 R876). -/
def State.octetsSent (s : State) (p : Fin 6) (x : TxActive) : Nat :=
  let t := octTime s.eth.port[p].link.speed
  (5 * (s.qns - x.start) / 4) / t + 1 - 8

/-! Cells (R440, R455-R457). -/

/-- Cells of frame `f` that the consumer of queue `q` has read: a port those whose octets it has sent, all once the frame is
stomped; a tap, the host port and the Warden port read none before they release the frame (log 163). -/
def State.cellsRead (s : State) (q : Fin 80) (f : Frame) : Nat :=
  if h : q.val / 8 < 6 then
    match s.eth.port[(⟨q.val / 8, h⟩ : Fin 6)].tx with
    | some x =>
      if x.frame = f.id ∧ x.queue = q.val then
        (if x.stomp.isSome then f.chain.length else min f.chain.length ((s.octetsSent ⟨q.val / 8, h⟩ x - 1) / 128))
      else 0
    | none => 0
  else 0

/-- LEN(q) (R456). -/
def State.qLen (s : State) (q : Fin 80) : Nat :=
  (s.lnd.queue[q].map fun id => match s.frame? id with
    | some f => f.chain.length - s.cellsRead q f
    | none => 0).foldl (· + ·) 0

/-- Cells of a frame that some consumer has still to read; all while no queue holds it (R457). -/
def State.liveCells (s : State) (f : Frame) : List (BitVec 14) :=
  match ((List.finRange 80).filter fun q => s.lnd.queue[q].contains f.id).map fun q => s.cellsRead q f with
  | [] => f.chain
  | k :: ks => f.chain.drop (ks.foldl min k)

/-- Cells that hold frames. -/
def State.usedCells (s : State) : List (BitVec 14) := s.lnd.frames.flatMap s.liveCells
/-- FREE (R440). -/
def State.freeCells (s : State) : Nat := 16384 - s.usedCells.length
/-- Free descriptors (R442). -/
def Lnd.descFree (l : Lnd) : Nat := 8192 - l.frames.length

/-- FREE has changed: the lowest value, and BUFFER_LOW (R458). -/
def State.bufferNote (s : State) : State :=
  let free := s.freeCells
  let s := s.modLnd fun l => { l with min := if free < l.min.toNat then BitVec.ofNat 15 free else l.min }
  if s.lnd.armed && decide (free < s.lnd.low.toNat) then
    (s.modLnd fun l => { l with armed := false }).raise evBufferLow
  else if !s.lnd.armed && decide (2 * s.lnd.low.toNat ≤ free) then s.modLnd fun l => { l with armed := true }
  else s

/-- The first cell at or after `c`, cyclically, that `used` does not hold. -/
def freeCell (used : List (BitVec 14)) (c : BitVec 14) : Option (BitVec 14) :=
  (List.range 16384).findSome? fun k =>
    let x := c + BitVec.ofNat 14 k
    if used.contains x then none else some x

/-- `n` more cells chained to frame `id`, each chosen by a free value; false where a cell is missing (R441, R453, R455). -/
def State.chainCells (id : Nat) : Nat → State → Bool × State
  | 0, s => (true, s)
  | n + 1, s =>
    if s.freeCells = 0 then (false, s)
    else
      match freeCell s.usedCells (s.freeVal 14) with
      | none => (false, s)
      | some c => State.chainCells id n (s.drawn.modFrame id fun f => { f with chain := f.chain ++ [c] })

/-- A frame with nothing decided about it. -/
def Frame.blank (id src : Nat) (octets : List Octet) : Frame :=
  { id := id, src := src, orig := none, octets := octets, fcs := [], arrived := 0, eof := false, chain := [],
    rxLen := octets.length, errs := 0, stamp := 0, rel := 0, verdict := none, uncounted := false, old := false, graded := none,
    decided := false, cls := 0, tc := 0, win := none, early := false, late := false, macDrop := none, ltHit := none, vid := 0,
    refused := false, mirrorRefused := false, onGood := [], wait := .none, frer := none, tsTap := none, seqs := [],
    desc := none, launch := none, bound := none, stomped := false, deferred := [], held := [] }

/-- Cells that `n` stored octets take. -/
def cellsOf (n : Nat) : Nat := (n + 127) / 128

/-! Tally (11 R435). -/

/-- Counter `i` of port `p` counts `k` more. -/
def State.tally (p : Fin 6) (i k : Nat) (s : State) : State :=
  let j : Fin 64 := ix 64 i
  let c := s.eth.port[p].tally.live[j]
  (s.modPort p fun x => { x with tally := { x.tally with live := vset x.tally.live j (satAdd c k) } }).satEvent c k

/-- Counter `i` of the Landing counts once more. -/
def State.ltally (i : Nat) (s : State) : State :=
  let j : Fin 64 := ix 64 i
  let c := s.lnd.tally.live[j]
  (s.modLnd fun l => { l with tally := { l.tally with live := vset l.tally.live j (satInc c) } }).satEvent c 1

/-- Counter `i` of the Grader (13). -/
def State.gcount (i : Nat) (s : State) : State :=
  let j : Fin 9 := ix 9 i
  let c := s.grd.cnt[j]
  (s.modGrd fun g => { g with cnt := vset g.cnt j (satInc c) }).satEvent c 1

/-- What a frame causes at its GOOD verdict (08 R314). -/
def State.effect (e : GoodEffect) (s : State) : State :=
  match e with
  | .port p i => s.tally p i 1
  | .lnd i => s.ltally i
  | .grd i => s.gcount i
  | .event e => s.raise e

def State.addGood (id : Nat) (es : List GoodEffect) (s : State) : State :=
  s.modFrame id fun f => { f with onGood := f.onGood ++ es }

/-! Queues and consumers. -/

/-- The queue of switch port `p` in class `t`. -/
def portQ (p : SwPort) (t : Fin 8) : Fin 80 := ix 80 (8 * p.val + t.val)
/-- The queue of Hewer n's ingress tap. -/
def tapQ (n : Fin 16) : Fin 80 := ix 80 (64 + n.val)

/-- Frames that some queue still holds, or that are being received or built, or that a port is sending. -/
def State.inUse (s : State) (id : Nat) : Bool :=
  s.lnd.queue.toList.any (·.contains id)
    || s.eth.port.toList.any (fun p => p.rx.contains id || (match p.tx with | some x => x.frame == id | none => false))
    || s.hw.toList.any (fun h => h.tx.building == some id) || s.wdn.tx.building == some id

/-- TX_DONE at the tap that built a frame (05 LSRC 2); the Warden port has no such source. -/
def State.txDone (f : Frame) (s : State) : State := if 16 ≤ f.src ∧ f.eof then s.lsrc (ix 16 (f.src - 16)) 2 else s

/-- Cells of decided frames that no queue holds are freed, and frames that nothing uses leave (R454, R457). -/
def State.reap (s : State) : State :=
  let free (f : Frame) : Bool :=
    f.decided && f.wait == .none && !f.uncounted && (s.lnd.queue.toList.all fun q => (q.contains f.id) == false)
  let live (f : Frame) : Bool := s.inUse f.id || f.wait != .none || f.uncounted
  let gone := s.lnd.frames.filter fun f => !live f
  let s := s.modLnd fun l =>
    { l with frames := (l.frames.filter live).map fun f => if free f then { f with chain := [] } else f }
  (gone.foldl (fun s f => s.txDone f) s).bufferNote

/-- Frame `id` leaves queue `q` (R457, R460). -/
def State.leave (q : Fin 80) (id : Nat) (s : State) : State :=
  s.modLnd fun l =>
    let rest := l.queue[q].filter (· != id)
    { l with queue := vset l.queue q rest,
             deficit := if h : q.val < 64 then (if rest.isEmpty then vset l.deficit ⟨q.val, h⟩ 0 else l.deficit) else l.deficit }

/-- Frame `id` leaves every queue that `keep` does not name. -/
def State.leaveAll (id : Nat) (keep : Fin 80 → Bool) (s : State) : State :=
  (List.finRange 80).foldl (fun s q => if s.lnd.queue[q].contains id && !keep q then s.leave q id else s) s

/-- Σ max(0, RESERVE(q) − LEN(q)) (R453). -/
def State.reserved (s : State) : Nat :=
  ((List.finRange 80).map fun q => s.lo.reserve q.val - s.qLen q).foldl (· + ·) 0

/-- Queue `q` admits a frame of which `own` cells are stored (R453; the frame's own cells are in no queue yet and count as
free, as the chapter's worked case has it, log 20). -/
def State.admits (s : State) (q : Fin 80) (own : Nat) : Bool :=
  let L := s.lo
  let len := s.qLen q
  let res := L.reserve q.val
  let shared : Int := (s.freeCells + own : Nat) - (s.reserved : Nat)
  decide (len < res) || decide ((((len - res : Nat) : Int) * 64) < shared * 2 ^ L.alpha q.val)

/-! Taps. -/

/-- The head of Hewer n's ingress tap: the oldest frame not yet released (05 R201). A frame that waits for another's
verdict is not presented (R476). -/
def State.rxHead (s : State) (n : Fin 16) : Option Frame :=
  match s.lnd.queue[tapQ n] with
  | [] => none
  | id :: _ => match s.frame? id with
    | some f => if f.wait = .none then some f else none
    | none => none

/-- The frame at the head of the Warden port (R459). -/
def State.wardenHead (s : State) : Option Frame := match s.lnd.toWarden with
  | some id => s.frame? id
  | none => none

/-- The heads of the sixteen ingress taps. -/
def State.rxHeads (s : State) : Vector (Option Nat) 16 := Vector.ofFn fun n => (s.rxHead n).map (·.id)

/-- RX_SOF and, when the verdict is there already, RX_VERDICT, for a frame that has become head (05 LSRC, R871). -/
def State.newHead (n : Fin 16) (s : State) : State :=
  match s.rxHead n with
  | none => s
  | some f =>
    let s := s.lsrc n 0
    if f.verdict.isSome then s.lsrc n 1 else s

/-- The taps whose head is another frame than in `was` have a new head (R871). -/
def State.newHeads (was : Vector (Option Nat) 16) (s : State) : State :=
  (List.finRange 16).foldl (fun t n => if (s.rxHead n).map (·.id) = was[n] then t else t.newHead n) s

/-- The next RX_META sequence of tap `t` (0-15 Hewers, 16 the Warden port) given to frame `id` (05 RX_META). -/
def State.giveSeq (t : Fin 17) (id : Nat) (s : State) : State :=
  let k := s.lnd.rxSeq[t]
  (s.modLnd fun l => { l with rxSeq := vset l.rxSeq t (k + 1) }).modFrame id fun f => { f with seqs := f.seqs ++ [(t.val, k)] }

/-- Frame `id` joins queue `q` (R453). -/
def State.join (q : Fin 80) (id : Nat) (s : State) : State :=
  let was := s.lnd.queue[q]
  let s := s.modLnd fun l => { l with queue := vset l.queue q (was ++ [id]) }
  if 64 ≤ q.val then
    let n : Fin 16 := ix 16 (q.val - 64)
    let s := s.giveSeq (ix 17 n.val) id
    if was.isEmpty then s.newHead n else s
  else if 56 ≤ q.val then s.giveSeq 16 id
  else s

/-- The head frame of Hewer n's tap is released: its cells are freed and the next frame becomes head (05 R204). -/
def State.releaseHead (n : Fin 16) (s : State) : State :=
  match s.rxHead n with
  | none => s
  | some f => ((s.leave (tapQ n) f.id).reap).newHead n

/-- Words a consumer can read of a frame: those of its stored octets and, before EOF, of a FCS not yet trimmed (R873). -/
def Frame.rxWord (f : Frame) (i : Nat) : Word :=
  if f.eof then frameWord f.octets true i else frameWord (f.octets ++ f.fcs) false i

/-- Payload words a frame holds. -/
def Frame.words (f : Frame) : Nat := (f.octets.length + 1) / 2

/-! Timestamps returned to taps (11 R428, 13 R501). -/

/-- A timestamp control word and its four time words. -/
def tsWords (port : Nat) (seq : BitVec 8) (t : BitVec 80) : List Word :=
  ((1#1 ++ 1#3 ++ BitVec.ofNat 3 port ++ 1#1 ++ 0#4 ++ seq : BitVec 20)) :: (List.range 4).map (word80 t)

/-- A stamp for the TX_TSQ of a tap (0-15 Hewers, 16 the Warden port); a full queue loses it (R428). -/
def State.putStamp (tap : Nat) (p : Fin 6) (seq : BitVec 8) (t : BitVec 80) (s : State) : State :=
  let push (x : TxTap) : TxTap := { x with tsq := x.tsq ++ tsWords p.val seq t }
  let full := if tap < 16 then s.hw[(ix 16 tap)].tx.tsq.length ≥ 36 else s.wdn.tx.tsq.length ≥ 36
  if full then s.tally p 51 1
  else if tap < 16 then s.modHw (ix 16 tap) fun h => { h with tx := push h.tx }
  else s.modWdn fun w => { w with tx := push w.tx }

/-! The learning table (12 R468-R472). -/

/-- The bucket of a key (R468). -/
def ltBucket (mac : BitVec 48) (vid : BitVec 12) : Nat :=
  let m := ((List.range 6).map fun k => fld mac (40 - 8 * k) 8) ++ [fld (vid.setWidth 16) 8 8, fld vid 0 8]
  fldN (crc32 m) 0 11

def Lnd.lt (l : Lnd) (i : Nat) : Option LtEntry := memRead none l.table i
def Lnd.setLt (i : Nat) (e : Option LtEntry) (l : Lnd) : Lnd := { l with table := memWrite none l.table i e }

/-- The entry index that holds a key. -/
def Lnd.ltFind (l : Lnd) (mac : BitVec 48) (vid : BitVec 12) : Option Nat :=
  ((List.range 4).map fun w => 4 * ltBucket mac vid + w).find? fun i => match l.lt i with
    | some e => e.mac == mac && e.vid == vid
    | none => false

/-- A free way of a key's bucket. -/
def Lnd.ltFree (l : Lnd) (mac : BitVec 48) (vid : BitVec 12) : Option Nat :=
  ((List.range 4).map fun w => 4 * ltBucket mac vid + w).find? fun i => (l.lt i).isNone

/-- What a frame's lookup finds: the port mask, and the index of the entry in the table. A frame of the old plane's goes by that
plane's static entries (04 R170). -/
def State.ltLookup (s : State) (f : Frame) (mac : BitVec 48) (vid : BitVec 12) : Option (BitVec 8 × Option Nat) :=
  let fixed := if f.old then (s.loOf f).statics.find? fun (m, v, _) => m == mac && v == vid else none
  match fixed with
  | some (_, _, ports) => some (ports, none)
  | none => match s.lnd.ltFind mac vid with
    | none => none
    | some i => match s.lnd.lt i with
      | some e => if f.old && e.static then none else some (e.ports, some i)
      | none => none

/-- Learning at a GOOD verdict (R469). -/
def State.learn (p : Nat) (mac : BitVec 48) (vid : BitVec 12) (s : State) : State :=
  let mine : BitVec 8 := 1#8 <<< p
  match s.lnd.ltFind mac vid with
  | none =>
    match s.lnd.ltFree mac vid with
    | some i =>
      (s.modLnd fun l => l.setLt i (some { mac := mac, vid := vid, ports := mine, static := false, hit := true })).ltally 4
    | none => (s.ltally 6).raise evLearnFull
  | some i =>
    match s.lnd.lt i with
    | none => s
    | some e =>
      if e.static then s
      else
        let s := s.modLnd fun l => l.setLt i (some { e with ports := mine, hit := true })
        if e.ports = mine then s else (s.ltally 5).raise evLearnMove

/-- Static entries of a layout take the place of the old ones (R171, R480); where a bucket is full, a dynamic entry chosen
by a free value gives way (log 21). -/
def State.installStatics (s : State) : State :=
  let s := s.modLnd fun l => { l with table := l.table.filter fun e => match e.2 with
    | some x => !x.static
    | none => false }
  s.lo.statics.foldl (fun s (mac, vid, ports) =>
    let e : LtEntry := { mac := mac, vid := vid, ports := ports, static := true, hit := false }
    match s.lnd.ltFind mac vid, s.lnd.ltFree mac vid with
    | some i, _ => s.modLnd fun l => l.setLt i (some e)
    | none, some i => s.modLnd fun l => l.setLt i (some e)
    | none, none =>
      let b := ltBucket mac vid
      let start := (s.freeVal 2).toNat
      let way := ((List.range 4).map fun k => 4 * b + (start + k) % 4).find? fun i => match s.lnd.lt i with
        | some x => !x.static
        | none => true
      match way with
      | some i => s.drawn.modLnd fun l => l.setLt i (some e)
      | none => s) s

/-! 802.1CB elimination (12 R476-R478). -/

/-- The stream of a layout that a key names. -/
def Layout.streamOf (L : Layout) (mac : BitVec 48) (vid : BitVec 12) : Option Nat :=
  (List.range (min L.nstream 256)).find? fun k => L.streamMac k == mac && L.streamVid k == vid

/-- Index of the record of `new` that equals record `k` of `old` (R481). -/
def streamMoved (old new : Layout) (k : Nat) : Option Nat :=
  (List.range (min new.nstream 256)).find? fun j => new.streamRec j == old.streamRec k

/-- The stream a frame belongs to, by its index in the active plane: a frame of the old plane's goes by the record that the two
planes share, if they do (04 R170, R481). -/
def State.streamFor (s : State) (f : Frame) (mac : BitVec 48) (vid : BitVec 12) : Option Nat :=
  match (s.loOf f).streamOf mac vid with
  | some k => if f.old then streamMoved (s.loOf f) s.lo k else some k
  | none => none

inductive FrerDecision | pass | hold (f : Nat) | recorded | rogue
  deriving DecidableEq, Repr

/-- The elimination decision for sequence `n` of stream `k` (R476). -/
def State.frerDecide (s : State) (k : Nat) (n : BitVec 16) : FrerDecision :=
  let hist : Int := s.lo.hist k
  let flying := s.lnd.frames.find? fun f => f.frer == some (k, n) && f.verdict.isNone && f.wait == .none
  match flying, memRead none s.lnd.frer k with
  | some f, _ => .hold f.id
  | none, none => .pass
  | none, some h =>
    let d := (n - h.h).toInt
    if 0 < d ∧ d < hist then .pass
    else if -hist < d ∧ d ≤ 0 then (if bit h.seen d.natAbs then .recorded else .pass)
    else .rogue

/-- A passed copy is recorded at its GOOD verdict (R477). -/
def State.frerRecord (k : Nat) (n : BitVec 16) (s : State) : State :=
  let now := s.tb.clk.cycles
  let e : Frer := match memRead none s.lnd.frer k with
    | none => { h := n, seen := 1, last := now }
    | some h =>
      let d := (n - h.h).toInt
      if 0 < d then { h := n, seen := (h.seen <<< d.natAbs) ||| 1, last := now }
      else { h with seen := setBit h.seen d.natAbs true, last := now }
  (s.modLnd fun l => { l with frer := memWrite none l.frer k (some e) }).ltally 15

/-! Egress time (03 R93, R111, R112). -/

/-- Octets of a frame on the wire, padding and FCS included (11 R420). -/
def Frame.wireLen (f : Frame) : Nat := max 60 f.octets.length + 4

/-- Octet time of switch port `p`, in fifths of a nanosecond. -/
def State.portTime (s : State) (p : SwPort) : Nat :=
  if h : p.val < 6 then octTime s.eth.port[(⟨p.val, h⟩ : Fin 6)].link.speed else Config.portOctTime p.val

/-- The activity of egress port `p` itself. -/
def actPort (p : SwPort) : ActId := ix 64 (30 + p.val)

/-- The charge of `n` wire octets at port `p` in fifths of a nanosecond: with preamble and gap (03 R111). -/
def State.egressCharge (s : State) (p : SwPort) (n : Nat) : Nat := (n + 20) * s.portTime p

/-- The budgets let port `p` start frame `f`, taken to be `n` octets long (03 R111, R112). -/
def State.egressPays (s : State) (p : SwPort) (f : Frame) (n : Nat) : Bool :=
  match f.orig with
  | some a => decide ((s.egressCharge p n : Int) ≤ s.egLeft a p.val)
  | none => decide (0 < s.egLeft (actPort p) p.val)

/-- The budget test: an originated frame that fails it is held until the next refill, counted once (03 R111). -/
def State.budgetTest (p : SwPort) (f : Frame) (n : Nat) (s : State) : Bool × State :=
  if f.held.contains p.val then (false, s)
  else if s.egressPays p f n then (true, s)
  else match f.orig with
    | some a => (false, (s.modFrame f.id fun f => { f with held := p.val :: f.held }).heldInc a)
    | none => (false, s)

/-- The charge of an originated frame as it starts (03 R111). -/
def State.chargeStart (p : SwPort) (f : Frame) (n : Nat) (s : State) : State :=
  match f.orig with
  | some a => s.chargeEg a p.val (s.egressCharge p n)
  | none => s

/-- The charge of a forwarded frame as its last octet leaves (03 R112). -/
def State.chargeEnd (p : SwPort) (f : Frame) (n : Nat) (s : State) : State :=
  if f.orig.isSome then s else s.chargeEg (actPort p) p.val (s.egressCharge p n)

/-! The scheduler (12 R459). -/

/-- The next non-strict class below `t`; class 7 follows class 0. -/
def nextNonstrict (strict : Fin 8 → Bool) (t : Fin 8) : Fin 8 :=
  (((List.range 8).map fun k => ix 8 (t.val + 7 - k)).find? fun u => !strict u).getD t

/-- The weighted classes: the class picked, `cur` and the deficits after it. -/
def weigh (strict : Fin 8 → Bool) (need : Fin 8 → Option Nat) (quantum : Fin 8 → Nat) :
    Nat → Fin 8 → Vector Nat 8 → Option (Fin 8) × Fin 8 × Vector Nat 8
  | 0, cur, d => (none, cur, d)
  | fuel + 1, cur, d =>
    let pick := match need cur with
      | some n => !strict cur && decide (n ≤ d[cur])
      | none => false
    if pick then (some cur, cur, vset d cur (d[cur] - (need cur).getD 0))
    else
      let cur := nextNonstrict strict cur
      let d := if (need cur).isSome then vset d cur (d[cur] + 8 * quantum cur) else d
      weigh strict need quantum fuel cur d

/-- The class that port `p` takes, with the deficits after the choice; `need` is the length of each class's eligible head. -/
def State.pick (p : SwPort) (need : Fin 8 → Option Nat) (s : State) : Option (Fin 8) × State :=
  let L := s.lo
  let q (t : Fin 8) : Nat := 8 * p.val + t.val
  let strict (t : Fin 8) : Bool := L.strict (q t)
  match ((List.finRange 8).reverse).find? fun t => strict t && (need t).isSome with
  | some t => (some t, s)
  | none =>
    if (List.finRange 8).all fun t => (need t).isNone then (none, s)
    else
      let d : Vector Nat 8 := Vector.ofFn fun t : Fin 8 => s.lnd.deficit[(ix 64 (q t))]
      let (t, cur, d) := weigh strict need (fun t => L.quantum (q t)) 10000 s.lnd.cur[p] d
      (t, s.modLnd fun l =>
        { l with cur := vset l.cur p cur,
                 deficit := (List.finRange 8).foldl (fun v t => vset v (ix 64 (q t)) d[t]) l.deficit })

/-! The Warden port (08 R329, R337; 12 R459, R461). -/

/-- The frame of class `t` that the Warden port may present: the head of its queue, once GOOD, if its budget lets it. -/
def State.wardenCand (t : Fin 8) (s : State) : Option Frame × State :=
  match s.lnd.queue[portQ 7 t] with
  | [] => (none, s)
  | id :: _ => match s.frame? id with
    | some f =>
      if f.good && f.wait == .none then
        let (ok, s) := s.budgetTest 7 f f.wireLen
        (if ok then some f else none, s)
      else (none, s)
    | none => (none, s)

/-- The Warden port, when it presents no frame, takes its next (R459): the Warden's local source 12. -/
def State.presentWarden (s : State) : State :=
  if s.lnd.toWarden.isSome then s
  else
    let (cs, s) := (List.finRange 8).foldl (fun (acc : List (Option Frame) × State) t =>
      let (f, s) := State.wardenCand t acc.2
      (acc.1 ++ [f], s)) ([], s)
    let (t, s) := s.pick 7 fun t => (cs.getD t.val none).map (·.wireLen)
    match t with
    | none => s
    | some t => match cs.getD t.val none with
      | none => s
      | some f => ((s.chargeStart 7 f f.wireLen).modLnd fun l => { l with toWarden := some f.id }).wsrc 12

/-- The frame that the Warden port presents leaves it. -/
def State.releaseWarden (s : State) : State :=
  match s.lnd.toWarden with
  | none => s
  | some id =>
    let s := match s.frame? id with
      | some f => s.chargeEnd 7 f f.wireLen
      | none => s
    let s := s.modLnd fun l => { l with toWarden := none }
    (((List.finRange 8).foldl (fun s t => if s.lnd.queue[portQ 7 t].contains id then s.leave (portQ 7 t) id else s) s).reap).presentWarden

end Sys2Proof.Machine
end

