-- ==== Sys2Proof/Machine/NetRx.lean ====
section
/-! DEFINITION. Frames entering the Landing (11 R415-R419, R873; 12 R446-R454; 13) and their verdicts (08 R313-R316,
R325, R326). -/

namespace Sys2Proof.Machine

/-- Islands of the Landing and the Grader are on (04 R865). -/
def State.landingOn (s : State) : Bool := s.awake && (List.range 6).all fun k => s.islandOn (24 + k)

/-- Frame `f` is being sent by port `p`. -/
def State.sending (s : State) (p : Fin 6) (id : Nat) : Bool :=
  match s.eth.port[p].tx with
  | some x => x.frame == id
  | none => false

/-- Port `p` stomps what it sends: the frame ends after the octet in progress (R876), counted in STOMP_TX (R326). -/
def State.stompTx (p : Fin 6) (s : State) : State :=
  match s.eth.port[p].tx with
  | none => s
  | some x =>
    match x.stomp with
    | some _ => s
    | none => (s.modPort p fun e => { e with tx := some { x with stomp := some (s.octetsSent p x) } }).tally p 39 1

/-- GREEN_STOMP, once for a frame (R326). -/
def State.greenStomp (id : Nat) (s : State) : State :=
  match s.frame? id with
  | some f => if f.stomped then s else (s.modFrame id fun f => { f with stomped := true }).raise evGreenStomp
  | none => s

/-- Effects about a frame that wait for its GOOD verdict; at once where it has come (08 R314). -/
def State.whenGood (id : Nat) (es : List GoodEffect) (s : State) : State :=
  match s.frame? id with
  | none => s
  | some f => match f.verdict with
    | none => s.addGood id es
    | some v => if bit v 0 then es.foldl (fun s e => s.effect e) s else s

/-! The forwarding decision (12 R446-R448, 13 R496-R498, R507, R508). -/

/-- What the Grader and the Offcut table decide for a frame. -/
structure Ruling where
  rule   : Option (BitVec 11)
  offcut : Bool
  /-- The miss action leaves no consumer. -/
  drop   : Bool
  /-- The miss action steers to this tap. -/
  steer  : Option (BitVec 4)
  effects : List GoodEffect
  deriving DecidableEq, Repr

def State.offcutFind (s : State) (k : OfcKey) : Option (Fin 64) :=
  (List.finRange 64).find? fun i => match s.grd.ofc[i] with
    | some e => e.key == k
    | none => false

/-- Counters and events of the walk itself (13 GRD.CNT, R493). -/
def walkEffects (g : Graded) : List GoodEffect :=
  match g.endc.toNat with
  | 3 => [.grd 0, .event evHopLimit]
  | 1 => [.grd 1]
  | 2 => [.grd 2]
  | _ => []

/-- The ruling for a graded frame under layout `L`, with the Offcut table as it stands (R495, R507, R508). -/
def State.ruling (s : State) (L : Layout) (g : Graded) : Ruling :=
  let own : List GoodEffect := if g.rule.isNone then [.grd 3] else []
  if g.frag = .later then
    match s.offcutFind g.okey with
    | some i =>
      let r := match s.grd.ofc[i] with
        | some e => e.rule
        | none => none
      { rule := r, offcut := true, drop := false, steer := none, effects := [.grd 4] }
    | none =>
      let miss : List GoodEffect := [.grd 5, .event evOffcutMiss]
      match fldN L.ofcCfg 4 2 with
      | 0 => { rule := none, offcut := true, drop := true, steer := none, effects := miss }
      | 2 => { rule := none, offcut := true, drop := false, steer := some (fld L.ofcCfg 8 4), effects := miss }
      | _ => { rule := g.rule, offcut := true, drop := false, steer := none, effects := miss ++ own }
  else { rule := g.rule, offcut := false, drop := false, steer := none, effects := own }

/-- The action words of a ruling's rule: words 9, 10, 11; zero without one. -/
def Layout.action (L : Layout) (r : Option (BitVec 11)) (j : Nat) : Word :=
  match r with
  | some i => L.ruleWord i.toNat j
  | none => 0

/-- The classification result word (R498). -/
def classWord (L : Layout) (g : Graded) (r : Ruling) : Word :=
  (1#1 ++ 2#3 ++ bool 1 r.rule.isSome ++ bool 1 (bit (L.action r.rule 9) 15) ++ g.endc ++ bool 1 r.offcut
    ++ r.rule.getD 0 : BitVec 20)

/-- The VID of a frame (R447). -/
def frameVid (L : Layout) (src : Nat) (m : List Octet) : BitVec 12 :=
  let pvid : BitVec 12 := if src < 8 then L.pvid src else 1
  match outerTci m with
  | some t => if t % 4096 = 0 then pvid else BitVec.ofNat 12 t
  | none => pvid

/-- The traffic class of a frame (R448). -/
def frameClass (L : Layout) (f : Frame) (act : Word) : BitVec 3 :=
  if bit act 11 then fld act 12 3
  else match f.desc with
    | some d => d.tc
    | none =>
      match outerTci f.octets with
      | some t => L.pcpClass (t / 8192)
      | none => L.pcpClass (L.defPcp f.src)

/-- Where a frame goes: switch ports, ingress taps, counters and the learning entry hit. -/
structure Dest where
  ports : BitVec 8
  taps  : BitVec 16
  effects : List GoodEffect
  ltHit : Option Nat
  deriving DecidableEq, Repr

/-- A destination in 01-80-C2-00-00-00 to 01-80-C2-00-00-0F. -/
def isLocalMac (a : BitVec 48) : Bool := fld a 4 44 == 0x0180C200000#44

/-- The consumer set before the ingress port is taken out (R446). -/
def State.consumerSet (s : State) (f : Frame) (r : Ruling) : Dest :=
  let L := s.loOf f
  let act := L.action r.rule 9
  let mask : BitVec 8 := match f.desc with
    | some d => d.mask
    | none => 0
  let dst := dstMac f.octets
  let vid := frameVid L f.src f.octets
  if mask ≠ 0 then { ports := mask, taps := 0, effects := [.lnd 2], ltHit := none }
  else if r.drop || bit act 9 then { ports := 0, taps := 0, effects := [], ltHit := none }
  else match r.steer with
    | some n => { ports := 0, taps := 1#16 <<< n.toNat, effects := [], ltHit := none }
    | none =>
      if bit act 8 then { ports := fld act 0 8, taps := fld (L.action r.rule 10) 0 16, effects := [.lnd 2], ltHit := none }
      else if isLocalMac dst then { ports := 0, taps := 0, effects := [.lnd 3], ltHit := none }
      else match s.ltLookup f dst vid with
        | some (m, i) => { ports := m, taps := 0, effects := [.lnd 0], ltHit := i }
        | none => { ports := if f.src < 8 then L.flood f.src else 0x3F, taps := 0, effects := [.lnd 1], ltHit := none }

/-- Arrival window of a ruling, when its port has it (R497): index and whether early, late, dropped late. The frame arrives at its
receive stamp (02 R79). -/
def State.arrival (s : State) (f : Frame) (r : Ruling) : Option (BitVec 4 × Bool × Bool × Bool) :=
  let L := s.loOf f
  let w := L.action r.rule 11
  if bit w 4 ∧ f.src < 6 then
    (L.window f.src (fldN w 0 4)).map fun (e, l, drop) =>
      let late := decide (32 * (l : Int) ≤ f.rel)
      (fld w 0 4, decide (f.rel < 32 * (e : Int)), late, drop && late)
  else none

/-- Queue `q` refuses frame `id` (R454). -/
def State.refuse (q : Fin 80) (mirror : Bool) (id : Nat) (s : State) : State :=
  let s := s.modFrame id fun f => if mirror then { f with mirrorRefused := true } else { f with refused := true }
  s.whenGood id ((if mirror then [GoodEffect.lnd 11] else [GoodEffect.lnd 9]) ++
    (if q.val < 64 then [GoodEffect.lnd (24 + q.val / 8)] else [GoodEffect.lnd (32 + (q.val - 64))]))

/-- The frame is offered to each consumer's queue, all judged on the lengths before it joins any (R453, R454); the host port
takes frames only with PCIe selected (17 R619), the Warden port none in MGMT_DOWN. -/
def State.offer (id : Nat) (qs : List (Fin 80 × Bool)) (s : State) : State :=
  let own := match s.frame? id with
    | some f => f.chain.length
    | none => 0
  let ok (q : Fin 80) : Bool :=
    s.admits q own && !(decide (56 ≤ q.val ∧ q.val < 64) && s.wdn.mode == .down)
      && !(decide (48 ≤ q.val ∧ q.val < 56) && s.host.hsel != 0)
  let judged := qs.map fun (q, m) => (q, m, ok q)
  judged.foldl (fun s (q, m, yes) => if yes then s.join q id else s.refuse q m id) s

/-- Frames for which the consumer set is already empty by the MAC or the elimination. -/
def State.emptySet (id : Nat) (es : List GoodEffect) (s : State) : State :=
  ((s.whenGood id es).modFrame id fun f => { f with decided := true }).reap

/-- The consumer set is fixed, the frame admitted (R446, R453). The elimination decision of a stream comes first (R476). -/
def State.fix (id : Nat) (g : Graded) (s : State) : State :=
  match s.frame? id with
  | none => s
  | some f =>
    let L := s.loOf f
    let r := s.ruling L g
    let w9 := L.action r.rule 9
    let arr := s.arrival f r
    let late := match arr with
      | some (_, _, _, d) => d
      | none => false
    let ts : Option (Fin 16) :=
      if bit w9 16 then (List.finRange 16).find? fun n => bit (L.action r.rule 10) n.val else none
    let s := s.modFrame id fun f =>
      { f with graded := some g, vid := frameVid L f.src f.octets, cls := classWord L g r, tc := frameClass L f w9, tsTap := ts,
               win := arr.map (·.1),
               early := match arr with | some (_, e, _, _) => e | none => false,
               late := match arr with | some (_, _, l, _) => l | none => false,
               macDrop := if f.macDrop.isSome then f.macDrop else if late then some 13 else none }
    let s := s.whenGood id (walkEffects g ++ r.effects)
    let refused : Bool := match f.bound with
      | some (_, some good) => !good
      | _ => false
    if f.macDrop.isSome || late then s.emptySet id []
    else
      let vid := frameVid L f.src f.octets
      let dst := dstMac f.octets
      let stream := match s.streamFor f dst vid, rtagSeq f.octets with
        | some k, some n => some (k, n)
        | _, _ => none
      let dec := match stream with
        | some (k, n) => some (s.frerDecide k n)
        | none => none
      match dec with
      | some .recorded => s.emptySet id [.lnd 16]
      | some .rogue => s.emptySet id [.lnd 17, .event evFrerError]
      | _ =>
        let s := match dec with
          | some (.hold c) =>
            (s.modFrame id fun f => { f with frer := stream, wait := .copy c }).whenGood id [.lnd 18]
          | some _ => s.modFrame id fun f => { f with frer := stream }
          | none => s
        let d := s.consumerSet f r
        let s := s.whenGood id d.effects
        let ports := if f.src < 8 then setBit d.ports f.src false else d.ports
        let mir := L.mirror
        let mp : Fin 8 := ix 8 (fldN mir 0 3)
        let useMir := bit w9 10 && bit mir 6 && !bit ports mp.val
        let tc := ix 8 (frameClass L f w9).toNat
        let qs : List (Fin 80 × Bool) :=
          ((List.finRange 8).filter fun p => bit ports p.val).map (fun p => (portQ p tc, false))
          ++ ((List.finRange 16).filter fun n => bit d.taps n.val).map (fun n => (tapQ n, false))
          ++ (if useMir then [(portQ mp (ix 8 (fldN mir 3 3)), true)] else [])
        let s := s.modFrame id fun f => { f with ltHit := d.ltHit, decided := true }
        -- its request's verdict was not GOOD: no port starts it (08 R337)
        let s := if refused && decide (16 ≤ f.src) && qs.any (fun q => decide (q.1.val < 64)) then
            s.glDrop (ix 16 (f.src - 16)) else s
        (s.offer id (if refused then qs.filter fun q => decide (64 ≤ q.1.val) else qs)).reap

/-- A graded frame: held for a first fragment's verdict (R509), or decided. -/
def State.classify (id : Nat) (g : Graded) (s : State) : State :=
  match s.frame? id with
  | none => s
  | some f =>
    let s := if g.frag = .first ∧ f.verdict.isNone ∧ f.macDrop.isNone ∧ s.grd.pend.length < 8 then
        s.modGrd fun x => { x with pend := x.pend ++ [(id, g.okey)] } else s
    match (if g.frag = .later ∧ f.macDrop.isNone then s.grd.pend.find? fun e => e.2 == g.okey else none) with
    | some (first, _) =>
      (s.modFrame id fun f => { f with graded := some g, wait := .fragment first }).whenGood id [.grd 7]
    | none => s.fix id g

/-! The MAC (11 R415, R416, R419). -/

/-- The MAC's own drop of a received frame: its counter, if any. -/
def macFilter (L : Layout) (p : Nat) (m : List Octet) : Option Nat :=
  if be16 m 12 = 0x8808 ∧ 14 ≤ m.length then some (if be16 m 14 = 1 ∧ 16 ≤ m.length then 5 else 12)
  else if isGroup (srcMac m) then some 12
  else
    let tagged := match outerTci m with
      | some t => decide (t % 4096 ≠ 0)
      | none => false
    match L.admitMode p with
    | 1 => if tagged then none else some 12
    | 2 => if tagged then some 12 else none
    | _ => none

/-- Error bits of a verdict that the octets taken in show (08 R313): FCS_BAD, TRUNCATED, STOMPED_UPSTREAM; TOO_LONG where the MAC
ended the frame. -/
def octetErrors (long : Bool) (m : List Octet) : BitVec 8 :=
  let body := m.take (m.length - 4)
  let good := fcsOctets (crc32 body)
  let got := m.drop (m.length - 4)
  let bad := decide (m.length < 4) || got != good
  let stomp := decide (4 ≤ m.length) && got == good.map (~~~·)
  bool 8 bad <<< 1 ||| bool 8 long <<< 3 ||| bool 8 (decide (m.length < 64)) <<< 4
    ||| bool 8 stomp <<< 7

/-- The verdict word (R313). -/
def verdictWord (f : Frame) (errs : BitVec 8) : Word :=
  let good := !(bit errs 1 || bit errs 2 || bit errs 3 || bit errs 4 || bit errs 7)
  (1#1 ++ 0#3 ++ 0#3 ++ bool 1 f.win.isSome ++ f.win.getD 0
    ++ (fld errs 7 1 ++ bool 1 f.late ++ bool 1 f.early ++ fld errs 1 4 ++ bool 1 good : BitVec 8) : BitVec 20)

/-- The size counter of a good frame (11 Tally 18-24). -/
def sizeIndex (n : Nat) : Nat :=
  if n ≤ 64 then 18 else if n ≤ 127 then 19 else if n ≤ 255 then 20 else if n ≤ 511 then 21
  else if n ≤ 1023 then 22 else if n ≤ 1518 then 23 else 24

/-- The kind of a destination: 0 unicast, 1 multicast, 2 broadcast. -/
def kindIndex (dst : BitVec 48) : Nat := if dst = BitVec.allOnes 48 then 2 else if isGroup dst then 1 else 0

/-- The one counter of a received frame (R419), with those that go along with row 12. -/
def State.countRx (p : Fin 6) (f : Frame) (errs : BitVec 8) (align lost : Bool) (s : State) : State :=
  let one (i : Nat) : State := s.tally p i 1
  if f.rxLen < 64 then one 6
  else if lost then one 15
  else if bit errs 3 then one 10
  else if align then one 8
  else if bit errs 2 then one 9
  else if bit errs 7 then one 14
  else if bit errs 1 then one 7
  else match f.macDrop with
    | some i => one i
    | none =>
      let s := (((one 0).tally p 1 f.rxLen).tally p (2 + kindIndex (dstMac f.octets)) 1).tally p (sizeIndex f.rxLen) 1
      let s := if f.early then s.tally p 16 1 else s
      if f.late then s.tally p 17 1 else s

/-! Verdicts (08 R314-R318, R325, R326; 13 R506, R509, R510; 12 R469, R470, R477). -/

/-- The Offcut entry of a first fragment (R506). -/
def State.offcutWrite (k : OfcKey) (rule : Option (BitVec 11)) (s : State) : State :=
  let e : OfcEntry := { key := k, rule := rule, until_ := s.tb.clk.cycles + 62500 * 2 ^ fldN s.lo.ofcCfg 0 4, last := false }
  let free := (List.finRange 64).find? fun i => (s.grd.ofc[i]).isNone
  match s.offcutFind k, free with
  | some i, _ => s.modGrd fun g => { g with ofc := vset g.ofc i (some e) }
  | none, some i => s.modGrd fun g => { g with ofc := vset g.ofc i (some e) }
  | none, none => (s.gcount 6).raise evOffcutFull

/-- The last fragment of a datagram shortens its entry (R510). -/
def State.offcutLast (k : OfcKey) (s : State) : State :=
  match s.offcutFind k with
  | none => s
  | some i =>
    let cap := s.tb.clk.cycles + 500000
    s.modGrd fun g => { g with ofc := vmod g.ofc i fun e => e.map fun e => { e with last := true, until_ := min e.until_ cap } }

/-- The two layouts' GRADER sections are identical (04 R173). -/
def sameGrader (old new : Layout) : Bool := (List.range 3).all fun i => old.body 4 i == new.body 4 i

/-- What a GOOD verdict does in the Offcut table (R506, R510). A frame of the old plane's writes no entry into a table that the changeover
has flushed (log 83); the last fragment of a datagram hits no entry while it is held. -/
def State.passOffcut (f : Frame) (s : State) : State :=
  match f.graded, f.wait with
  | some _, .fragment _ => s
  | some g, _ =>
    if f.macDrop.isSome || (f.old && !sameGrader (s.loOf f) s.lo) then s
    else if g.frag = .first then s.offcutWrite g.okey g.rule
    else if g.frag = .later ∧ !g.more then s.offcutLast g.okey
    else s
  | none, _ => s

/-- What a GOOD verdict does for a frame whose consumer set is fixed: the Offcut table, the refresh of the entry hit, the sequence
history (R506, R510; 12 R470, R477). -/
def State.passTables (f : Frame) (s : State) : State :=
  let s := s.passOffcut f
  let s := match f.ltHit with
    | some i => s.modLnd fun l => match l.lt i with
      | some e => if e.mac = dstMac f.octets ∧ e.vid = f.vid then l.setLt i (some { e with hit := true }) else l
      | none => l
    | none => s
  match f.frer, f.wait with
  | some (k, n), .none => s.frerRecord k n
  | _, _ => s

/-- What a GOOD verdict does beyond the frame's own counters. -/
def State.goodTables (f : Frame) (s : State) : State :=
  let L := s.loOf f
  let vid := frameVid L f.src f.octets
  let src := srcMac f.octets
  let s := if f.src < 8 ∧ L.learn f.src ∧ !isGroup src ∧ f.macDrop.isNone then s.learn f.src src vid else s
  s.passTables f

/-- A frame whose verdict is not GOOD, or that is discarded, at the egress ports: stomped where it started, dropped where it
did not (R325, R326); its taps keep it. -/
def State.egressBad (id : Nat) (s : State) : State :=
  let started := (List.finRange 6).filter fun p => s.sending p id
  let s := started.foldl (fun s p => s.stompTx p) s
  let s := if started.isEmpty then s else s.greenStomp id
  s.leaveAll id fun q => decide (64 ≤ q.val) || started.any fun p => q.val / 8 == p.val

/-- Frames bound to a request learn its verdict (R335, R337): after one that is not GOOD no port starts them; the taps that hold them
keep them until their own verdict. -/
def State.resolveBound (id : Nat) (good : Bool) (s : State) : State :=
  let mine := s.lnd.frames.filter fun f => f.bound == some (id, none)
  mine.foldl (fun s f =>
    let s : State := s.modFrame f.id fun f => { f with bound := some (id, some good) }
    if good || !f.decided then s
    else
      let started : List (Fin 6) := (List.finRange 6).filter fun p => s.sending p f.id
      let going (q : Fin 80) : Bool := decide (q.val < 48) && started.any fun p => q.val / 8 == p.val
      let stays (q : Fin 80) : Bool := decide (64 ≤ q.val) || going q
      let dropped : Bool := (List.finRange 80).any fun q => s.lnd.queue[q].contains f.id && !stays q
      let s : State := s.leaveAll f.id stays
      if dropped && decide (16 ≤ f.src) then s.glDrop (ix 16 (f.src - 16)) else s) s

/-- The error bits of a verdict word (R313). -/
def verdictErrors (v : Word) : BitVec 8 := (bool 1 (bit v 7) ++ 0#2 ++ fld v 1 4 ++ 0#1 : BitVec 8)

/-- The verdict word of a frame that was held tells of the window that its ruling gave it (08 R313, 13 R509). -/
def State.windowKnown (id : Nat) (s : State) : State :=
  s.modFrame id fun f => { f with verdict := f.verdict.map fun v => verdictWord f (verdictErrors v) }

/-- A frame whose GOOD verdict came while it was held is counted, and does what a GOOD verdict does, now that its consumer set is
fixed (11 R419, 13 R509). -/
def State.lateGood (id : Nat) (s : State) : State :=
  match s.frame? id with
  | none => s
  | some f =>
    if f.uncounted then
      let s := s.modFrame id fun f => { f with uncounted := false }
      let s := if h : f.src < 6 then s.countRx ⟨f.src, h⟩ f 0 false false else s
      (((s.raiseIf f.refused evQueueDrop).raiseIf f.mirrorRefused evMirrorDrop).passTables f).reap
    else s

/-- A fragment held for the first of its datagram goes on (13 R509): its consumer set is fixed now. Where its own verdict came first and was
not GOOD, no port starts it, and its taps keep it (08 R314, R325). -/
def State.unhold (f : Frame) (s : State) : State :=
  let s := s.modFrame f.id fun f => { f with wait := .none }
  match f.graded, f.verdict with
  | some g, some v =>
    let s := (s.fix f.id g).windowKnown f.id
    if bit v 0 then s.lateGood f.id else (s.egressBad f.id).reap
  | some g, none => s.fix f.id g
  | none, _ => s

/-- Frames that waited for this one go on (R477, R509). -/
def State.wake (id : Nat) (good : Bool) (s : State) : State :=
  let s := s.modGrd fun g => { g with pend := g.pend.filter fun e => e.1 != id }
  s.lnd.frames.foldl (fun s f =>
    match f.wait with
    | .fragment x => if x = id then s.unhold f else s
    | .copy x =>
      if x = id then
        let heads := s.rxHeads
        let s := s.modFrame f.id fun f => { f with wait := .none }
        if good then
          (((s.leaveAll f.id fun _ => false).modFrame f.id fun f =>
            { f with frer := none }).whenGood f.id [.lnd 16]).newHeads heads
        else
          let s := s.newHeads heads
          match f.verdict, f.frer with
          | some v, some (k, n) => if bit v 0 then s.frerRecord k n else s
          | _, _ => s
      else s
    | .none => s) s

/-- A frame's verdict reaches every place that holds it (R314, R316, R318, R325). -/
def State.verdictFor (id : Nat) (v : Word) (s : State) : State :=
  match s.frame? id with
  | none => s
  | some f =>
    let good := bit v 0
    let held := match f.wait with | .fragment _ => true | _ => false
    let s := s.modFrame id fun f =>
      { f with verdict := some v, eof := true, arrived := f.words, fcs := [], uncounted := held && good }
    let s := s.raiseIf f.refused evQueueDrop
    let s := s.raiseIf f.mirrorRefused evMirrorDrop
    let s := if good then (f.onGood.foldl (fun s e => s.effect e) s).goodTables f
      else if f.src = 7 ∨ 16 ≤ f.src then s else s.egressBad id
    let s := (List.finRange 16).foldl (fun s n =>
      match s.rxHead n with
      | some h => if h.id = id then s.verdictAt n good else s
      | none => s) s
    (((s.resolveBound id good).wake id good).reap).presentWarden

/-- A frame built at a tap, complete, whose own verdict is due: unbound, or its request's verdict has come. -/
def Frame.tapDue (f : Frame) : Bool :=
  decide (6 ≤ f.src) && f.eof && f.verdict.isNone && (match f.bound with
    | some (_, none) => false
    | _ => true)

/-- Error bits of a verdict word, at least one of them set. -/
def badBits (v : BitVec 5) : BitVec 8 :=
  let v := if v = 0 then BitVec.allOnes 5 else v
  (bool 1 (bit v 4) ++ 0#2 ++ fld v 0 4 ++ 0#1 : BitVec 8)

/-- The verdict word of a frame built at a tap: GOOD, or, for one whose request's verdict was not, one with error bits that the spec
leaves open (08 R316; log 164). -/
def State.tapWord (f : Frame) (s : State) : Word × State :=
  match f.bound with
  | some (_, some false) => (verdictWord f (badBits (s.freeVal 5)), s.drawn)
  | _ => (verdictWord f 0, s)

/-- Frames built at taps get their verdicts, `fuel` of them at most. -/
def State.settleTaps : Nat → State → State
  | 0, s => s
  | fuel + 1, s =>
    match s.lnd.frames.find? (·.tapDue) with
    | none => s
    | some f =>
      let (v, s) := s.tapWord f
      State.settleTaps fuel (s.verdictFor f.id v)

/-- A frame's verdict, with those of the tap frames bound to it. -/
def State.giveVerdict (id : Nat) (v : Word) (s : State) : State :=
  let s := s.verdictFor id v
  s.settleTaps s.lnd.frames.length

/-! Storing and classifying (12 R441, R453, R455; 08 R315; 13 R502). -/

/-- Octets `0` to `n - 1` of a frame tell what a lookup needs: addresses, tags, and the redundancy tag where the layout has streams. -/
def headerIn (L : Layout) (m : List Octet) (n : Nat) : Bool :=
  let t := typeAt m
  decide (14 ≤ n) && (!isVlan (be16 m 12) || decide (16 ≤ n))
    && (L.nstream == 0 || (decide (t + 2 ≤ n) && (be16 m t != 0xF1C1 || decide (t + 6 ≤ n))))

/-- The frame is classified as soon as the octets that its decision needs are stored, or at its end (13 R502). -/
def State.place (id : Nat) (ended : Bool) (s : State) : State :=
  match s.frame? id with
  | none => s
  | some f =>
    if f.graded.isSome || f.decided then s
    else
      let L := s.loOf f
      let (w, e) := walk L f.octets
      if ended || (e != 2 && headerIn L f.octets (2 * f.arrived) && decide (w.need ≤ 2 * f.arrived)) then
        s.classify id (grade L f.octets f.src)
      else s

/-- The first `n` words of frame `id` are stored: a cell is chained for each further 128 octets while the frame still has a consumer or
waits for one (12 R441, R453, R455); false where none is free. -/
def State.storeTo (id n : Nat) (s : State) : Bool × State :=
  match s.frame? id with
  | none => (true, s)
  | some f =>
    let n := max f.arrived (min n ((f.octets.length + f.fcs.length + 1) / 2))
    let kept := !f.decided || f.wait != .none || f.uncounted || s.lnd.queue.toList.any (·.contains id)
    let need := if kept then cellsOf (min (2 * n) f.octets.length) - f.chain.length else 0
    let (ok, s) := s.chainCells id need
    (ok, (if ok then s.modFrame id fun f => { f with arrived := n } else s).bufferNote)

/-- The Landing can store no further cell of frame `id`: the frame ends with its last cell stored, its verdict TRUNCATED (08 R315); one
without any cell reaches no consumer. -/
def State.noBuffer (id : Nat) (s : State) : State :=
  match s.frame? id with
  | none => s
  | some f =>
    let s := s.modFrame id fun f => { f with octets := f.octets.take (128 * f.chain.length), fcs := [] }
    let s := if h : f.src < 6 then
        (s.modPort ⟨f.src, h⟩ fun x => { x with rx := x.rx.filter (· != id) }).tally ⟨f.src, h⟩ 11 1 else s
    let s := s.ltally 10
    let s := if f.chain.isEmpty then s.modFrame id fun f => { f with decided := true } else s.place id true
    match s.frame? id with
    | none => s
    | some f => s.giveVerdict id (verdictWord f 0x10)

/-- `arrived` words of a frame have arrived. -/
def State.arrive (id arrived : Nat) (s : State) : State :=
  let (ok, s) := s.storeTo id arrived
  if ok then s.place id false else s.noBuffer id

end Sys2Proof.Machine
end

