-- ==== Sys2Proof/Machine/NetTx.lean ====
section
/-! DEFINITION. Frames leaving the device: selection, gates and slots (12 R459-R467, 02 R73-R78), quiet ports (11 R424,
R425), transmission, collisions, stamps and the transparent clock (11 R420-R431, 12 R473-R475, 08 R327-R339). -/

namespace Sys2Proof.Machine

/-! Line times. -/

/-- The symbol grid of a speed, in fifths of a quarter-nanosecond (02 R73). -/
def lineGrid (speed : BitVec 3) : Nat :=
  match speed.toNat with
  | 1 => 8000
  | 2 => 800
  | 3 => 160
  | _ => 64

/-- The first point of the symbol grid at or after `t` quarter-nanoseconds (02 R73, 11 R431; its origin is system time 0,
log 22). -/
def launchPoint (speed : BitVec 3) (t : Nat) : Nat := ceilDiv (ceilDiv (5 * t) (lineGrid speed) * lineGrid speed) 5

/-- The length that the slot and budget tests use: MAX_LEN while the frame's end is not stored (12 R467). -/
def Frame.testLen (f : Frame) (L : Layout) (p : Fin 6) : Nat := if f.eof then f.wireLen else L.maxLen p.val

/-- Quarter-nanoseconds that `n` octets take, rounded up. -/
def octetsQ (speed : BitVec 3) (n : Nat) : Nat := ceilDiv (4 * n * octTime speed) 5

/-! Gates and windows (12 R462-R467). -/

/-- The gate cycle in 8 ns units. -/
def Layout.gateCycle (L : Layout) (p : Nat) : Nat := L.period.toNat / max 1 (L.gateM p)

/-- Class `t` is open in entry `k` of a gate list. -/
def gateOpen (g : List GateEntry) (k t : Nat) : Bool :=
  match g[k]? with
  | some e => bit e.gates t
  | none => true

/-- Class `t` is open at port `p` now (12 R463). -/
def State.classOpen (s : State) (p : Fin 6) (t : Nat) : Bool := gateOpen (s.lo.gates p.val) (s.lnd.entry[p]).toNat t

/-- A window of a class: the entry that opens it, whether that entry belongs to the gate cycle before the one that entry `e` governs, its
DROP bit, and its close in 8 ns units of that gate cycle. -/
structure SlotWindow where
  first  : Nat
  before : Bool
  drop   : Bool
  close  : Nat
  deriving DecidableEq, Repr

/-- The window that class `t` is in while entry `e` governs (12 R464); none where the class is open in every entry (R465). -/
def gateWindow (g : List GateEntry) (c e t : Nat) : Option SlotWindow :=
  let n := g.length
  let startOf (k : Nat) : Nat := (match g[k % n]? with | some x => x.start | none => 0) + c * (k / n)
  match (List.range n).find? fun k => !gateOpen g ((e + 1 + k) % n) t with
  | none => none
  | some k =>
    let back := ((List.range n).find? fun j => !gateOpen g ((e + n - j) % n) t).getD 0
    let first := (e + n - back + 1) % n
    some { first := first, before := decide (e < first), close := startOf (e + 1 + k),
           drop := match g[first]? with | some x => x.drop | none => false }

/-! Quiet ports (11 R424, R425). -/

/-- A quiet port starts only PTP frames. -/
def State.quiet (s : State) (p : Fin 6) : Bool :=
  (s.lo.holdAct p.val && s.eth.quietHold) || (s.lo.quietBoot p.val && s.eth.quietBoot)

/-- Every octet that decides whether a frame is a PTP frame has been stored (11 R425). -/
def ptpKnown (m : List Octet) (eof : Bool) : Bool :=
  let t := typeAt m
  let ty := be16 m t
  eof || (decide (t + 2 ≤ m.length) &&
    (if ty = 0x0800 then decide (t + 6 + 4 * ((m.getD (t + 2) 0).toNat % 16) ≤ m.length)
     else if ty = 0x86DD then decide (t + 46 ≤ m.length) else true))

/-! What may start (12 R449-R451, 08 R334, R337). -/

/-- The request of a bound frame marks it green-launch eligible (08 R334, 13). -/
def State.requestGl (s : State) (id : Nat) : Bool :=
  match s.frame? id with
  | some r => r.decided && bit r.cls 14
  | none => false

/-- The octets of a frame that have been stored so far. -/
def Frame.stored (f : Frame) : List Octet := if f.eof then f.octets else f.octets.take (2 * f.arrived)

/-- Frame `f` may start on port `p`, its gate, slot and budget aside. -/
def State.mayStart (s : State) (p : Fin 6) (f : Frame) : Bool :=
  let L := s.loOf f
  let k := s.eth.port[p].link
  let kind :=
    if f.src < 6 then
      let i : Fin 6 := ix 6 f.src
      f.good || (f.verdict.isNone && decide (1 ≤ L.ctCode f.src p.val) && k.full
        && decide (k.speed.toNat ≤ (s.eth.port[i].link.speed).toNat))
    else f.eof || (decide (16 ≤ f.src) && L.tapCt (f.src - 16) p.val && k.full)
  let binding := match f.bound with
    | none => true
    | some (_, some good) => good
    | some (r, none) => L.greenLaunch p.val && k.full && s.requestGl r
  f.wait == .none && f.decided && kind && binding && !(s.quiet p && !ptpKnown f.stored f.eof)

/-- A frame that a port drops before starting it: counted, gone from the port's queue. -/
def State.egressDrop (p : Fin 6) (q : Fin 80) (id i : Nat) (s : State) : State := ((s.leave q id).tally p i 1).reap

/-- The window of class `t` that is open at port `p`, if the class has windows. -/
def State.window (s : State) (p : Fin 6) (t : Nat) : Option SlotWindow :=
  gateWindow (s.lo.gates p.val) (s.lo.gateCycle p.val) (s.lnd.entry[p]).toNat t

/-- The turn of the gate list in which a window opened. -/
def State.openTurn (s : State) (p : Fin 6) (w : SlotWindow) : Nat := s.lnd.turn[p] - if w.before then 1 else 0

/-- Frame `f` of class `t` is deferred at port `p` to an occurrence of its slot that is not open now (02 R76, R77). -/
def State.deferredPast (s : State) (p : Fin 6) (t : Nat) (f : Frame) : Bool :=
  match f.deferred.find? fun d => d.port == p.val with
  | none => false
  | some d => match d.entry with
    | none => false
    | some e => !s.classOpen p t || (match s.window p t with
      | none => false
      | some w => !(w.first == e && decide (d.turn < s.openTurn p w)))

/-- The head frame of class `t` of port `p`: the first of its queue that is not deferred past now (02 R77, 12 R461). Frames queued after a
deferred one may start before its slot opens again (DESIGN CHOICE, log 165). -/
def State.egressHead (s : State) (p : Fin 6) (t : Fin 8) : Option Frame :=
  (s.lnd.queue[portQ (ix 8 p.val) t].filterMap fun id => s.frame? id).find? fun f => !s.deferredPast p t.val f

/-- The frame's explicit launch time has come (02 R78): it is a time of the stroke in which the frame's SOF was pushed (DESIGN CHOICE,
log 166). -/
def State.launchDue (s : State) (f : Frame) : Bool :=
  match f.launch with
  | some k => decide (k ≤ s.tb.clk.cycles)
  | none => true

/-- The slot test of 02 R75 for window `w` (12 R464, R467): the last octet ends at or before close − G. -/
def State.fitsSlot (s : State) (p : Fin 6) (f : Frame) (w : SlotWindow) : Bool :=
  let L := s.lo
  let speed := s.eth.port[p].link.speed
  -- all in twentieths of a nanosecond since the stroke's start
  let launch := 40 * s.strokeCyc + 5 * (launchPoint speed s.qns - s.qns)
  let last := launch + 4 * (8 + f.testLen L p) * octTime speed
  decide (last + 160 * L.guard p.val ≤ 160 * (L.gateCycle p.val * s.lnd.cycle[p] + w.close))

/-- What becomes of a head frame, its budget aside. -/
inductive TxJudge
  | wait
  /-- dropped and counted; LAUNCH_LATE where a slot or gate is the reason -/
  | drop (i : Nat) (late : Bool)
  | defer (d : Deferral)
  | go
  deriving DecidableEq, Repr

/-- Frame `f` at the head of class `t` of port `p`: its start conditions, gate, launch time and slot (02 R74-R78; 12 R449-R451,
R463-R467; 11 R422). -/
def State.judge (s : State) (p : Fin 6) (t : Fin 8) (f : Frame) : TxJudge :=
  let L := s.lo
  let gates := L.gates p.val
  if !gates.isEmpty && (List.range gates.length).all fun k => !gateOpen gates k t.val then .drop 42 true
  else if f.eof && decide (L.maxLen p.val < f.wireLen) then .drop 46 false
  else if !s.mayStart p f || !s.classOpen p t.val || !s.launchDue f then .wait
  else match s.window p t.val with
    | none => .go
    | some w =>
      if s.fitsSlot p f w then .go
      else if w.drop || f.deferred.any fun d => d.port == p.val then .drop 42 true
      else .defer { port := p.val, entry := some w.first, turn := s.openTurn p w }

/-- The counter of an eligible frame that its port drops: the link is down (11 R411), or the port is quiet and the frame is no PTP frame
(11 R425). -/
def State.lineDrop (s : State) (p : Fin 6) (f : Frame) : Option Nat :=
  if !(s.eth.port[p].link.up) then some 48
  else if s.quiet p && !isPtp f.stored then some 47
  else none

/-- The head of class `t` of port `p` after the frames that must go have gone, with `fuel` frames looked at: the frame
that may start now, if any. -/
def State.classHead (p : Fin 6) (t : Fin 8) : Nat → State → Option Frame × State
  | 0, s => (none, s)
  | fuel + 1, s =>
    match s.egressHead p t with
    | none => (none, s)
    | some f =>
      let drop (i : Nat) (s : State) := State.classHead p t fuel (s.egressDrop p (portQ (ix 8 p.val) t) f.id i)
      match s.judge p t f with
      | .wait => (none, s)
      | .drop i late => drop i (s.raiseIf late evLaunchLate)
      | .defer d =>
        State.classHead p t fuel (((s.raise evLaunchLate).tally p 41 1).modFrame f.id fun f => { f with deferred := d :: f.deferred })
      | .go =>
        let (pays, s) := s.budgetTest (ix 8 p.val) f (f.testLen s.lo p)
        if !pays then (none, s)
        else match s.lineDrop p f with
          | some i => drop i s
          | none => (some f, s)

/-- The frames that may start, by class, lowest class first. -/
def State.candidates (p : Fin 6) (s : State) : List (Option Frame) × State :=
  (List.finRange 8).foldl (fun (acc : List (Option Frame) × State) t =>
    let (f, s) := State.classHead p t 8192 acc.2
    (acc.1 ++ [f], s)) ([], s)

/-! Stamps and what the MAC rewrites. -/

/-- Egress stamp of a transmission at the end of its SFD (11 R427, R430, R431), in quarter-nanoseconds. -/
def State.txStamp (s : State) (p : Fin 6) (x : TxActive) : Nat :=
  ((x.start + octetsQ (s.eth.port[p].link.speed) 8 : Nat) + (s.eth.port[p].txAdj).toInt).toNat

/-- A PTP Sync message with twoStepFlag clear, originated at a tap (11 R429): where it begins and how it is carried. -/
def oneStepAt (L : Layout) (p : Fin 6) (f : Frame) : Option (Nat × Nat) :=
  if L.oneStep p.val && decide (f.src = 7 ∨ 16 ≤ f.src) then
    match ptpAt f.octets with
    | some (i, c) =>
      if (f.octets.getD i 0).toNat % 16 = 0 ∧ !bit (f.octets.getD (i + 6) 0) 1 ∧ c < 2 ∧ i + 44 ≤ f.octets.length then
        some (i, c) else none
    | none => none
  else none

/-- A PTP message forwarded between two ports with TC_EN (12 R473, R474). -/
def clockedAt (L : Layout) (p : Fin 6) (f : Frame) : Option (Nat × Nat) :=
  if f.src < 6 ∧ L.tcEn f.src ∧ L.tcEn p.val then ptpAt f.octets else none

/-- A PTP event message: Sync, Delay_Req, Pdelay_Req or Pdelay_Resp. -/
def isPtpEvent (f : Frame) (i : Nat) : Bool := decide ((f.octets.getD i 0).toNat % 16 < 4)

/-- The MAC takes an egress stamp of the frame (11 R427, 13 R501). -/
def stamped (L : Layout) (p : Fin 6) (f : Frame) : Bool :=
  (match f.desc with | some d => d.tsReq | none => false) || f.tsTap.isSome || (oneStepAt L p f).isSome
    || (match clockedAt L p f with | some (i, c) => isPtpEvent f i && decide (c < 2) | none => false)

/-- A one-step Sync as it leaves (11 R429; the places are IEEE 1588's, log 23). -/
def oneStep (m : List Octet) (i c stamp : Nat) : List Octet :=
  let m := putBe m (i + 34) 6 (stamp / 4000000000)
  let m := putBe m (i + 40) 4 (stamp % 4000000000 / 4)
  let m := putBe m (i + 8) 8 ((beNat m (i + 8) 8 + stamp % 4 * 2 ^ 14) % 2 ^ 64)
  if c = 1 then putBe m (i - 2) 2 0 else m

/-- A correctionField after `d` quarter-nanoseconds of residence, and whether it overflowed (12 R473, R475). -/
def correction (old : BitVec 64) (d : Int) : BitVec 64 × Bool :=
  let top : Int := 2 ^ 63 - 1
  let x := old.toInt + d * 2 ^ 14
  if old.toInt = top ∨ top < x ∨ x < -(2 ^ 63) then (BitVec.ofInt 64 top, true) else (BitVec.ofInt 64 x, false)

/-- A frame's octets as they leave port `p`, with the counts of the transparent clock and of one-step insertion. -/
def State.rewritten (p : Fin 6) (f : Frame) (stamp : Nat) (s : State) : List Octet × State :=
  match oneStepAt s.lo p f with
  | some (i, c) => (oneStep f.octets i c stamp, s.tally p 54 1)
  | none =>
    match clockedAt s.lo p f with
    | some (i, c) =>
      if c = 2 then (f.octets, s.whenGood f.id [.lnd 14])
      else if isPtpEvent f i then
        let (v, ovr) := correction (BitVec.ofNat 64 (beNat f.octets (i + 8) 8)) ((stamp : Int) - ofTime80 f.stamp)
        let m := putBe f.octets (i + 8) 8 v.toNat
        (if c = 1 then putBe m (i - 2) 2 0 else m,
          s.whenGood f.id (if ovr then [.lnd 13, .event evTcOverflow] else [.lnd 12]))
      else (f.octets, s)
    | none => (f.octets, s)

/-! Start and end of a transmission. -/

/-- Ports and the Landing are powered (22). -/
def State.macOn (s : State) (p : Fin 6) : Bool := s.landingOn && s.islandOn (40 + p.val)

/-- Port `p` begins frame `f` of queue `q`, after `tries` collisions. A frame whose end is not stored has been charged as one of MAX_LEN
(03 R111). -/
def State.beginTx (p : Fin 6) (q : Fin 80) (f : Frame) (tries : Nat) (s : State) : State :=
  let speed := s.eth.port[p].link.speed
  let green := decide (f.src < 6) && f.verdict.isNone
  let gl := match f.bound with | some (_, none) => true | _ => false
  let paid := if f.eof then none else f.orig.map fun a =>
    (a, s.tb.stroke.count, s.egressCharge (ix 8 p.val) (s.lo.maxLen p.val))
  let x : TxActive :=
    { frame := f.id, queue := q.val, start := launchPoint speed s.qns, stomp := none, green := green, tries := tries, paid := paid }
  let s := s.modPort p fun e => { e with tx := some x, retry := e.retry.filter fun r => r.1 != f.id }
  let s := if green then s.tally p 37 1 else s
  let s := if gl then s.tally p 38 1 else s
  if stamped s.lo p f then s.tally p 50 1 else s

/-- The port can start a frame: powered, none in transmission, the gap over (11 R421). -/
def State.txFree (s : State) (p : Fin 6) : Bool :=
  s.macOn p && (s.eth.port[p].tx).isNone && decide (s.eth.port[p].gap ≤ s.tb.clk.cycles)

/-- The frame that the port retries, its class and its collisions (11 R423). -/
def State.retryHead (s : State) (p : Fin 6) : Option (Frame × Fin 8 × Nat) :=
  s.eth.port[p].retry.findSome? fun (id, n) =>
    match s.frame? id, (List.finRange 8).find? fun t => s.lnd.queue[portQ (ix 8 p.val) t].contains id with
    | some f, some t => some (f, t, n)
    | _, _ => none

/-- The frame that the port retries may start again: its charge was taken at its first attempt. -/
def State.retryGoes (s : State) (p : Fin 6) (f : Frame) (t : Fin 8) : Bool :=
  s.judge p t f == .go && (s.lineDrop p f).isNone && (f.orig.isSome || s.egressPays (ix 8 p.val) f (f.testLen s.lo p))

/-- The port selects its next eligible frame and starts it (12 R459). -/
def State.startNext (p : Fin 6) (s : State) : State :=
  let (cands, s) := s.candidates p
  let need (f : Frame) : Nat := if f.eof || decide (f.src < 6) then f.wireLen else s.lo.maxLen p.val
  let (t, s) := s.pick (ix 8 p.val) fun t => (cands.getD t.val none).map need
  match t with
  | none => s
  | some t => match cands.getD t.val none with
    | none => s
    | some f =>
      let q := portQ (ix 8 p.val) t
      match s.eth.port[p].retry.find? fun r => r.1 == f.id with
      | some (_, n) => s.beginTx p q f n
      | none => (s.chargeStart (ix 8 p.val) f (f.testLen s.lo p)).beginTx p q f 0

/-- A free port selects and starts its next eligible frame (12 R459); after a collision it tries the same frame again (11
R423). -/
def execEgressFrameStart (p : Fin 6) (s : State) : Host.Outcome State Fault Refusal :=
  .next (if s.txFree p then
      match s.retryHead p with
      | some (f, t, n) => if s.retryGoes p f t then s.beginTx p (portQ (ix 8 p.val) t) f n else s.startNext p
      | none => s.startNext p
    else s)

/-- How a transmission ends: the octets sent before the FCS, and whether the FCS is true. -/
structure TxEnd where
  octets : List Octet
  good   : Bool
  deriving DecidableEq, Repr

/-- A stomped end: counted, GREEN_STOMP for the frame (08 R326). -/
def State.txStomped (p : Fin 6) (f : Frame) (s : State) : State := (s.tally p 39 1).greenStomp f.id

/-- The end of the transmission `x` of frame `f`, judged when its FCS falls due (08 R325-R328, R335, R336, R876; 05 R208; 11
R422). -/
def State.txEnding (p : Fin 6) (x : TxActive) (f : Frame) (m : List Octet) (s : State) : TxEnd × State :=
  let max_ := s.lo.maxLen p.val
  match x.stomp with
  | some k => ({ octets := padded (m.take k), good := false }, s)
  | none =>
    if max_ < f.wireLen then
      ({ octets := padded (m.take (max_ - 4)), good := false }, (s.tally p 46 1).txStomped p f)
    else if f.src < 6 ∧ f.verdict.isNone then ({ octets := padded m, good := false }, s.txStomped p f)
    else if !f.eof then ({ octets := m, good := false }, s.tally p 40 1)
    else match f.bound with
      | some (_, some true) => ({ octets := padded m, good := true }, s)
      | some (_, _) =>
        let s := s.txStomped p f
        ({ octets := padded m, good := false }, if 16 ≤ f.src then s.glStomp (ix 16 (f.src - 16)) else s)
      | none => ({ octets := padded m, good := true }, s)

/-- Stamps that a frame sent whole returns (11 R428, 13 R501). -/
def State.returnStamps (p : Fin 6) (f : Frame) (stamp : Nat) (s : State) : State :=
  let s := match f.desc with
    | some d =>
      if d.tsReq then s.putStamp (if 16 ≤ f.src then f.src - 16 else 16) p d.seq (time80 stamp) else s
    | none => s
  match f.tsTap with
  | some n =>
    let seq := match f.seqs.find? fun e => e.1 == n.val with
      | some (_, k) => k
      | none => 0
    s.putStamp n.val p seq (time80 stamp)
  | none => s

/-- Of the charge of a frame whose end was not stored when it started, what its octets did not take is given back in the same stroke
(03 R93, R111; log 74). -/
def State.refundTx (p : Fin 6) (x : TxActive) (n : Nat) (s : State) : State :=
  match x.paid with
  | some (a, k, c) =>
    if k = s.tb.stroke.count then
      s.modSbu fun b =>
        { b with egLeft := memWrite 0 b.egLeft (8 * a.val + p.val)
                   (memRead 0 b.egLeft (8 * a.val + p.val) + (c - s.egressCharge (ix 8 p.val) n : Nat)) }
    else s
  | none => s

/-- Core cycles of the gap after a frame: 12 octet times (11 R421). -/
def gapCycles (speed : BitVec 3) : Nat := ceilDiv (octetsQ speed 12) 8

/-- A port finishes the frame it sends. -/
def execEgressFrameEnd (p : Fin 6) (s : State) : Host.Outcome State Fault Refusal :=
  match s.eth.port[p].tx with
  | none => .next s
  | some x =>
    match s.frame? x.frame with
    | none => .next (s.modPort p fun e => { e with tx := none })
    | some f =>
      let speed := s.eth.port[p].link.speed
      let stamp := s.txStamp p x
      let (m, s) := s.rewritten p f stamp
      let (e, s) := s.txEnding p x f m
      let n := e.octets.length + 4
      let s := s.runTo (x.start + octetsQ speed (8 + n))
      let s := (s.chargeEnd (ix 8 p.val) f n).refundTx p x n
      let s := { s with sent := .frame p e.octets e.good :: s.sent }
      let s :=
        if e.good then
          (((s.tally p 32 1).tally p 33 n).tally p (34 + kindIndex (dstMac m)) 1).returnStamps p f stamp
        else s
      let s := s.modPort p fun e => { e with tx := none, gap := s.tb.clk.cycles + gapCycles speed }
      .next ((s.leave (ix 80 x.queue) f.id).reap)

/-- A collision of a half-duplex port (11 R423). -/
def execCollision (p : Fin 4) (late : Bool) (s : State) : Host.Outcome State Fault Refusal :=
  let p : Fin 6 := ix 6 p.val
  match s.eth.port[p].tx with
  | none => .next s
  | some x =>
    if s.eth.port[p].link.full then .next s
    else
      let s := (s.tally p 43 1).modPort p fun e =>
        { e with tx := none, gap := s.tb.clk.cycles + gapCycles e.link.speed }
      if late then .next (s.egressDrop p (ix 80 x.queue) x.frame 44)
      else if 16 ≤ x.tries + 1 then .next (s.egressDrop p (ix 80 x.queue) x.frame 45)
      else .next (s.modPort p fun e => { e with retry := (x.frame, x.tries + 1) :: e.retry })

/-- A gate list reaches its next entry (12 R462). -/
def execGateEntryChange (p : Fin 6) (s : State) : Host.Outcome State Fault Refusal :=
  let g := s.lo.gates p.val
  if !s.tb.stroke.running || g.isEmpty then .next s
  else
    let k := (s.lnd.entry[p]).toNat + 1
    let wrap := decide (g.length ≤ k)
    let e := if wrap then 0 else k
    let cyc := s.lnd.cycle[p] + if wrap then 1 else 0
    let start := match g[e]? with
      | some x => x.start
      | none => 0
    let at_ := s.tb.stroke.cyc0 + 4 * (cyc * s.lo.gateCycle p.val + start)
    if s.beforeEnd at_ then
      .next ((s.runToCycle at_).modLnd fun l =>
        { l with entry := vset l.entry p (BitVec.ofNat 6 e), cycle := vset l.cycle p cyc,
                 turn := if wrap then vmod l.turn p (· + 1) else l.turn })
    else .next s

end Sys2Proof.Machine
end

