-- ==== Sys2Proof/Machine/Ports.lean ====
section
/-! DEFINITION. Links, diagnostics, Tally snapshots and MDIO (11 R409-R414, R436-R439, R874), the learning table's upkeep
(12 R471, R472, R482), 802.1CB resets (R478) and the Offcut table (13 R506-R512). -/

namespace Sys2Proof.Machine

/-! Links. -/

/-- A frame in transmission is lost with its link (11 R411). -/
def State.txLost (p : Fin 6) (s : State) : State :=
  match s.eth.port[p].tx with
  | none => s
  | some x =>
    let s := (s.modPort p fun e => { e with tx := none }).tally p 48 1
    let s := match s.frame? x.frame with
      | some f => if f.src < 6 && f.verdict.isNone then s.txStomped p f else s
      | none => s
    (s.leave (ix 80 x.queue) x.frame).reap

/-- ETH.LINK takes new values; LINK_CHANGE and its count where up, speed or duplex changes (11 R410). -/
def State.setLink (p : Fin 6) (k : Link) (s : State) : State :=
  let old := s.eth.port[p].link
  let moved := old.up != k.up || (k.up && (old.speed != k.speed || old.full != k.full))
  let s := s.modPort p fun e => { e with link := { k with changes := if moved then satInc old.changes else old.changes } }
  let s := if old.up && !k.up then (s.tally p 53 1).txLost p else s
  s.raiseIf moved (evLinkChange p)

/-- The link procedure of a port starts again: the link is down until it completes (11 R874). -/
def State.linkRestart (p : Fin 6) (s : State) : State :=
  s.setLink p { s.eth.port[p].link with up := false, anDone := false, noHcd := false }

/-- Negotiation on port `p` may settle on this mode (11 R409): the speeds of its interface, half duplex only with ALLOW_HALF. -/
def Layout.offersMode (L : Layout) (p : Nat) (speed : BitVec 3) (full : Bool) : Bool :=
  match L.portIf p with
  | 1 => decide (1 ≤ speed.toNat ∧ speed.toNat ≤ 2) && (full || L.allowHalf p)
  | 3 => decide (speed.toNat = 3) && full
  | _ => decide (1 ≤ speed.toNat ∧ speed.toNat ≤ 3) && full

/-- What the link procedure of port `p` comes to, when it proposes a link (11 R409): a forced port runs at its own speed and duplex
without negotiation; any other takes the mode found only if its interface and layout allow it, and otherwise has no common mode
with the partner. -/
def Layout.linkMode (L : Layout) (p : Nat) (k : Link) : Link :=
  let i := L.portIf p
  let v := L.portSpeed p
  if v ≠ 0 ∨ i = 4 then
    { k with speed := if i = 4 then 4 else BitVec.ofNat 3 v, full := !(i == 1 && L.allowHalf p), anDone := false, noHcd := false }
  else if k.noHcd then { k with up := false }
  else if k.up && !L.offersMode p k.speed k.full then { k with up := false, noHcd := true }
  else k

/-- A port's link goes up or down or changes its mode (11 R409, R410). A disabled port and a port under diagnosis have no
link. -/
def execLinkStateChange (p : Fin 6) (up full : Bool) (speed : BitVec 3) (mdix anDone noHcd : Bool) (s : State) :
    Host.Outcome State Fault Refusal :=
  if s.lo.portIf p.val = 0 ∨ !s.islandOn (40 + p.val) ∨ (up ∧ s.eth.port[p].diag) then .next s
  else
    .next (s.setLink p (s.lo.linkMode p.val { s.eth.port[p].link with
      up := up, full := full, speed := speed, mdix := mdix, anDone := anDone, noHcd := noHcd }))

/-- The PHY of port `p` detects a burst (11 R412, R413). -/
def execBurstDetected (p : Fin 4) (s : State) : Host.Outcome State Fault Refusal :=
  let q : Fin 6 := ix 6 p.val
  if s.lo.portIf p.val ≠ 1 ∨ !s.islandOn (36 + p.val) then .next s
  else
    let fresh := (s.eth.port[q].freeze).isNone
    let s := s.modPort q fun e => { e with freeze := some (s.tb.clk.cycles + 1000000) }
    .next (if fresh then (s.raise (evBurst p)).tally q 52 1 else s)

/-- The 2 ms of a freeze run out (11 R412). -/
def execFreezeEnd (p : Fin 4) (s : State) : Host.Outcome State Fault Refusal :=
  let q : Fin 6 := ix 6 p.val
  match s.eth.port[q].freeze with
  | some k => .next (s.whenAt k fun s => s.modPort q fun e => { e with freeze := none })
  | none => .next s

/-- ETH.CTRL.DIAG_START (11 R414): refused while the link is up on an enabled port, and on a port without a PHY. -/
def State.diagStart (p : Fin 6) (s : State) : State :=
  let e := s.eth.port[p]
  let s := s.modPort p fun e => { e with diagRes := { e.diagRes with valid := false } }
  if p.val < 4 ∧ !e.diag ∧ (!e.link.up ∨ s.lo.portIf p.val = 0) ∧ s.islandOn (36 + p.val) then
    s.modPort p fun e => { e with diag := true }
  else s

def execDiagStart (a : Agent) (p : Fin 6) (s : State) : Host.Outcome State Fault Refusal :=
  let s := s.paid a
  .next (if s.reaches a then s.diagStart p else s)

/-- A cable diagnostic ends (11 R414). -/
def execDiagComplete (p : Fin 4) (result : BitVec 24) (s : State) : Host.Outcome State Fault Refusal :=
  let q : Fin 6 := ix 6 p.val
  if s.eth.port[q].diag then
    .next ((s.modPort q fun e =>
      { e with diag := false, diagRes := { data := result, valid := true, rep := false } }).linkRestart q)
  else .next s

/-- ETH.CTRL.AN_RESTART (11 R874). -/
def execAnRestart (a : Agent) (p : Fin 6) (s : State) : Host.Outcome State Fault Refusal :=
  let s := s.paid a
  .next (if s.reaches a then s.linkRestart p else s)

/-! Frames entering (11 R415-R419, R873; 08 R331, R332). -/

/-- Ports that start a frame of port `p` early (08 R331): 100 Mb/s, full duplex, free, not quiet, EARLY_START of the pair. -/
def State.earlyPorts (s : State) (p : Fin 6) : List (Fin 6) :=
  (List.finRange 6).filter fun j =>
    let e := s.eth.port[j]
    s.lo.ctCode p.val j.val == 2 && s.txFree j && e.link.up && e.link.full && e.link.speed == 2
      && decide (2 ≤ (s.eth.port[p].link.speed).toNat) && !s.quiet j

/-- Port `j` has begun a preamble 440 ns after the end of the SFD in (08 R331; the latest time the rule allows: DESIGN CHOICE, log 167). -/
def State.earlyStart (s : State) : Nat := launchPoint 2 (s.qns + 4 * 440)

/-- Classification, `lag` fifths of a nanosecond after the end of the SFD in, excludes port `j` from a frame that it began early
(08 R332): the preamble ends with no frame, or the octets sent by then are stomped. -/
def State.endEarly (j : Fin 6) (id lag : Nat) (s : State) : State :=
  let s := s.tally j 39 1
  if lag ≤ 5 * 440 + 8 * 400 then s.modPort j fun e => { e with gap := s.tb.clk.cycles + (440 + 7 * 80 + 12 * 80) / 2 }
  else
    let k := (lag - 5 * 440 - 8 * 400) / 400 + 1
    let x : TxActive :=
      { frame := id, queue := 8 * j.val, start := s.earlyStart, stomp := some k, green := true, tries := 0, paid := none }
    (s.modPort j fun e => { e with tx := some x }).greenStomp id

/-- Port `j` goes on with a frame that it began early: the head of its class, if its gate, slot and budget let it start. -/
def State.goEarly (j : Fin 6) (id : Nat) (t : Fin 8) (s : State) : State :=
  match s.egressHead j t with
  | none => s
  | some f =>
    if f.id = id ∧ s.judge j t f = .go ∧ s.egressPays (ix 8 j.val) f (f.testLen s.lo j) then
      let start := s.earlyStart
      (s.beginTx j (portQ (ix 8 j.val) t) f 0).modPort j fun e => { e with tx := e.tx.map fun x => { x with start := start } }
    else s

/-- A classified frame at the ports that began it early, `need` octets of it having been needed (08 R331, R332). -/
def State.settleEarly (p : Fin 6) (id need : Nat) (s : State) : State :=
  match s.frame? id with
  | none => s
  | some f =>
    if !f.decided then s
    else
      let lag := need * octTime s.eth.port[p].link.speed + 5 * 74
      (s.earlyPorts p).foldl (fun s j =>
        match (List.finRange 8).find? fun t => s.lnd.queue[portQ (ix 8 j.val) t].contains id with
        | some t => s.goEarly j id t
        | none => s.endEarly j id lag) s

/-- A frame is classified, if the octets that its decision needs are there, and meets the ports that began it early. -/
def State.enter (p : Fin 6) (id : Nat) (ended : Bool) (s : State) : State :=
  match s.frame? id with
  | none => s
  | some f =>
    if f.graded.isSome || f.decided then s
    else
      let need := if ended then f.octets.length else max 14 (walk s.lo f.octets).1.need
      (s.place id ended).settleEarly p id need

/-- A frame arrives on a port (R873): stored, graded, decided; `arrived` of its words have reached the consumers. -/
def execRxFrame (p : Fin 6) (octets : List Octet) (arrived : Nat) (s : State) : Host.Outcome State Fault Refusal :=
  let e := s.eth.port[p]
  if !e.link.up || !s.landingOn || !s.islandOn (40 + p.val) || octets.isEmpty then .next s
  else
    let L := s.lo
    let max := L.maxLen p.val
    let long := decide (max < octets.length)
    let got := if long then octets.take max else octets
    let errs := octetErrors long got
    let id := s.lnd.nextId
    let s := (s.modLnd fun l => { l with nextId := l.nextId + 1 }).modPort p fun x => { x with rx := x.rx ++ [id] }
    if s.lnd.descFree = 0 then .next ((s.modPort p fun x => { x with bare := x.bare ++ [(id, errs)] }).ltally 20)
    else
      let body := if long || decide (got.length < 4) then got else got.take (got.length - 4)
      let adj := (s.eth.port[p].rxAdj).toInt
      let f : Frame :=
        { Frame.blank id p.val body with
          fcs := got.drop body.length, rxLen := got.length, errs := errs, stamp := time80 ((s.qns : Int) + adj).toNat,
          rel := 8 * (s.strokeCyc : Int) + adj, macDrop := macFilter L p.val body, onGood := [.port p 49] }
      let s := s.modLnd fun l => { l with frames := l.frames ++ [f] }
      let (ok, s) := s.storeTo id arrived
      .next (if ok then (s.enter p id false).reap else s.noBuffer id)

/-- The verdict of a frame that found no descriptor: RX_NO_BUF, and its stamp's count when GOOD (12 R442; 11 R419, R426). -/
def State.bareVerdict (p : Fin 6) (errs : BitVec 8) (s : State) : State :=
  let s := s.tally p 11 1
  if errs = 0 then s.tally p 49 1 else s

/-- Frame `id` has ended: its octets are stored whole, those kept as a FCS too where carrier was lost (12 R441), and it is
classified. -/
def State.endRx (p : Fin 6) (id : Nat) (lost : Bool) (s : State) : Bool × State :=
  let s := s.modFrame id fun f => if lost then { f with octets := f.octets ++ f.fcs, fcs := [] } else { f with fcs := [] }
  let (ok, s) := s.storeTo id (match s.frame? id with
    | some f => f.words
    | none => 0)
  (ok, if ok then s.enter p id true else s)

/-- The MAC's verdict on a stored frame (R313, R316, R419). A frame held for a first fragment is counted when it is released. -/
def State.macVerdict (p : Fin 6) (id : Nat) (symbol align lost : Bool) (s : State) : State :=
  match s.frame? id with
  | none => s
  | some f =>
    let errs := f.errs ||| bool 8 (symbol || align) <<< 2 ||| bool 8 lost <<< 4
    let slow := decide ((s.eth.port[p].link.speed).toNat ≤ 2)
    let v := verdictWord f errs
    let held := match f.wait with | .fragment _ => bit v 0 | _ => false
    let s := if held then s else s.countRx p f errs (align && slow) lost
    (s.modPort p fun e => { e with rx := e.rx.filter (· != id) }).giveVerdict id v

/-- The MAC's verdict on the oldest frame a port is receiving. -/
def execFrameVerdict (p : Fin 6) (symbol align lost : Bool) (s : State) : Host.Outcome State Fault Refusal :=
  match s.eth.port[p].rx with
  | [] => .next s
  | id :: rest =>
    match s.eth.port[p].bare.find? fun b => b.1 == id with
    | some (_, errs) =>
      let s := s.modPort p fun e => { e with rx := rest, bare := e.bare.filter fun b => b.1 != id }
      .next (s.bareVerdict p (errs ||| bool 8 (symbol || align) <<< 2 ||| bool 8 lost <<< 4))
    | none =>
      let (ok, s) := s.endRx p id lost
      .next (if ok then s.macVerdict p id symbol align lost else s.noBuffer id)

/-! Snapshots (11 R436, R437). -/

def Tally.snapshot (clr : Bool) (t : Tally) : Tally :=
  { snap := t.live, live := if clr then Vector.replicate 64 0 else t.live }

/-- All 448 counters are copied into the snapshot bank; with CLR the live ones start again (11 R436, R437). -/
def State.snapTally (clr : Bool) (s : State) : State :=
  let s := s.modEth fun e =>
    { e with port := e.port.map fun p => { p with tally := p.tally.snapshot clr }, snapStroke := fld s.tb.stroke.count 0 20 }
  let s := s.modLnd fun l => { l with tally := l.tally.snapshot clr }
  s.raise evSnapshotDone

def execTallySnapshot (a : Agent) (clr : Bool) (s : State) : Host.Outcome State Fault Refusal :=
  let s := s.paid a
  .next (if s.reaches a then s.snapTally clr else s)

/-! MDIO (11 R438, R439). -/

/-- A write of MDIO_CMD: it starts a transaction, or is refused and counted while one runs. -/
def State.mdioStart (cmd : BitVec 30) (s : State) : State :=
  s.modEth fun e =>
    { e with mdio := match e.mdio.running with
      | some _ => { e.mdio with refused := satInc e.mdio.refused }
      | none => { e.mdio with running := some cmd } }

def execMdioCommand (a : Agent) (cmd : BitVec 30) (s : State) : Host.Outcome State Fault Refusal :=
  let s := s.paid a
  .next (if s.reaches a then s.mdioStart cmd else s)

/-- The transaction reads: Clause 22 OP 2, Clause 45 OP 2 or 3. -/
def mdioReads (cmd : BitVec 30) : Bool :=
  let op := fldN cmd 26 2
  if fldN cmd 28 2 = 1 then decide (2 ≤ op) else op == 2

/-- An MDIO transaction ends (11 R439). -/
def execMdioComplete (data : BitVec 16) (s : State) : Host.Outcome State Fault Refusal :=
  match s.eth.mdio.running with
  | none => .next s
  | some cmd =>
    let res : ResultReg 16 := { data := if mdioReads cmd then data else 0, valid := true, rep := false }
    .next ((s.modEth fun e => { e with mdio := { e.mdio with running := none, res := res } }).raise evMdioDone)

/-! The learning table. -/

/-- Core cycle of the sweep's next visit: entry i at (i + 1)/8192 of its pass of T/2, 250,000,000·T cycles (12 R471). -/
def State.sweepDue (s : State) : Nat := s.lnd.pass + (s.lnd.sweep.toNat + 1) * (s.lo.age * 250000000) / 8192

/-- The sweep visits the next entry; `race` names a frame whose lookup hit it in the same cycle (R482). -/
def State.agingVisit (race : Option Nat) (s : State) : State :=
  let i := s.lnd.sweep.toNat
  let due := s.sweepDue
  let s := s.modLnd fun l => { l with sweep := l.sweep + 1, pass := if l.sweep + 1 = 0 then due else l.pass }
  match s.lnd.lt i with
  | none => s
  | some e =>
    if e.static then s
    else if e.hit then s.modLnd fun l => l.setLt i (some { e with hit := false })
    else
      let racing := match race with
        | some id => match s.frame? id with
          | some f => f.ltHit == some i
          | none => false
        | none => false
      if racing then s.whenGood (race.getD 0) [.lnd 8]
      else (s.modLnd fun l => l.setLt i none).ltally 7

/-- AGING_VISIT at its instant (12 R471). -/
def execAgingVisit (race : Option Nat) (s : State) : Host.Outcome State Fault Refusal :=
  .next (s.whenAt s.sweepDue (·.agingVisit race))

/-- LND.LT_CTRL.FLUSH: dynamic entries whose mask meets `ports` go; BUSY until LT_FLUSH_DONE (12 R472). -/
def State.ltFlush (ports : BitVec 8) (s : State) : State :=
  s.modLnd fun l =>
    { l with flush := true,
             table := l.table.filter fun e => match e.2 with
               | some x => x.static || (x.ports &&& ports) == 0
               | none => false }

def execLtFlush (a : Agent) (ports : BitVec 8) (s : State) : Host.Outcome State Fault Refusal :=
  let s := s.paid a
  .next (if s.reaches a then s.ltFlush ports else s)

def execLtFlushDone (s : State) : Host.Outcome State Fault Refusal :=
  .next (s.modLnd fun l => { l with flush := false })

/-- RESET_MS without a record clears a stream's history (12 R478). -/
def execFrerReset (k : Fin 256) (s : State) : Host.Outcome State Fault Refusal :=
  match memRead none s.lnd.frer k.val with
  | none => .next s
  | some h =>
    .next (s.whenAt (h.last + msCycles (s.lo.resetMs k.val)) fun s =>
      (s.modLnd fun l => { l with frer := memWrite none l.frer k.val none }).ltally 19)

/-! The Offcut table. -/

/-- An entry's lifetime runs out (13 R510). -/
def execOffcutExpiry (e : Fin 64) (s : State) : Host.Outcome State Fault Refusal :=
  match s.grd.ofc[e] with
  | none => .next s
  | some x => .next (s.whenAt x.until_ fun s => (s.modGrd fun g => { g with ofc := vset g.ofc e none }).gcount 8)

/-- Every entry and pending record is freed; held fragments take the miss action (13 R511, R514). -/
def State.ofcFlush (s : State) : State :=
  let s := s.modGrd fun g => { g with ofc := Vector.replicate 64 none, pend := [] }
  s.lnd.frames.foldl (fun s f => match f.wait with
    | .fragment _ => s.unhold f
    | _ => s) s

def execOffcutFlush (a : Agent) (s : State) : Host.Outcome State Fault Refusal :=
  let s := s.paid a
  .next (if s.reaches a then s.ofcFlush else s)

/-- The word GRD.TBL_SEL names: of the active plane's bank, or of the shadow plane's (13 R488). -/
def State.tableWord (s : State) : Word :=
  let L := if s.grd.plane then s.lay.shadow.getD Layout.blank else s.lo
  L.grdWord s.grd.index.toNat

/-- A read of GRD.TBL_DATA: the word, and INDEX moves on (13). -/
def State.tableRead (s : State) : Word × State :=
  (s.tableWord, s.modGrd fun g => { g with index := g.index + 1 })

def execTableDataRead (a : Agent) (s : State) : Host.Outcome State Fault Refusal :=
  let s := s.paid a
  if s.reaches a then
    let (w, s) := s.tableRead
    .next { s with rd := [w.setWidth 32] }
  else .next s

end Sys2Proof.Machine
end

