-- ==== Sys2Proof/Machine/Taps.lean ====
section
/-! DEFINITION. The Landing taps of the Hewers and the Warden port (05 R201-R209, R871, R875; 08 R333; 19). -/

namespace Sys2Proof.Machine

/-- The outcome of an engine's access: a value and the state after it, an access fault, or a stall. -/
inductive Access (α : Type)
  | ok (v : α) (s : State)
  | fault
  | stall (k : StallKind)

/-- The idle control word (05 R202). -/
def idleWord : Word := 0xB0000

/-- A plain value: no green tag. -/
def TWord.plain (w : Word) : TWord := { val := w, green := false }

/-- The head frame of an engine's ingress tap (05 R201, 08 R329). -/
def State.headOf (s : State) : EngineId → Option Frame
  | .hewer n => s.rxHead n
  | .warden => s.wardenHead

/-- Key of an engine's tap among the RX_META sequences: the Warden port is 16. -/
def tapKey : EngineId → Nat
  | .hewer n => n.val
  | .warden => 16

def State.txTap (s : State) : EngineId → TxTap
  | .hewer n => s.hw[n].tx
  | .warden => s.wdn.tx

def State.modTap (e : EngineId) (f : TxTap → TxTap) (s : State) : State :=
  match e with
  | .hewer n => s.modHw n fun h => { h with tx := f h.tx }
  | .warden => s.modWdn fun w => { w with tx := f w.tx }

/-- The SRC code of frames an engine builds: 16 + n, or 7 for the Warden port. -/
def tapSrc : EngineId → Nat
  | .hewer n => 16 + n.val
  | .warden => 7

def tapAct : EngineId → ActId
  | .hewer n => actHewer n
  | .warden => actWarden

/-! The ingress tap. -/

/-- A read of word `i` of the ingress tap window (05 R202, R203, R875). -/
def State.rxRead (e : EngineId) (i : Nat) (s : State) : Access TWord :=
  let head := s.headOf e
  if i < 0x1800 then
    match head with
    | none => .ok (TWord.plain idleWord) s
    | some f =>
      if i < f.arrived then .ok { val := f.rxWord i, green := f.verdict.isNone } s
      else if f.eof then .ok (TWord.plain idleWord) s
      else .stall .load
  else
    let plain (w : Word) : Access TWord := .ok (TWord.plain w) s
    match head with
    | none => if i = 0x1801 then plain idleWord else if i ≤ 0x1808 then plain 0 else .fault
    | some f =>
      match i - 0x1800 with
      | 0 => plain (1#1 ++ bool 1 f.eof ++ bool 1 f.verdict.isSome ++ 0#4 ++ BitVec.ofNat 13 f.arrived)
      | 1 => match f.verdict with
        | some v => plain v
        | none => .stall .verdictRead
      | 2 => plain f.cls
      | 3 =>
        let seq := match f.seqs.find? fun x => x.1 == tapKey e with
          | some (_, k) => k
          | none => 0
        if f.src < 8 then plain (0#8 ++ seq ++ 0#1 ++ BitVec.ofNat 3 f.src : BitVec 20)
        else .ok (TWord.plain (0#8 ++ seq ++ 0#1 ++ s.freeVal 3 : BitVec 20)) s.drawn
      | 4 => plain (word80 f.stamp 0)
      | 5 => plain (word80 f.stamp 1)
      | 6 => plain (word80 f.stamp 2)
      | 7 => plain (word80 f.stamp 3)
      | 8 => plain 0
      | _ => .fault

/-- A write of RX_NEXT (05 R204). -/
def State.nextFrame (e : EngineId) (s : State) : Access Unit :=
  match e with
  | .warden => .ok () s.releaseWarden
  | .hewer n =>
    match s.rxHead n with
    | none => .ok () s
    | some f => if f.verdict.isSome then .ok () (s.releaseHead n) else .stall .rxNext

/-- A write of word `i` of the ingress tap window. -/
def State.rxWrite (e : EngineId) (i : Nat) (s : State) : Access Unit := if i = 0x1808 then s.nextFrame e else .fault

/-! The egress tap (05 R205-R209). -/

/-- Frames queued from a tap: built in full and still held by a queue. -/
def State.queuedFrom (s : State) (e : EngineId) : Nat :=
  s.lnd.frames.countP fun f => f.src == tapSrc e && f.eof && (s.lnd.queue.toList.any (·.contains f.id))

/-- A frame under construction may take a new one: TX_ROOM (05 LSRC 3). -/
def State.txRoom (e : EngineId) (s : State) : State :=
  match e with
  | .hewer n => s.lsrc n 3
  | .warden => s

/-- TX_TSQ's next word leaves (05 TX_TSQ). -/
def State.tsqPop (e : EngineId) (s : State) : State := s.modTap e fun x => { x with tsq := x.tsq.tail }

/-- A read of word `i` of the egress tap window. -/
def State.txRead (e : EngineId) (i : Nat) (s : State) : Access TWord :=
  let x := s.txTap e
  match i with
  | 0 => .ok (TWord.plain x.desc[0]) s
  | 1 => .ok (TWord.plain x.desc[1]) s
  | 2 => .ok (TWord.plain x.desc[2]) s
  | 3 => .ok (TWord.plain 0) s
  | 4 => .ok (TWord.plain 0) s
  | 5 => .ok (TWord.plain (bool 1 x.building.isSome ++ 0#11 ++ satNat 8 (s.queuedFrom e) : BitVec 20)) s
  | 6 => .ok (TWord.plain (x.tsq.headD idleWord)) (s.tsqPop e)
  | _ => .fault

/-- A write of TX_DESC_i (05 R206). -/
def State.txDesc (e : EngineId) (i : Fin 3) (v : Word) (s : State) : Access Unit :=
  if (s.txTap e).building.isSome then .fault
  else .ok () (s.modTap e fun x => { x with desc := vset x.desc i v })

/-- The descriptor of a frame whose SOF is pushed. -/
def TxTap.descriptor (x : TxTap) : TxDesc :=
  let d := x.desc[0]
  { mask := fld d 0 8, tc := fld d 8 3, tsReq := bit d 11,
    at_ := if bit d 12 then some (fld x.desc[2] 0 4 ++ x.desc[1] : BitVec 24) else none, seq := x.seq + 1 }

/-- A frame begins at a tap: a descriptor, if one is free (12 R442). With an island of the Landing off it is freed at once (04 R865).
RX_TS of such a frame is some value of system time (02 R84, log 82). -/
def State.beginFrame (e : EngineId) (s : State) : State :=
  let id := s.lnd.nextId
  let d := (s.txTap e).descriptor
  let s := s.modTap e fun x => { x with building := some id }
  if !s.landingOn then s.modLnd fun l => { l with nextId := l.nextId + 1 }
  else if s.lnd.descFree = 0 then (s.modLnd fun l => { l with nextId := l.nextId + 1 }).ltally 20
  else
    let f : Frame :=
      { Frame.blank id (tapSrc e) [] with
        orig := some (tapAct e), desc := some d, stamp := time80 (ofTime80 (s.freeVal 80)),
        launch := d.at_.map fun l => s.tb.stroke.cyc0 + 4 * l.toNat }
    s.drawn.modLnd fun l => { l with nextId := l.nextId + 1, frames := l.frames ++ [f] }

/-- The frame a tap builds becomes bound to the head frame's verdict (08 R333); one whose earlier request turned out GOOD is bound
anew. -/
def State.bindFrame (e : EngineId) (id : Nat) (s : State) : State :=
  match s.headOf e with
  | some h => if h.verdict.isNone then s.modFrame id fun f => match f.bound with
      | none => { f with bound := some (h.id, none) }
      | some (_, some true) => { f with bound := some (h.id, none) }
      | _ => f
    else s
  | none => s

/-- The pushed word's octets are stored (12 R441). -/
def State.storeOctets (id : Nat) (os : List Octet) (s : State) : State :=
  s.modFrame id fun f =>
    let m := f.octets ++ os
    { f with octets := m, rxLen := m.length }

/-- The frame is complete: counted, graded, its verdict due (05 R205). -/
def State.endFrame (e : EngineId) (id : Nat) (s : State) : State :=
  let s := s.modFrame id fun f => { f with eof := true }
  let s := (s.modTap e fun x => { x with building := none, seq := x.seq + 1 }).place id true
  let s := s.settleTaps (s.lnd.frames.length + 1)
  (s.reap).txRoom e

/-- A push of one frame word, green or not (05 R205-R209, 08 R333). A word with CTL set carries no payload (log 24). -/
def State.txPush (e : EngineId) (v : Word) (green : Bool) (s : State) : Access Unit :=
  let building := (s.txTap e).building
  if bit v 16 = building.isSome then .fault
  else
    let os := if bit v 19 then [] else wordOctets v
    let s := if bit v 16 then s.beginFrame e else s
    let id := (s.txTap e).building.getD 0
    let s := s.storeOctets id os
    let (ok, s) := s.storeTo id (match s.frame? id with
      | some f => f.words
      | none => 0)
    if !ok then .stall .push
    else
      let s := if green then s.bindFrame e id else s
      if bit v 17 then .ok () (s.endFrame e id) else .ok () (s.place id false)

/-- A frame under construction is given up: freed, but for a port that has begun to send it, which runs out of words (05
R208, TX_ABORT). -/
def State.abandonFrame (e : EngineId) (s : State) : State :=
  match (s.txTap e).building with
  | none => s
  | some id =>
    let s := s.modTap e fun x => { x with building := none }
    let going (q : Fin 80) : Bool := decide (q.val < 48) && s.sending (ix 6 (q.val / 8)) id
    ((s.leaveAll id going).modFrame id fun f => { f with chain := [], decided := true, wait := .none }).reap

/-- A write of TX_ABORT. -/
def State.txAbort (e : EngineId) (s : State) : State :=
  if (s.txTap e).building.isSome then (s.abandonFrame e).txRoom e else s

/-- A write of word `i` of the egress tap window. -/
def State.txWrite (e : EngineId) (i : Nat) (v : Word) (green : Bool) (s : State) : Access Unit :=
  match i with
  | 0 => s.txDesc e 0 v
  | 1 => s.txDesc e 1 v
  | 2 => s.txDesc e 2 v
  | 3 => s.txPush e v green
  | 4 => .ok () (s.txAbort e)
  | _ => .fault

end Sys2Proof.Machine
end

