-- ==== Sys2Proof/Machine/Latch.lean ====
section
/-! DEFINITION. How registers are read: latched multi-word values (17 R646, R647) and result registers (17 R649, R650). -/

namespace Sys2Proof.Machine

/-- An agent's set of shadows (17 R647). -/
def readerOf : Agent → Nat
  | .host => 0
  | .warden => 1
  | .hewer n => 2 + n.val

/-- Shadow of the register at offset `off` in reader `r`'s set. -/
def shadowKey (r off : Nat) : Nat := 262144 * r + off / 4

/-- A read of a value's lowest word latches another word of it (17 R646). -/
def State.latch (r off : Nat) (v : BitVec 32) (s : State) : State :=
  s.modHost fun h => { h with shadow := memWrite 0 h.shadow (shadowKey r off) v }

/-- What a latched word reads as. -/
def State.latched (s : State) (r off : Nat) : BitVec 32 := memRead 0 s.host.shadow (shadowKey r off)

/-- Several words latched, each 4 octets on. -/
def State.latchRun (r off : Nat) : List (BitVec 32) → State → State
  | [], s => s
  | v :: vs, s => State.latchRun r (off + 4) vs (s.latch r off v)

/-- VALID and REPEAT of a result register (17 R649). -/
def ResultReg.top {w : Nat} (x : ResultReg w) : BitVec 32 := bitAt x.valid 31 ||| bitAt (!x.valid && x.rep) 30

/-- The data a result register shows. -/
def ResultReg.shown {w : Nat} (x : ResultReg w) : BitVec w := if x.valid || x.rep then x.data else 0

/-- A consuming read (17 R649). -/
def ResultReg.consume {w : Nat} (x : ResultReg w) : ResultReg w := { x with valid := false, rep := x.valid || x.rep }

/-- A new result. -/
def ResultReg.put {w : Nat} (v : BitVec w) (_ : ResultReg w) : ResultReg w := { data := v, valid := true, rep := false }

/-- A queueing result register: VALID and REPEAT (17 R650). -/
def ResultQueue.top {w : Nat} (x : ResultQueue w) : BitVec 32 :=
  bitAt (!x.queue.isEmpty) 31 ||| bitAt (x.queue.isEmpty && x.last.isSome) 30

def ResultQueue.shown {w : Nat} (x : ResultQueue w) : BitVec w := x.queue.headD (x.last.getD 0)

def ResultQueue.consume {w : Nat} (x : ResultQueue w) : ResultQueue w :=
  match x.queue with
  | [] => x
  | v :: vs => { queue := vs, last := some v }

/-- Low word and high word of a counter of up to 40 bits. -/
def lo20 {w : Nat} (x : BitVec w) : BitVec 32 := at32 (fld x 0 20) 0
def hi20 {w : Nat} (x : BitVec w) : BitVec 32 := at32 (fld x 20 20) 0

/-- A saturating counter with its SAT bit in bit 31. -/
def satWord {w : Nat} (c : BitVec w) : BitVec 32 := at32 c 0 ||| bitAt (isSat c) 31

end Sys2Proof.Machine
end

