-- ==== Sys2Proof/Machine/TimeRegs.lean ====
section
/-! DEFINITION. The registers of the TIME block (02, Registers), by offset from 0x0_1000. -/

namespace Sys2Proof.Machine

def schedStateCode : SchedState → BitVec 2
  | .idle => 0
  | .pending => 1
  | .fired => 2
  | .aborted => 3

def schedReasonCode : SchedReason → BitVec 3
  | .none => 0
  | .late => 1
  | .unsynced => 2
  | .cancelled => 3
  | .range => 4

/-- Offset of TIME in Window A. -/
def timeBase : Nat := 0x1000

/-- The TIME block's register at `off` read by agent `a`. -/
def State.timeRead (a : Agent) (off : Nat) (s : State) : BitVec 32 × State :=
  let t := s.tb
  let g := t.regs
  let r := readerOf a
  let plain (v : BitVec 32) : BitVec 32 × State := (v, s)
  let key := timeBase + off
  match off with
  | 0x000 => (at32 (word80 s.time 0) 0, s.latchRun r (key + 4) ((List.range 3).map fun m => at32 (word80 s.time (m + 1)) 0))
  | 0x010 => plain (at32 g.foreign 12 ||| at32 (BitVec.ofNat 4 t.sync.run) 8 ||| at32 s.lo.owner 3 ||| bitAt (t.clk.slew != 0) 2
      ||| at32 (syncCode t.sync.st) 0)
  | 0x014 => (lo20 t.stroke.count, s.latch r (key + 4) (hi20 t.stroke.count))
  | 0x01C => plain (at32 s.lo.period 0)
  | 0x020 => plain (at32 (s.lo.phaseAt 0) 0)
  | 0x024 => plain (at32 (s.lo.phaseAt 1) 0)
  | 0x028 => plain (at32 (s.lo.phaseAt 2) 0)
  | 0x040 => plain (at32 (fld (BitVec.ofInt 40 t.clk.trim) 0 20) 0)
  | 0x044 => plain (at32 (fld (BitVec.ofInt 40 t.clk.trim) 20 20) 0)
  | 0x060 => plain (at32 g.holdMs 16 ||| at32 g.logIvl 12)
  | 0x064 => plain (at32 g.limit 0)
  | 0x06C => plain (at32 g.slipTotal 20 ||| at32 g.slipLast 0)
  | 0x070 => plain (at32 g.stepLost 20 ||| at32 g.steps 0)
  | 0x074 => plain (at32 g.lateWin 0)
  | 0x080 => plain (at32 t.cap[1].ovr 12 ||| at32 t.cap[0].ovr 4 ||| bitAt t.cap[1].en 1 ||| bitAt t.cap[0].en 0)
  | _ =>
    if off = 0x004 ∨ off = 0x008 ∨ off = 0x00C ∨ off = 0x018 then plain (s.latched r key)
    else if 0x02C ≤ off ∧ off < 0x03C then plain (at32 (s.lo.origin (ix 4 ((off - 0x02C) / 4))) 0)
    else if off = 0x078 ∨ off = 0x07C then
      let o := t.pps[(ix 2 ((off - 0x078) / 4))]
      plain (bitAt o.quiet 31 ||| at32 o.mode 29 ||| at32 o.width 16 ||| at32 o.offset 0)
    else if 0x090 ≤ off ∧ off < 0x0B0 then
      let n : Fin 2 := ix 2 ((off - 0x090) / 0x10)
      let c := t.cap[n]
      if off % 0x10 = 0 then
        let shown := if c.valid || c.rep then c.time else 0
        let s := s.latchRun r (key + 4) ((List.range 3).map fun m => at32 (word80 shown (m + 1)) 0)
        (bitAt c.valid 31 ||| bitAt (!c.valid && c.rep) 30 ||| at32 (word80 shown 0) 0,
          s.modTb fun t => { t with cap := vset t.cap n { c with valid := false, rep := c.valid || c.rep } })
      else plain (s.latched r key)
    else if 0x100 ≤ off ∧ off < 0x300 then
      let e := t.sched[(ix 16 ((off - 0x100) / 0x20))]
      match off % 0x20 with
      | 0x00 => plain (at32 e.mask 8 ||| at32 e.action 4 ||| bitAt e.needSync 3 ||| bitAt e.stroke 2)
      | 0x04 => plain (at32 e.tgt[0] 0)
      | 0x08 => plain (at32 e.tgt[1] 0)
      | 0x0C => plain (at32 e.tgt[2] 0)
      | 0x10 => plain (at32 e.tgt[3] 0)
      | 0x14 => plain (at32 e.owner 8 ||| at32 (schedReasonCode e.reason) 4 ||| at32 (schedStateCode e.st) 0)
      | _ => plain 0
    else plain 0

/-- LOG_IVL as stored: -8 as -7, 4 to 7 as 3 (TIME.SYNC_CFG). -/
def storedIvl (v : BitVec 4) : BitVec 4 := if v = 8 then 9 else if v = 4 ∨ v = 5 ∨ v = 6 ∨ v = 7 then 3 else v

/-- A zero stored as 1. -/
def atLeastOne {w : Nat} (v : BitVec w) : BitVec w := if v = 0 then 1 else v

/-- The TIME block's register at `off` written by agent `a` (R34, R67-R69, R85, R87). -/
def State.timeWrite (a : Agent) (off : Nat) (v : BitVec 32) (s : State) : State :=
  let w : Word := fld v 0 20
  let open_ (f : TimeRegs → TimeRegs) : State := if s.heard a 54 then s.modTimeRegs f else s
  let timer (f : Timebase → Timebase) : State := if s.heard a 54 then s.modTb f else s
  match off with
  | 0x040 => s.byOwner a (·.modHeld fun h => { h with rate := s.toHold w })
  | 0x044 => s.byOwner a (·.commitRate w)
  | 0x048 => s.byOwner a (·.modHeld fun h => { h with adj := s.toHold w })
  | 0x04C => s.byOwner a (·.commitAdj w)
  | 0x050 => s.byOwner a (·.modHeld fun h => { h with set := vset h.set 0 (s.toHold w) })
  | 0x054 => s.byOwner a (·.modHeld fun h => { h with set := vset h.set 1 (s.toHold w) })
  | 0x058 => s.byOwner a (·.modHeld fun h => { h with set := vset h.set 2 (s.toHold w) })
  | 0x05C => s.byOwner a (·.commitSet w)
  | 0x060 => open_ fun g => { g with holdMs := atLeastOne (fld v 16 16), logIvl := storedIvl (fld v 12 4) }
  | 0x064 => open_ fun g => { g with limit := atLeastOne w }
  | 0x068 => s.byOwner a (·.putMeas w)
  | 0x074 => open_ fun g => { g with lateWin := atLeastOne (fld v 0 8) }
  | 0x080 => timer fun t =>
    { t with cap := Vector.ofFn fun n : Fin 2 => { t.cap[n] with en := bit v n.val } }
  | _ =>
    if off = 0x078 ∨ off = 0x07C then
      timer fun t => { t with pps := vmod t.pps (ix 2 ((off - 0x078) / 4)) fun o =>
        { o with quiet := bit v 31, mode := fld v 29 2, width := fld v 16 13, offset := fld v 0 16 } }
    else if 0x100 ≤ off ∧ off < 0x300 then
      let n : Fin 16 := ix 16 ((off - 0x100) / 0x20)
      match off % 0x20 with
      | 0x00 => s.schedCtrl a n v
      | 0x04 => s.schedTgt a n 0 w
      | 0x08 => s.schedTgt a n 1 w
      | 0x0C => s.schedTgt a n 2 w
      | 0x10 => s.schedTgt a n 3 w
      | _ => s
    else s

end Sys2Proof.Machine
end

