-- ==== Sys2Proof/Machine/Can.lean ====
section
/-! DEFINITION. The CAN controllers (14): message RAM, filters, transmission, timed buffers, errors and registers. -/

namespace Sys2Proof.Machine

def State.modCan (c : Fin 4) (f : Can → Can) (s : State) : State := { s with can := vmod s.can c f }

/-- The owner of CAN_c as an agent code: a Hewer, else the Warden (R516). -/
def Layout.canOwnerCode (L : Layout) (c : Fin 4) : BitVec 5 := match L.canOwner c.val with
  | some n => BitVec.ofNat 5 n.val
  | none => 16

/-- The island of CAN_c is on. -/
def State.canOn (s : State) (c : Fin 4) : Bool := s.unitOn (48 + c.val / 2)

/-- Counter `i` of CAN_c (CAN.CNT_i). -/
def State.canCount (c : Fin 4) (i : Fin 8) (s : State) : State :=
  let k := s.can[c].cnt[i]
  (s.modCan c fun x => { x with cnt := vset x.cnt i (satInc k) }).satEvent k 1

/-! Message RAM (R522). -/

/-- Loft address of RAM word `x` of CAN_c. -/
def canRam (c : Fin 4) (x : Nat) : Nat := 0x78000 + 0x2000 * c.val + x

def State.canWord (s : State) (c : Fin 4) (x : Nat) : Word := memRead 0 s.loft (canRam c x)
def State.setCanWord (c : Fin 4) (x : Nat) (v : Word) (s : State) : State :=
  { s with loft := memWrite 0 s.loft (canRam c x) v }

/-- Header word `j` of buffer `b`. -/
def State.canHdr (s : State) (c : Fin 4) (b : Fin 128) (j : Nat) : Word := s.canWord c (12 * b.val + j)
def State.setHdr (c : Fin 4) (b : Fin 128) (j : Nat) (v : Word) (s : State) : State := s.setCanWord c (12 * b.val + j) v

/-- TXS codes. -/
def txsIdle : BitVec 3 := 0
def txsPending : BitVec 3 := 1
def txsActive : BitVec 3 := 2
def txsDone : BitVec 3 := 3
def txsDeferred : BitVec 3 := 4
def txsLate : BitVec 3 := 5
def txsAborted : BitVec 3 := 6
def txsFailed : BitVec 3 := 7

def State.txs (s : State) (c : Fin 4) (b : Fin 128) : BitVec 3 := fld (s.canHdr c b 0) 10 3

/-- H0 with another TXS. -/
def withTxs (h0 : Word) (t : BitVec 3) : Word := (fld h0 13 7 ++ t ++ fld h0 0 10 : BitVec 20)

def State.setTxs (c : Fin 4) (b : Fin 128) (t : BitVec 3) (s : State) : State := s.setHdr c b 0 (withTxs (s.canHdr c b 0) t)

/-- DIR of a buffer. -/
def State.canDir (s : State) (c : Fin 4) (b : Fin 128) : Nat := fldN (s.canHdr c b 1) 18 2
def State.dataPtr (s : State) (c : Fin 4) (b : Fin 128) : Nat := fldN (s.canHdr c b 1) 0 13
def State.dataWords (s : State) (c : Fin 4) (b : Fin 128) : Nat := fldN (s.canHdr c b 2) 0 11
/-- AT: a timed buffer. -/
def State.isAt (s : State) (c : Fin 4) (b : Fin 128) : Bool := bit (s.canHdr c b 1) 17

/-- A buffer is usable (R524). -/
def State.usable (s : State) (c : Fin 4) (b : Fin 128) : Bool :=
  decide (0x700 ≤ s.dataPtr c b) && decide (s.dataPtr c b + s.dataWords c b ≤ 0x2000)

/-- Data words a frame needs (R522). -/
def wordsNeeded (xlf rtr : Bool) (len : Nat) : Nat := if rtr then 0 else (len + 1) / 2 + if xlf then 2 else 0

/-! Identifiers and filters (R526, R527). -/

def headIdent (h3 h4 : Word) : BitVec 29 := (fld h4 0 9 ++ h3 : BitVec 29)

/-- Filter `f` matches a frame (R526). -/
def State.filterMatches (s : State) (c : Fin 4) (f : Nat) (fr : CanFrame) : Bool :=
  let w (j : Nat) := s.canWord c (0x600 + 4 * f + j)
  let id : BitVec 29 := (fld (w 2) 0 9 ++ w 1 : BitVec 29)
  let mask : BitVec 29 := (fld (w 2) 9 9 ++ w 3 : BitVec 29)
  bit (w 0) 19 && bit (w 0) 17 == fr.xlf && (fr.xlf || bit (w 0) 18 == fr.ide) && (fr.ident ^^^ id) &&& mask == 0

/-- Where a valid frame goes. -/
inductive CanTarget
  | discard
  | hpm (h : Fin 4) (f : Nat)
  | buffer (b : Fin 128) (f : Option Nat)
  deriving DecidableEq, Repr

/-- The first filter that matches decides (R527); filter none stands for the default rule. -/
def State.canTarget (s : State) (c : Fin 4) (fr : CanFrame) : CanTarget :=
  match (List.range 64).find? fun f => s.filterMatches c f fr with
  | some f =>
    let f0 := s.canWord c (0x600 + 4 * f)
    if bit f0 13 then .discard
    else if bit f0 16 && !bit f0 17 then .hpm (ix 4 (fldN f0 14 2)) f
    else .buffer (ix 128 (fldN f0 6 7)) (some f)
  | none =>
    let r := s.can[c].rxcfg
    if bit r 8 then .buffer (ix 128 (fldN r 0 7)) none else .discard

/-! Stamps (R540-R542). -/

/-- The stamp counter (R541). -/
def State.canStampCount (s : State) (c : Fin 4) (ago : Nat) : BitVec 40 :=
  BitVec.ofNat 40 ((s.tb.clk.cycles - s.can[c].stamp0 - ago) / 4)

/-- The stamp of a SOF `ago` core cycles back: 80 bits over H8 to H11. -/
def State.canStamp (s : State) (c : Fin 4) (ago : Nat) : BitVec 80 :=
  if bit s.can[c].mode 8 then time80 (s.tb.clk.qnsAgo ago) else (s.canStampCount c ago).setWidth 80

/-- Header words H3 to H11 of a received frame (R522). -/
def canHeader (fr : CanFrame) (filter : Option Nat) (stamp : BitVec 80) : List Word :=
  let h4 : Word := (0#5 ++ bool 1 fr.esi ++ bool 1 fr.brs ++ bool 1 fr.xlf ++ bool 1 fr.fdf ++ bool 1 fr.rtr ++ bool 1 fr.ide
    ++ fld fr.ident 20 9 : BitVec 20)
  [fld fr.ident 0 20, h4, fr.len.setWidth 20, fr.xl &&& 0xFF1FF,
   (match filter with | some f => BitVec.ofNat 20 f | none => 0x40)] ++ (List.range 4).map (word80 stamp)

/-- Data words as stored: bits 19:16 zero (R522). -/
def canData (fr : CanFrame) : List Word :=
  (List.range (wordsNeeded fr.xlf fr.rtr fr.len.toNat)).map fun i => fr.data.getD i 0 &&& 0x0FFFF

/-- H0 after a delivery: SEQ + 1, NEW_DATA, OVR where unread data is overwritten (R530, R531). -/
def deliveredH0 (h0 : Word) : Word :=
  let seq : BitVec 4 := fld h0 15 4 + 1
  (1#1 ++ seq ++ 0#1 ++ bool 1 (bit h0 13 || bit h0 19) ++ fld h0 0 13 : BitVec 20)

/-- A run of RAM words written. -/
def State.setCanRun (c : Fin 4) (x : Nat) : List Word → State → State
  | [], s => s
  | v :: vs, s => State.setCanRun c (x + 1) vs (s.setCanWord c x v)

/-- A frame for a buffer that cannot take it: OVR, counted lost (R531). -/
def State.canLost (c : Fin 4) (b : Fin 128) (s : State) : State :=
  (s.setHdr c b 0 (setBit (s.canHdr c b 0) 13 true)).canCount c 1

/-- A frame delivered to buffer `b` (R530, R531). -/
def State.canToBuffer (c : Fin 4) (b : Fin 128) (f : Option Nat) (fr : CanFrame) (stamp : BitVec 80) (s : State) : State :=
  let data := canData fr
  let h0 := s.canHdr c b 0
  let full := bit h0 19 && !bit (s.canHdr c b 1) 15
  if s.canDir c b ≠ 1 ∨ !s.usable c b ∨ s.dataWords c b < data.length ∨ full then s.canLost c b
  else
    let s := s.setCanRun c (s.dataPtr c b) data
    let s := s.setCanRun c (12 * b.val + 3) (canHeader fr f stamp)
    ((s.setHdr c b 0 (deliveredH0 h0)).canCount c 0).raise (evCan c 4)

/-- A frame delivered to HPM buffer `h` (R535): 32 data words, no overwriting. -/
def State.canToHpm (c : Fin 4) (h : Fin 4) (f : Nat) (fr : CanFrame) (stamp : BitVec 80) (s : State) : State :=
  let data := canData fr
  let hp := s.can[c].hpm[h]
  let h0 : Word := hp[0]
  if bit h0 19 ∨ 32 < data.length then
    (s.modCan c fun x => { x with hpm := vset x.hpm h (hp.set 0 (setBit h0 13 true)) }).canCount c 1
  else
    let words := canHeader fr (some f) stamp
    let v : Vector Word 44 := Vector.ofFn fun j : Fin 44 =>
      if j.val = 0 then deliveredH0 h0
      else if j.val < 3 then hp[j]
      else if j.val < 12 then words.getD (j.val - 3) 0
      else if j.val - 12 < data.length then data.getD (j.val - 12) 0 else hp[j]
    ((s.modCan c fun x => { x with hpm := vset x.hpm h v }).canCount c 0).raise (evCan c h.val)

/-! Error confinement (R546-R549). -/

/-- The state that the error counters give (R546). -/
def canStateOf (tec : BitVec 9) (rec_ : BitVec 8) : CanState :=
  if 255 < tec.toNat then .busOff
  else if 128 ≤ tec.toNat ∨ 128 ≤ rec_.toNat then .errorPassive
  else if 96 ≤ tec.toNat ∨ 96 ≤ rec_.toNat then .warning
  else .errorActive

/-- A change of STATE (R547), with the entry to RECOVERING that RECOVERY = 0 makes at once (R548). -/
def State.canTo (c : Fin 4) (st : CanState) (s : State) : State :=
  if s.can[c].st = st then s
  else
    let s := (s.modCan c fun x => { x with st := st }).raise (evCan c 6)
    if st = .busOff then
      let s := s.canCount c 6
      if bit s.can[c].mode 9 then s else (s.modCan c fun x => { x with st := .recovering }).raise (evCan c 6)
    else s

/-- The counters take new values, and STATE follows. -/
def State.canCounters (c : Fin 4) (tec : BitVec 9) (rec_ : BitVec 8) (s : State) : State :=
  (s.modCan c fun x => { x with tecC := tec, recC := rec_ }).canTo c (canStateOf tec rec_)

/-- OP. -/
def Can.op (x : Can) : Nat := fldN x.mode 0 3

/-- The controller takes part in bus traffic (R521). -/
def State.canBus (s : State) (c : Fin 4) : Bool :=
  let x := s.can[c]
  s.canOn c && x.joined && x.op != 0 && x.st != .busOff && x.st != .recovering && s.pwr.pllB

/-- Error counters after a frame received well: ISO 11898-1's step down (log 25). -/
def State.goodRec (c : Fin 4) (s : State) : State :=
  let x := s.can[c]
  if x.op = 2 then s
  else if 127 < x.recC.toNat then
    s.drawn.canCounters c x.tecC (BitVec.ofNat 8 (119 + (s.freeVal 8).toNat % 9))
  else s.canCounters c x.tecC (x.recC - if x.recC = 0 then 0 else 1)

/-- The RX input is the controller's own TX: LOOP_INT and LOOP_EXT (14, operating modes). -/
def Can.looped (x : Can) : Bool := x.op == 4 || x.op == 5

/-- A valid frame goes where the filters say, read as they then stand (R527, R528, R530; log 179). -/
def State.canDeliver (c : Fin 4) (f : CanFrame) (stamp : BitVec 80) (s : State) : State :=
  match s.canTarget c f with
  | .discard => s
  | .hpm h i => s.canToHpm c h i f stamp
  | .buffer b i => s.canToBuffer c b i f stamp

/-- A frame of the bus reaches its validity point without error (R529, R530); in a loop mode none is heard. -/
def execCanFrameValid (c : Fin 4) (f : CanFrame) (sofAgo : Nat) (s : State) : Host.Outcome State Fault Refusal :=
  let m := s.can[c].mode
  if !s.canBus c || s.can[c].looped || (f.fdf && !bit m 4) || (f.xlf && !bit m 5) then .next s
  else
    let stamp := s.canStamp c sofAgo
    .next ((s.goodRec c).canDeliver c f stamp)

/-! Transmission (R536-R539). -/

/-- LEN is a length the frame's format carries (R536). -/
def canLenOk (h4 : Word) (len : Nat) : Bool :=
  if bit h4 12 then decide (1 ≤ len) && decide (len ≤ 2048)
  else if bit h4 11 then decide (len ≤ 8) || [12, 16, 20, 24, 32, 48, 64].contains len
  else if bit h4 10 then decide (len ≤ 15)
  else decide (len ≤ 8)

/-- The result of a transmit request (R536): 0 accepted. -/
def State.requestResult (s : State) (c : Fin 4) (b : Fin 128) : BitVec 3 :=
  let t := s.txs c b
  let h4 := s.canHdr c b 4
  let len := fldN (s.canHdr c b 5) 0 12
  if s.canDir c b ≠ 2 then 1
  else if t = txsPending ∨ t = txsActive ∨ t = txsDeferred then 2
  else if s.isAt c b ∧ !bit s.can[c].mode 8 then 3
  else if !s.usable c b ∨ !canLenOk h4 len ∨ s.dataWords c b < wordsNeeded (bit h4 12) (bit h4 10 && !bit h4 11 && !bit h4 12) len then 4
  else 0


/-- TXREQ with CMD 2 (R539). -/
def State.canAbort (c : Fin 4) (b : Fin 128) (s : State) : State :=
  let t := s.txs c b
  if t = txsPending ∨ t = txsDeferred then s.setTxs c b txsAborted
  else match s.can[c].tx with
    | some x => if x.buf = b then s.modCan c fun y => { y with tx := some { x with abort := true } } else s
    | none => s

/-- A write by an agent that owns CAN_c; any other is discarded and counted (R517). -/
def State.canByOwner (a : Agent) (c : Fin 4) (f : State → State) (s : State) : State :=
  if !s.heard a (48 + c.val / 2) then s else if agentCode a = s.lo.canOwnerCode c then f s else s.canCount c 7

def execCanTxAbort (a : Agent) (c : Fin 4) (b : Fin 128) (s : State) : Host.Outcome State Fault Refusal :=
  let s := s.paid a
  .next (s.canByOwner a c fun s => s.canAbort c b)

/-- A nominal bit in quarter-nanoseconds. -/
def Can.nominalQ (x : Can) : Nat := 25 * (fldN x.nbtA 0 9 + 1) * (3 + fldN x.nbtB 7 8 + fldN x.nbtB 0 7)
/-- A data-phase bit in quarter-nanoseconds. -/
def dataBitQ (r : BitVec 20) : Nat := 25 * (fldN r 15 5 + 1) * (3 + fldN r 10 5 + fldN r 6 4)

/-- The worst-case duration of a buffer's frame, in quarter-nanoseconds (R543). -/
def State.canDuration (s : State) (c : Fin 4) (b : Fin 128) : Nat :=
  let x := s.can[c]
  let h4 := s.canHdr c b 4
  let n := fldN (s.canHdr c b 5) 0 12
  let tN := x.nominalQ
  if bit h4 12 then 36 * tN + (116 + 8 * n + ceilDiv (112 + 8 * n) 10) * dataBitQ x.xbt
  else if bit h4 11 then
    let a := if bit h4 9 then 44 else 21
    let k := if n ≤ 16 then 17 else 21
    let w := 5 + 8 * n + ceilDiv (5 + 8 * n) 4 + 4 + k + ceilDiv (4 + k) 4
    (a + 10) * tN + w * (if bit h4 13 then dataBitQ x.dbt else tN)
  else
    let n := if bit h4 10 then 0 else n
    if bit h4 9 then (8 * n + 64 + (8 * n + 53) / 4) * tN else (8 * n + 44 + (8 * n + 33) / 4) * tN

/-- OPEN and S_max of a timed buffer, in stroke-relative quarter-nanoseconds (R544). -/
def State.canWindow (s : State) (c : Fin 4) (b : Fin 128) : Int × Int :=
  let v (j : Nat) : Nat := fldN (s.canHdr c b j) 0 20 + 2 ^ 20 * fldN (s.canHdr c b (j + 1)) 0 4
  (32 * (v 8 : Int), 32 * ((v 10 : Int) - s.can[c].tguard.toNat) - s.canDuration c b)

/-- The occurrence of timed buffer `b` in the running stroke is over (R545). -/
def State.canOver (s : State) (c : Fin 4) (b : Fin 128) : Bool := memRead none s.can[c].missed b.val == some s.tb.stroke.count

/-- TXREQ with CMD 1. A timed buffer requested after S_max waits for the next stroke's occurrence (R545, log 179). -/
def State.canRequest (c : Fin 4) (b : Fin 128) (s : State) : State :=
  let r := s.requestResult c b
  let s := s.modCan c fun x => { x with txres := r }
  if r = 0 then
    let late := s.isAt c b && s.tb.stroke.running && decide ((s.canWindow c b).2 < 8 * (s.strokeCyc : Int))
    (s.modCan c fun x => { x with missed := memWrite none x.missed b.val (if late then some s.tb.stroke.count else none) }).setTxs
      c b txsPending
  else s

def execCanTxRequest (a : Agent) (c : Fin 4) (b : Fin 128) (s : State) : Host.Outcome State Fault Refusal :=
  let s := s.paid a
  .next (s.canByOwner a c fun s => s.canRequest c b)

/-- The buffer may be entered into arbitration now (R537, R544). -/
def State.canReady (s : State) (c : Fin 4) (b : Fin 128) : Bool :=
  let t := s.txs c b
  if s.canDir c b ≠ 2 then false
  else if s.isAt c b then
    let (o, m) := s.canWindow c b
    let now : Int := 8 * s.strokeCyc
    (t == txsPending || t == txsDeferred) && !s.canOver c b && s.tb.stroke.running && decide (o ≤ now) && decide (now ≤ m)
  else t == txsPending

/-- A buffer's rank in arbitration: the lower wins (R537). -/
def State.arbKey (s : State) (c : Fin 4) (b : Fin 128) : Nat :=
  let h4 := s.canHdr c b 4
  let id := (headIdent (s.canHdr c b 3) h4).toNat
  let rtr := if bit h4 10 ∧ !bit h4 11 ∧ !bit h4 12 then 1 else 0
  if bit h4 9 ∧ !bit h4 12 then ((id / 2 ^ 18 * 2 + 1) * 2 + 1) * 2 ^ 19 + (id % 2 ^ 18) * 2 + rtr
  else ((id % 2 ^ 11 * 2 + rtr) * 2) * 2 ^ 19

/-- The buffer that would win, ties to the lower index. -/
def State.arbWinner (s : State) (c : Fin 4) : Option (Fin 128) :=
  ((List.finRange 128).filter fun b => s.canReady c b).foldl (fun (best : Option (Fin 128)) b =>
    match best with
    | none => some b
    | some w => if s.arbKey c b < s.arbKey c w then some b else some w) none

/-- The frame that buffer `b` holds, as the transmit store takes it (R522, R537). -/
def State.canFrame (s : State) (c : Fin 4) (b : Fin 128) : CanFrame :=
  let h4 := s.canHdr c b 4
  let xlf := bit h4 12
  let fdf := bit h4 11
  let rtr := bit h4 10 && !fdf && !xlf
  let len : BitVec 12 := fld (s.canHdr c b 5) 0 12
  { ident := headIdent (s.canHdr c b 3) h4, ide := bit h4 9, rtr := rtr, fdf := fdf, xlf := xlf, brs := bit h4 13 && bit s.can[c].mode 6,
    esi := fdf && s.can[c].st == .errorPassive, len := len, xl := s.canHdr c b 6 &&& 0xFF1FF,
    data := (List.range (wordsNeeded xlf rtr len.toNat)).map fun i => s.canWord c (s.dataPtr c b + i) &&& 0x0FFFF }

/-- The controller enters the winning buffer into arbitration (R537). -/
def execCanTxStart (c : Fin 4) (s : State) : Host.Outcome State Fault Refusal :=
  let x := s.can[c]
  if !s.canBus c || x.tx.isSome || !([1, 4, 5].contains x.op) then .next s
  else match s.arbWinner c with
    | none => .next s
    | some b =>
      let x : CanTx :=
        { buf := b, frame := s.canFrame c b, stamp := s.canStamp c 0, abort := false, late := s.txs c b == txsDeferred }
      .next ((s.modCan c fun y => { y with tx := some x }).setTxs c b txsActive)

/-- A transmission succeeds (R538). -/
def State.canSent (c : Fin 4) (t : CanTx) (s : State) : State :=
  let s := s.setTxs c t.buf txsDone
  let s := s.setCanRun c (12 * t.buf.val + 8) ((List.range 4).map (word80 t.stamp))
  let s := (s.modCan c fun x => { x with tx := none }).canCount c 2
  let x := s.can[c]
  let s := if x.op = 2 then s else s.canCounters c (x.tecC - if x.tecC = 0 then 0 else 1) x.recC
  let s := { s with sent := .can c t.buf t.frame :: s.sent }
  s.raise (evCan c 5)

/-- A transmission succeeds; in a loop mode the controller has received its own frame at the validity point before (14, operating
modes). -/
def execCanTxDone (c : Fin 4) (s : State) : Host.Outcome State Fault Refusal :=
  .next (match s.can[c].tx with
    | none => s
    | some t =>
      if !s.canOn c then s
      else if s.can[c].looped then (s.canDeliver c t.frame t.stamp).canSent c t
      else s.canSent c t)

/-- The buffer in arbitration goes back to waiting. -/
def CanTx.back (t : CanTx) : BitVec 3 := if t.abort then txsAborted else if t.late then txsDeferred else txsPending

/-- Arbitration is lost (R538, R539). -/
def execCanArbitrationLoss (c : Fin 4) (s : State) : Host.Outcome State Fault Refusal :=
  match s.can[c].tx with
  | none => .next s
  | some t => .next (if s.canOn c then ((s.modCan c fun x => { x with tx := none }).setTxs c t.buf t.back).canCount c 3 else s)

/-- The buffer in transmission ends without success: PENDING again, or FAILED with ONE_SHOT (R538, R549). -/
def State.canTxFail (c : Fin 4) (s : State) : State :=
  match s.can[c].tx with
  | none => s
  | some t =>
    let oneShot := bit (s.canHdr c t.buf 1) 15
    let st := if t.abort then txsAborted else if oneShot then txsFailed else t.back
    (s.modCan c fun x => { x with tx := none }).setTxs c t.buf st

/-- A bus error (R546, R547); the counters' new values are ISO 11898-1's, and come with the command. -/
def execCanBusError (c : Fin 4) (type : BitVec 3) (phase : BitVec 2) (tec rec_ : Nat) (s : State) :
    Host.Outcome State Fault Refusal :=
  if !s.canBus c then .next s
  else
    let s := (s.modCan c fun x => { x with errType := type, errPhase := phase }).canCount c 4
    let s := s.canTxFail c
    .next (if s.can[c].op = 2 then s else s.canCounters c (satNat 9 tec) (satNat 8 rec_))

/-- CTRL.RECOVER (R548). -/
def State.canRecover (c : Fin 4) (s : State) : State :=
  if s.can[c].st = .busOff then s.canTo c .recovering else s

def execCanRecover (a : Agent) (c : Fin 4) (s : State) : Host.Outcome State Fault Refusal :=
  let s := s.paid a
  .next (s.canByOwner a c (·.canRecover c))

/-- 128 recovery sequences have passed (R548). -/
def execCanRecoveryDone (c : Fin 4) (s : State) : Host.Outcome State Fault Refusal :=
  if s.can[c].st == .recovering && s.canOn c then
    .next ((s.modCan c fun x => { x with tecC := 0, recC := 0 }).canTo c .errorActive)
  else .next s

/-- Time passes until core cycle `k`, or until the stroke's end where that comes first. -/
def State.runWithin (k : Nat) (s : State) : State :=
  match s.tb.stroke.ends with
  | some e => if s.beforeEnd k then s.runToCycle k else s.runTo e
  | none => s.runToCycle k

/-- A timed buffer's occurrence fails, as S_max passes or at the stroke's end before it (R545). -/
def execCanWindowMiss (c : Fin 4) (b : Fin 128) (s : State) : Host.Outcome State Fault Refusal :=
  let t := s.txs c b
  let count := s.tb.stroke.count
  let waiting := (t == txsPending || t == txsDeferred) && !s.canOver c b
  if !(s.canOn c && s.isAt c b && waiting && s.tb.stroke.running && decide (s.canDir c b = 2)) then .next s
  else
    let (_, m) := s.canWindow c b
    let k := s.tb.stroke.cyc0 + (m / 8 + 1).toNat
    let s := s.runWithin k
    let drop := bit (s.canHdr c b 1) 16 || t == txsDeferred
    let s := if drop then (s.setTxs c b txsLate).modCan c fun x => { x with missed := memWrite none x.missed b.val none }
      else (s.setTxs c b txsDeferred).modCan c fun x => { x with missed := memWrite none x.missed b.val (some count) }
    .next ((s.canCount c 5).raise (evCan c 7))

/-- CAN.ACK (R534, R535). -/
def State.canAck (c : Fin 4) (v : Word) (s : State) : State :=
  let clear (h0 : Word) : Word := if fld h0 15 4 = fld v 16 4 then setBit (setBit h0 19 false) 13 false else h0
  if bit v 8 then
    let h : Fin 4 := ix 4 (fldN v 0 2)
    s.modCan c fun x => { x with hpm := vmod x.hpm h fun w => w.set 0 (clear w[0]) }
  else
    let b : Fin 128 := ix 128 (fldN v 0 7)
    s.setHdr c b 0 (clear (s.canHdr c b 0))

def execCanAck (a : Agent) (c : Fin 4) (v : Word) (s : State) : Host.Outcome State Fault Refusal :=
  let s := s.paid a
  .next (s.canByOwner a c fun s => s.canAck c v)

/-- Bit timing that keeps the controller in INIT (R519). -/
def Can.badTiming (x : Can) (mode : BitVec 13) : Bool :=
  let n := x.nominalQ
  let tqN := 3 + fldN x.nbtB 7 8 + fldN x.nbtB 0 7
  let sjw := fldN x.nbtA 9 7
  let data (r : BitVec 20) (least : Nat) : Bool :=
    let d := dataBitQ r
    decide (d < least) || decide (n < d) || decide (3 + fldN r 10 5 + fldN r 6 4 < 5)
  let sjwBad (r : BitVec 20) : Bool := decide (fldN r 10 5 < fldN r 2 4) || decide (fldN r 6 4 < fldN r 2 4)
  decide (n < 4000) || decide (400000 < n) || decide (tqN < 8)
    || decide (fldN x.nbtB 7 8 < sjw) || decide (fldN x.nbtB 0 7 < sjw)
    || (bit mode 4 && data x.dbt 500) || (bit mode 5 && !bit mode 4) || (bit mode 5 && data x.xbt 200)
    || sjwBad x.dbt || sjwBad x.xbt

/-- With RECOVERY = 0 a controller in BUS_OFF recovers (R548). -/
def State.canRecovery (c : Fin 4) (s : State) : State :=
  if s.can[c].st = .busOff ∧ !bit s.can[c].mode 9 then s.canTo c .recovering else s

/-- A write of CAN.MODE (R519-R521, R548). A transmission that the entry to INIT breaks off is one that has lost arbitration (log 179). -/
def State.canMode (c : Fin 4) (v : BitVec 32) (s : State) : State :=
  let x := s.can[c]
  let op := if 5 < fldN v 0 3 then 0 else fldN v 0 3
  let free := x.op == 0
  -- FD_EN, XL_EN, BRS_EN, TMODE, XLES hold their values outside INIT (R520)
  let keep (i : Nat) : BitVec 13 := if bit (if free then fld v 0 13 else x.mode) i then 1#13 <<< i else 0
  let set_ (i : Nat) : BitVec 13 := if bit v i then 1#13 <<< i else 0
  let m : BitVec 13 := set_ 12 ||| keep 10 ||| set_ 9 ||| keep 8 ||| keep 6 ||| keep 5 ||| keep 4
  if free && decide (op ≠ 0) then
    (if x.badTiming m then s.modCan c fun x => { x with mode := m, cfgErr := true }
    else s.modCan c fun x => { x with mode := m ||| BitVec.ofNat 13 op, cfgErr := false, joined := false }).canRecovery c
  else if op = 0 then
    let s := match x.tx with
      | some t => s.setTxs c t.buf t.back
      | none => s
    (s.modCan c fun x => { x with mode := m, joined := false, tx := none }).canRecovery c
  else (s.modCan c fun x => { x with mode := m ||| BitVec.ofNat 13 op }).canRecovery c

def execCanModeWrite (a : Agent) (c : Fin 4) (v : BitVec 32) (s : State) : Host.Outcome State Fault Refusal :=
  let s := s.paid a
  .next (s.canByOwner a c fun s => s.canMode c v)

/-- 11 recessive bits have passed (R521). -/
def execCanBusIntegration (c : Fin 4) (s : State) : Host.Outcome State Fault Refusal :=
  .next (if s.canOn c && s.can[c].op != 0 then s.modCan c fun x => { x with joined := true } else s)

/-! Registers (14, Registers). -/

/-- The offset names a register of the block. -/
def canIsReg (off : Nat) : Bool :=
  decide (off % 4 = 0) && (decide (off < 0x60) || (decide (0x80 ≤ off) && decide (off < 0x9C)) ||
    (decide (0x400 ≤ off) && decide (off < 0x800) && decide (off % 0x100 < 176)))

def canStateCode : CanState → BitVec 3
  | .errorActive => 0
  | .warning => 1
  | .errorPassive => 2
  | .busOff => 3
  | .recovering => 4

/-- A register of CAN_c read by reader `r`; `base` is the block's Window A offset. -/
def State.canRead (r base : Nat) (c : Fin 4) (off : Nat) (s : State) : BitVec 32 × State :=
  let x := s.can[c]
  let plain (v : BitVec 32) : BitVec 32 × State := (v, s)
  match off with
  | 0x00 => plain (bitAt x.cfgErr 15 ||| at32 x.mode 0)
  | 0x04 => plain (at32 x.nbtA 0)
  | 0x08 => plain (at32 x.nbtB 0)
  | 0x0C => plain (at32 x.dbt 0)
  | 0x10 => plain (at32 x.xbt 0)
  | 0x14 => plain (at32 x.tdc 0)
  | 0x18 => plain (at32 (canStateCode x.st) 17 ||| at32 x.recC 9 ||| at32 x.tecC 0)
  | 0x24 => plain (at32 x.txres 0)
  | 0x2C => plain (at32 x.tguard 0)
  | 0x30 => plain (at32 (x.rxcfg &&& 0x17F) 0)
  | 0x34 =>
    let k := s.canStampCount c 0
    (lo20 k, s.latch r (base + 0x38) (hi20 k))
  | 0x38 => plain (s.latched r (base + 0x38))
  | 0x3C => plain (at32 x.errType 4 ||| at32 x.errPhase 0)
  | _ =>
    if 0x40 ≤ off ∧ off < 0x60 then
      let k := x.cnt[(ix 8 ((off - 0x40) / 4))]
      plain (at32 k 0 ||| bitAt (isSat k) 19)
    else if 0x80 ≤ off ∧ off < 0x9C then
      let k := (off - 0x80) / 4
      plain ((List.range 20).foldl (fun v i =>
        if 20 * k + i < 128 ∧ bit (s.canHdr c (ix 128 (20 * k + i)) 0) 19 then setBit v i true else v) 0)
    else if 0x400 ≤ off ∧ off < 0x800 ∧ off % 0x100 < 176 then
      plain (at32 (x.hpm[(ix 4 ((off - 0x400) / 0x100))][(ix 44 (off % 0x100 / 4))]) 0)
    else plain 0

/-- A write of a CAN register by agent `a`. -/
def State.canWrite (a : Agent) (c : Fin 4) (off : Nat) (v : BitVec 32) (s : State) : State :=
  if !canIsReg off then s
  else
    s.canByOwner a c fun s =>
      let init := s.can[c].op == 0
      let inInit (f : Can → Can) : State := if init then s.modCan c f else s
      match off with
      | 0x00 => s.canMode c v
      | 0x04 => inInit fun x => { x with nbtA := fld v 0 16 }
      | 0x08 => inInit fun x => { x with nbtB := fld v 0 15 }
      | 0x0C => inInit fun x => { x with dbt := fld v 0 20 &&& 0xFFFFC }
      | 0x10 => inInit fun x => { x with xbt := fld v 0 20 &&& 0xFFFFC }
      | 0x14 => inInit fun x => { x with tdc := fld v 0 17 }
      | 0x1C => if bit v 0 then s.canRecover c else s
      | 0x20 =>
        let b : Fin 128 := ix 128 (fldN v 0 7)
        match fldN v 18 2 with
        | 1 => s.canRequest c b
        | 2 => s.canAbort c b
        | _ => s
      | 0x28 => s.canAck c (fld v 0 20)
      | 0x2C => s.modCan c fun x => { x with tguard := fld v 0 16 }
      | 0x30 => s.modCan c fun x => { x with rxcfg := fld v 0 9 &&& 0x17F }
      | _ => s

end Sys2Proof.Machine
end

