-- ==== Sys2Proof/Machine/Tread.lean ====
section
/-! DEFINITION. Treads and flights (15): pin slots, ticks, FIFOs, shifting, the Tread instructions, flight starts, halts
and resets, and the TRD registers. -/

namespace Sys2Proof.Machine

def State.modTread (t : Fin 32) (f : Tread → Tread) (s : State) : State :=
  { s with trd := { s.trd with tread := vmod s.trd.tread t f } }
def State.modFlight (f : Fin 4) (g : Flight → Flight) (s : State) : State :=
  { s with trd := { s.trd with flight := vmod s.trd.flight f g } }

/-- The flight of Tread `t`, and Tread `i` of flight `f` (R550). -/
def flightOf (t : Fin 32) : Fin 4 := ix 4 (t.val / 8)
def treadOf (f : Fin 4) (i : Fin 8) : Fin 32 := ix 32 (8 * f.val + i.val)

/-- The owner of Tread `t` as an agent code (R551). -/
def Layout.treadOwnerCode (L : Layout) (t : Fin 32) : BitVec 5 := match L.treadOwner t.val with
  | some n => BitVec.ofNat 5 n.val
  | none => 16

/-- The flight's island is on. -/
def State.flightOn (s : State) (f : Fin 4) : Bool := s.unitOn (32 + f.val)

/-! Pin slots (R554, R555, R572). -/

/-- The pin of slot `k` of Tread `t` (R554). -/
def Layout.slotPin (L : Layout) (t : Fin 32) (k : Nat) : Option (Fin 96) := L.pinOf 1 t.val k

/-- Which slots have a pin. -/
def Layout.slotMask (L : Layout) (t : Fin 32) : BitVec 8 :=
  (List.range 8).foldl (fun m k => setBit m k (L.slotPin t k).isSome) 0

/-- A slot write reaches the slots that have a pin (R554). -/
def Layout.slotPut (L : Layout) (t : Fin 32) (mask v old : BitVec 8) : BitVec 8 :=
  let m := mask &&& L.slotMask t
  (old &&& ~~~m) ||| (v &&& m)

/-- A pin at its FALLBACK level is high or weakly pulled up (04, PINS body). -/
def Pins.fallbackHigh (p : Pins) (i : Fin 96) : Bool :=
  let c := pinFallback p.recs[i]
  c == 2 || c == 4 || (c == 5 && bit p.high i.val)

/-- A Tread's slots drive their pins in this state (15, Pins across events). -/
def TreadState.drives : TreadState → Bool
  | .idle => false
  | .stopped => false
  | _ => true

/-- Pin `i` drives high, holds high or is weakly pulled up (R572); in a bank that is unfed it does nothing (23 R830). -/
def State.pinHigh (s : State) (i : Fin 96) : Bool :=
  if s.floats (i.val / 24) then false else match s.pins.use[i] with
  | .hiZ => false
  | .hold => bit s.pins.high i.val
  | .fallback => s.pins.fallbackHigh i
  | .func =>
    let r := s.pins.recs[i]
    if pinKind r = 1 then
      let x := s.trd.tread[(ix 32 (pinUnit r))]
      if x.st.drives then bit x.dir (pinSignal r) && bit x.latch (pinSignal r) && !pinOpenDrain r
      else s.pins.fallbackHigh i
    else s.pins.fallbackHigh i

/-- The levels a flight start loads into the output latches (R572). -/
def State.slotLevels (t : Fin 32) (s : State) : BitVec 8 :=
  (List.range 8).foldl (fun m k => match s.lo.slotPin t k with
    | some i => setBit m k (s.pinHigh i)
    | none => m) 0

/-! Time (R557-R560). -/

/-- Tread cycles since the running stroke began. -/
def State.trdRel (s : State) : Nat := (s.tb.clk.cycles - s.tb.stroke.cyc0) / 2
/-- Tread cycles since the last C, W or D reset. -/
def State.trdNow (s : State) : Nat := s.trd.base + s.trdRel
/-- TREAD_TIME and LAP (R558). -/
def State.treadTime (s : State) : Word := BitVec.ofNat 20 s.trdRel
def State.treadLap (s : State) : BitVec 6 := BitVec.ofNat 6 (s.trdRel / 2 ^ 20)

/-- Tread cycles from a restart's first cycle to tick `k` (R559). -/
def tickAt (div k : Nat) : Nat := ceilDiv (k * div) 256

/-- The Tread cycle of the next tick of Tread `t`. -/
def State.tickCycle (s : State) (t : Fin 32) : Nat :=
  let x := s.trd.tread[t]
  x.c0 + 1 + tickAt (s.lo.trdDiv t.val) x.ticks

/-- Time moves to Tread cycle `c` of the running stroke, if it has not been reached and the stroke lasts so long. -/
def State.toTreadCycle (c : Nat) (s : State) : State :=
  let k := s.tb.stroke.cyc0 + 2 * (c - s.trd.base)
  if s.tb.stroke.ends.isNone || s.beforeEnd k then s.runToCycle k else s

/-- The first tick of a Tread at or after Tread cycle `now` (R559). -/
def Tread.tickFrom (div now : Nat) (x : Tread) : Nat :=
  let n := now - (x.c0 + 1)
  if n = 0 ∨ div = 0 then 0 else (n - 1) * 256 / div + 1

/-- The first tick of Tread `t` after the one at which its wait began, at or after now (R560). -/
def State.realign (t : Fin 32) (s : State) : State :=
  let k := s.trd.tread[t].tickFrom (s.lo.trdDiv t.val) s.trdNow
  s.modTread t fun x => { x with ticks := max (x.ticks + 1) k }

/-- A Tread that goes on after a park or a halt executes at its next tick, and its flight is charged the cycles until then; an abandoned AT
is reached again now (R569, R574, R575). -/
def State.rouse (t : Fin 32) (s : State) : State :=
  let x := s.trd.tread[t]
  match x.st with
  | .running =>
    let k := x.tickFrom (s.lo.trdDiv t.val) s.trdNow
    if x.ticks < k then
      let s := s.modTread t fun x => { x with ticks := k }
      s.compute (actFlight (flightOf t)) (s.tickCycle t - s.trdNow)
    else s
  | .waiting => s.modTread t fun x => { x with since := s.trdNow }
  | _ => s

/-! FIFOs (R564, R565, R583). -/

/-- The levels at the start of Tread cycle `c` (R564). -/
def Tread.sense (c : Nat) (x : Tread) : Tread :=
  if x.lvlCyc = c then x else { x with lvlCyc := c, txAt := x.tx.length, rxAt := x.rx.length }

def Tread.canPull (x : Tread) : Bool := decide (0 < x.txAt) && !x.tx.isEmpty
def Tread.canPush (x : Tread) : Bool := decide (x.rxAt < 8) && decide (x.rx.length < 8)

/-- Local source 15 at the owning Hewer (R583). -/
def State.treadSrc (t : Fin 32) (s : State) : State :=
  match s.lo.treadOwner t.val with
  | some n => s.lsrc n 15
  | none => s

/-- TX takes new content; its level may fall to the threshold. -/
def State.setTx (t : Fin 32) (q : List Word) (s : State) : State :=
  let old := s.trd.tread[t].tx.length
  let thr := s.lo.txThr t.val
  let s := s.modTread t fun x => { x with tx := q }
  if thr < 8 ∧ old = thr + 1 ∧ q.length = thr then s.treadSrc t else s

/-- RX takes new content; its level may rise to the threshold. -/
def State.setRx (t : Fin 32) (q : List Word) (s : State) : State :=
  let old := s.trd.tread[t].rx.length
  let thr := s.lo.rxThr t.val
  let s := s.modTread t fun x => { x with rx := q }
  if 1 ≤ thr ∧ thr ≤ 8 ∧ old + 1 = thr ∧ q.length = thr then s.treadSrc t else s

/-! Shifting (R566, R567). -/

/-- `n` bits gathered into SI (R566). -/
def gatherIn (inDir : Bool) (si data : Word) (n : Nat) : Word :=
  let v := data &&& BitVec.ofNat 20 (2 ^ n - 1)
  if inDir then (si >>> n) ||| (v <<< (20 - n)) else (si <<< n) ||| v

/-- A word on its way into SO, and SI on its way out (R567). -/
def alignIn (outDir : Bool) (width : Nat) (w : Word) : Word := if outDir then w else w <<< (20 - width)
def alignOut (inDir : Bool) (icnt : Nat) (si : Word) : Word := if inDir then si >>> (20 - icnt) else si

/-- `n` bits taken from SO, and what is left in it (R566); `left` bits of the word remain (R567). -/
def scatterOut (outDir : Bool) (so : Word) (n left : Nat) : Word × Word :=
  if outDir then (so &&& BitVec.ofNat 20 (2 ^ min n left - 1), so >>> n)
  else
    let d := so >>> (20 - n)
    (if left < n then d &&& ~~~BitVec.ofNat 20 (2 ^ (n - left) - 1) else d, so <<< n)

/-- The oldest TX word enters SO (R567). -/
def State.feedSo (t : Fin 32) (s : State) : State :=
  let x := s.trd.tread[t]
  let w := alignIn (s.lo.outDir t.val) (s.lo.outWidth t.val) (x.tx.headD 0)
  (s.setTx t x.tx.tail).modTread t fun x => { x with so := w, ocnt := 0 }

/-- SI goes to RX and is emptied (R567). -/
def State.drainSi (t : Fin 32) (s : State) : State :=
  let x := s.trd.tread[t]
  (s.setRx t (x.rx ++ [alignOut (s.lo.inDir t.val) x.icnt x.si])).modTread t fun x => { x with si := 0, icnt := 0 }

/-- Slots from `base` on take the bits of a scatter (R566). -/
def scatterPins (base n : Nat) (d : Word) : BitVec 8 × BitVec 8 :=
  (List.range (min n 8)).foldl (fun (p : BitVec 8 × BitVec 8) i =>
    let k := (base + i) % 8
    (setBit p.1 k true, setBit p.2 k (bit d i))) (0, 0)

/-- SCATTER proper, after its feed (R566). -/
def State.scatter (t : Fin 32) (dst : BitVec 2) (n : Nat) (s : State) : State :=
  let L := s.lo
  s.modTread t fun x =>
    let left := if L.autoFeed t.val then L.outWidth t.val - x.ocnt else 20
    let (d, so) := scatterOut (L.outDir t.val) x.so n left
    let x := { x with so := so, ocnt := min 20 (x.ocnt + n) }
    match dst.toNat with
    | 0 =>
      let (m, v) := scatterPins (L.scatterBase t.val) n d
      { x with latch := L.slotPut t m v x.latch }
    | 1 => { x with x := d }
    | 2 => { x with y := d }
    | _ => x

/-- A pin source of GATHER: slot `base + i` in bit i (R566). -/
def gatherPins (base : Nat) (pins : BitVec 8) : Word :=
  (List.range 8).foldl (fun w i => setBit w i (bit pins ((base + i) % 8))) 0

/-! Completing and waiting (R560, R562, R563, R574). -/

/-- The offset after an instruction that does not jump (R562, R563). -/
def Layout.nextOffset (L : Layout) (t : Nat) (pc : BitVec 8) : BitVec 8 :=
  let w := L.trd t 1
  if bit w 16 ∧ pc = fld w 8 8 then fld w 0 8 else pc + 1

/-- Tread `t` completes an instruction of `m` ticks, goes on at offset `to`, or at the next one, and its flight is charged
(R574). -/
def State.retire (t : Fin 32) (m : Nat) (dest : Option (BitVec 8)) (s : State) : State :=
  let x := s.trd.tread[t]
  let d := s.lo.trdDiv t.val
  let pc := dest.getD (s.lo.nextOffset t.val x.pc)
  (s.modTread t fun x => { x with ticks := x.ticks + m, pc := pc, st := .running, wait := none }).compute
    (actFlight (flightOf t)) (tickAt d (x.ticks + m) - tickAt d x.ticks)

/-- Tread `t` begins to wait. -/
def State.waits (t : Fin 32) (w : TreadWait) (s : State) : State :=
  let c := s.tickCycle t
  s.modTread t fun x => { x with st := .waiting, wait := some w, since := c }

/-- A shift stall begins (R585). -/
def State.shiftStall (t : Fin 32) (w : TreadWait) (s : State) : State :=
  let f := flightOf t
  let c := s.trd.flight[f].stalls
  let first := !s.trd.flight[f].stallRaised
  let s := ((s.waits t w).modFlight f fun x => { x with stalls := satInc x.stalls, stallRaised := true }).satEvent c 1
  s.raiseIf first (evFlightStall f)

/-- The Treads of flight `f` may execute: its island is on, and in a stroke its compute is not spent (R574; 03 R100). -/
def State.flightRuns (s : State) (f : Fin 4) : Bool :=
  s.flightOn f && (!s.tb.stroke.running || decide (0 < s.sbu.act[(actFlight f)].cpu))

/-- Tread `t` executes an instruction at its tick, when it is running (R560, R569). -/
def State.treadDo (t : Fin 32) (f : State → State) (s : State) : State :=
  if s.trd.tread[t].st == .running && s.flightRuns (flightOf t) then
    let c := s.tickCycle t
    f ((s.toTreadCycle c).modTread t (·.sense c))
  else s

/-- An instruction of a defined encoding; a reserved one is in no staged program (R561, R568). -/
def State.treadExec (t : Fin 32) (ok : Bool) (f : State → State) (s : State) : Host.Outcome State Fault Refusal :=
  if !ok && s.trd.tread[t].st == .running && s.flightOn (flightOf t) then .fault .reservedEncoding else .next (s.treadDo t f)

/-! Instructions (R568, R569). -/

def execPause (t : Fin 32) (n : BitVec 10) (s : State) : Host.Outcome State Fault Refusal :=
  s.treadExec t true fun s => s.retire t (n.toNat + 1) none

/-- PUT (R569). -/
def execPut (t : Fin 32) (kind : BitVec 2) (data : BitVec 8) (s : State) : Host.Outcome State Fault Refusal :=
  s.treadExec t (kind != 3) fun s =>
    let L := s.lo
    let m := L.putMask t.val
    (s.modTread t fun x => match kind.toNat with
      | 0 => { x with latch := L.slotPut t m data x.latch }
      | 1 => { x with dir := L.slotPut t m data x.dir }
      | _ => { x with latch := L.slotPut t (m &&& data) (~~~x.latch) x.latch }).retire t 1 none

/-- N of a shift is 1 to 20 (R568). -/
def shiftOk (n : BitVec 5) : Bool := decide (1 ≤ n.toNat) && decide (n.toNat ≤ 20)

/-- GATHER with its automatic drain (R566, R567). -/
def execGather (t : Fin 32) (src : BitVec 2) (n : BitVec 5) (pins : BitVec 8) (s : State) :
    Host.Outcome State Fault Refusal :=
  s.treadExec t (shiftOk n) fun s =>
    let L := s.lo
    let s := s.modTread t fun x =>
      let d : Word := match src.toNat with
        | 0 => gatherPins (L.gatherBase t.val) (pins &&& L.slotMask t)
        | 1 => x.x
        | 2 => x.y
        | _ => 0
      { x with si := gatherIn (L.inDir t.val) x.si d n.toNat, icnt := min 20 (x.icnt + n.toNat) }
    let x := s.trd.tread[t]
    if L.autoDrain t.val ∧ L.inWidth t.val ≤ x.icnt then
      if x.canPush then (s.drainSi t).retire t 1 none else s.shiftStall t .drain
    else s.retire t 1 none

/-- SCATTER with its automatic feed (R566, R567). -/
def execScatter (t : Fin 32) (dst : BitVec 2) (n : BitVec 5) (s : State) : Host.Outcome State Fault Refusal :=
  s.treadExec t (shiftOk n) fun s =>
    let L := s.lo
    let x := s.trd.tread[t]
    if L.autoFeed t.val ∧ L.outWidth t.val ≤ x.ocnt then
      if x.canPull then ((s.feedSo t).scatter t dst n.toNat).retire t 1 none else s.shiftStall t (.feed dst n)
    else (s.scatter t dst n.toNat).retire t 1 none

/-- A condition of BR (R568). -/
def State.treadCond (s : State) (t : Fin 32) (pins : BitVec 8) (cond : BitVec 4) : Bool :=
  let L := s.lo
  let x := s.trd.tread[t]
  let pin := bit (pins &&& L.slotMask t) (L.jpin t.val)
  match cond.toNat with
  | 0 => true
  | 1 => x.z
  | 2 => !x.z
  | 3 => x.c
  | 4 => !x.c
  | 5 => pin
  | 6 => !pin
  | 7 => decide (L.outWidth t.val ≤ x.ocnt)
  | 8 => decide (x.ocnt < L.outWidth t.val)
  | 9 => decide (x.txAt = 0)
  | 10 => decide (x.rxAt = 8)
  | 11 => bit s.trd.flight[flightOf t].flags (L.trdJf t.val)
  | _ => false

def execBr (t : Fin 32) (cond : BitVec 4) (rel : BitVec 6) (pins : BitVec 8) (s : State) :
    Host.Outcome State Fault Refusal :=
  s.treadExec t (decide (cond.toNat < 12)) fun s =>
    let pc := s.trd.tread[t].pc
    s.retire t 1 (if s.treadCond t pins cond then some (pc + rel.signExtend 8) else none)

def execJump (t : Fin 32) (mode : BitVec 2) (addr : BitVec 8) (s : State) : Host.Outcome State Fault Refusal :=
  s.treadExec t (mode == 0 || (mode == 1 && addr == 0)) fun s =>
    s.retire t 1 (some (if mode = 0 then addr else fld s.trd.tread[t].x 0 8))

/-- The source of a HOLD meets POL (R569). -/
def State.holdMet (s : State) (t : Fin 32) (src : BitVec 2) (pol : Bool) (idx : Fin 8) (pins : BitVec 8) : Bool :=
  let x := s.trd.tread[t]
  match src.toNat with
  | 0 => bit (pins &&& s.lo.slotMask t) idx.val == pol
  | 1 => bit s.trd.flight[flightOf t].flags idx.val == pol
  | 2 => decide (0 < x.txAt) == pol
  | _ => if pol then decide (x.rxAt < 8) else decide (x.rxAt = 0)

/-- A flag is cleared in Tread cycle `c`: a set in the same cycle comes after it (R570). -/
def State.clearFlag (f : Fin 4) (i : Fin 8) (c : Nat) (s : State) : State :=
  s.modFlight f fun x => if x.setAt[i] = some c then x else { x with flags := setBit x.flags i.val false }

/-- A HOLD ends; a flag held for a 1 is cleared (R569). -/
def State.holdEnds (t : Fin 32) (src : BitVec 2) (pol : Bool) (idx : Fin 8) (s : State) : State :=
  let s := if src = 1 ∧ pol then s.clearFlag (flightOf t) idx (s.tickCycle t) else s
  s.retire t 1 none

def execHold (t : Fin 32) (src : BitVec 2) (pol : Bool) (idx : Fin 8) (pins : BitVec 8) (s : State) :
    Host.Outcome State Fault Refusal :=
  s.treadExec t (decide (src.toNat < 2) || idx == 0) fun s =>
    if s.holdMet t src pol idx pins then s.holdEnds t src pol idx else s.waits t (.hold src pol idx)

/-- AT (R569): its match is AT_MATCH. -/
def execAtTime (t : Fin 32) (reg adv lapq : Bool) (s : State) : Host.Outcome State Fault Refusal :=
  s.treadExec t (!lapq || (!reg && !adv)) fun s => s.waits t (.at_ reg adv lapq)

/-- Twenty bits in reverse order. -/
def rev20 (w : Word) : Word := (List.range 20).foldl (fun r i => setBit r i (bit w (19 - i))) 0

/-- STATUS as COPY reads it (R569). -/
def State.treadStatus (s : State) (x : Tread) : Word :=
  (0#4 ++ bool 1 x.c ++ bool 1 x.z ++ s.treadLap ++ BitVec.ofNat 4 x.rxAt ++ BitVec.ofNat 4 x.txAt : BitVec 20)

/-- COPY (R569). -/
def execCopy (t : Fin 32) (dst src : BitVec 3) (opn : BitVec 2) (pins : BitVec 8) (s : State) :
    Host.Outcome State Fault Refusal :=
  s.treadExec t (dst != 7 && opn != 3) fun s =>
    let L := s.lo
    let x := s.trd.tread[t]
    let v : Word := match src.toNat with
      | 0 => x.x
      | 1 => x.y
      | 2 => x.si
      | 3 => x.so
      | 4 => (pins &&& L.slotMask t).setWidth 20
      | 5 => s.treadStatus x
      | 6 => s.treadTime
      | _ => 0
    let v := match opn.toNat with
      | 0 => v
      | 1 => ~~~v
      | _ => rev20 v
    let b : BitVec 8 := fld v 0 8
    let s := s.modTread t fun x => match dst.toNat with
      | 0 => { x with x := v }
      | 1 => { x with y := v }
      | 2 => { x with si := v, icnt := 0 }
      | 3 => { x with so := v, ocnt := 0 }
      | 4 => { x with latch := L.slotPut t 0xFF b x.latch }
      | 5 => { x with dir := L.slotPut t 0xFF b x.dir }
      | _ => x
    s.retire t 1 (if dst = 6 then some b else none)

def execLdi (t : Fin 32) (y : Bool) (imm : BitVec 9) (s : State) : Host.Outcome State Fault Refusal :=
  s.treadExec t true fun s =>
    (s.modTread t fun x => if y then { x with y := imm.setWidth 20 } else { x with x := imm.setWidth 20 }).retire t 1 none

/-- CNT (R568, R569). -/
def execCnt (t : Fin 32) (opc : BitVec 2) (s : State) : Host.Outcome State Fault Refusal :=
  s.treadExec t true fun s =>
    (s.modTread t fun x =>
      let v := if bit opc 0 then x.y else x.x
      let up := bit opc 1
      let r := if up then v + 1 else v - 1
      let x := { x with z := r == 0, c := if up then r == 0 else v == 0 }
      if bit opc 0 then { x with y := r } else { x with x := r }).retire t 1 none

/-- A TAKE that has its word (R569). -/
def State.takes (t : Fin 32) (tox : Bool) (s : State) : State :=
  if tox then
    let q := s.trd.tread[t].tx
    (s.setTx t q.tail).modTread t fun x => { x with x := q.headD 0 }
  else s.feedSo t

def State.treadC (t : Fin 32) (c : Bool) (s : State) : State := s.modTread t fun x => { x with c := c }

/-- FEED TAKE (R568, R569). -/
def execFeedTake (t : Fin 32) (once cond tox : Bool) (s : State) : Host.Outcome State Fault Refusal :=
  s.treadExec t true fun s =>
    let x := s.trd.tread[t]
    if cond ∧ x.ocnt < s.lo.outWidth t.val then (s.treadC t false).retire t 1 none
    else if x.canPull then
      let s := s.takes t tox
      (if once then s.treadC t false else s).retire t 1 none
    else if once then (s.treadC t true).retire t 1 none
    else s.waits t (.take cond tox)

/-- FEED GIVE (R568, R569). -/
def execFeedGive (t : Fin 32) (once cond : Bool) (s : State) : Host.Outcome State Fault Refusal :=
  s.treadExec t true fun s =>
    let x := s.trd.tread[t]
    if cond ∧ x.icnt < s.lo.inWidth t.val then (s.treadC t false).retire t 1 none
    else if x.canPush then
      let s := s.drainSi t
      (if once then s.treadC t false else s).retire t 1 none
    else if once then
      let f := flightOf t
      let k := s.trd.flight[f].rxDrop
      let s := s.modTread t fun x => { x with si := 0, icnt := 0, c := true }
      ((s.modFlight f fun x => { x with rxDrop := satInc x.rxDrop }).satEvent k 1).retire t 1 none
    else s.waits t (.give cond)

/-- YIELD: the Tread goes on (R573). -/
def execTreadYield (t : Fin 32) (s : State) : Host.Outcome State Fault Refusal :=
  s.treadExec t true fun s => (s.modTread t fun x => { x with yielded := true }).retire t 1 none

/-- SIGNAL (R584). -/
def execSignal (t : Fin 32) (s : State) : Host.Outcome State Fault Refusal :=
  s.treadExec t true fun s => (s.retire t 1 none).raiseBy (actFlight (flightOf t)) (evFlightSignal (flightOf t))

/-- FSET (R570). -/
def execFset (t : Fin 32) (i : Fin 8) (s : State) : Host.Outcome State Fault Refusal :=
  s.treadExec t true fun s =>
    let c := s.tickCycle t
    (s.modFlight (flightOf t) fun x =>
      { x with flags := setBit x.flags i.val true, setAt := vset x.setAt i (some c) }).retire t 1 none

/-- FCLR (R570). -/
def execFclr (t : Fin 32) (i : Fin 8) (s : State) : Host.Outcome State Fault Refusal :=
  s.treadExec t true fun s => (s.clearFlag (flightOf t) i (s.tickCycle t)).retire t 1 none

/-- CMP (R568, R569). -/
def execTreadCmp (t : Fin 32) (withImm : Bool) (imm : BitVec 9) (s : State) : Host.Outcome State Fault Refusal :=
  s.treadExec t (withImm || imm == 0) fun s =>
    (s.modTread t fun x =>
      let o : Word := if withImm then imm.setWidth 20 else x.y
      { x with z := x.x == o, c := decide (x.x < o) }).retire t 1 none

/-! Ends of waits. -/

/-- The Tread cycles of the stroke until an AT's operand is met, from the cycle in which the AT was reached (R569, R571). -/
def State.atDue (s : State) (x : Tread) (reg lapq : Bool) : Nat :=
  let r := if reg then x.y else x.x
  let (target, m) := if lapq then (fldN x.y 0 6 * 2 ^ 20 + r.toNat, 2 ^ 26) else (r.toNat, 2 ^ 20)
  let n := x.since - s.trd.base
  n + (target + m - n % m) % m

/-- TREAD_TIME matches a waiting AT in this stroke: the divider restarts (R569, R571). A flight that a changeover has started waits at
no AT before its TREAD_TIME is 500, so an operand below that waits for the next lap (04 R164). -/
def execAtMatch (t : Fin 32) (s : State) : Host.Outcome State Fault Refusal :=
  let x := s.trd.tread[t]
  match x.st, x.wait with
  | .waiting, some (.at_ reg adv lapq) =>
    let m := s.atDue x reg lapq
    let k := s.tb.stroke.cyc0 + 2 * m
    if s.beforeEnd k && s.flightRuns (flightOf t) then
      let s := s.runToCycle k
      let pc := s.lo.nextOffset t.val x.pc
      .next ((s.modTread t fun x =>
        let x := { x with c0 := s.trd.base + m, ticks := 0, st := .running, wait := none, pc := pc }
        if !adv then x else if reg then { x with y := x.y + x.x } else { x with x := x.x + x.y }).compute
          (actFlight (flightOf t)) 1)
    else .next s
  | _, _ => .next s

/-- A waiting Tread tests its condition at a tick; it completes when the condition holds (R560, R569). -/
def State.waitTest (t : Fin 32) (w : TreadWait) (pins : BitVec 8) (s : State) : Option State :=
  let x := s.trd.tread[t]
  match w with
  | .hold src pol idx => if s.holdMet t src pol idx pins then some (s.holdEnds t src pol idx) else none
  | .at_ _ _ _ => none
  | .take _ tox => if x.canPull then some ((s.takes t tox).retire t 1 none) else none
  | .give _ => if x.canPush then some ((s.drainSi t).retire t 1 none) else none
  | .feed dst n => if x.canPull then some (((s.feedSo t).scatter t dst n.toNat).retire t 1 none) else none
  | .drain => if x.canPush then some ((s.drainSi t).retire t 1 none) else none

/-- A HOLD, a waiting FEED or a shift stall completes at the next tick, when its condition holds there. -/
def execTreadWaitEnd (t : Fin 32) (pins : BitVec 8) (s : State) : Host.Outcome State Fault Refusal :=
  match s.trd.tread[t].st, s.trd.tread[t].wait with
  | .waiting, some w =>
    if !s.flightRuns (flightOf t) then .next s
    else
    let s' := s.realign t
    let c := s'.tickCycle t
    .next (((s'.toTreadCycle c).modTread t (·.sense c)).waitTest t w pins |>.getD s)
  | _, _ => .next s

/-- TREAD_TIME wraps and LAP increases; no event (R558). -/
def execTreadTimeWrap (s : State) : Host.Outcome State Fault Refusal :=
  let k := s.tb.stroke.cyc0 + 2 * ((s.trdRel / 2 ^ 20 + 1) * 2 ^ 20)
  .next (if s.tb.stroke.running && s.beforeEnd k then s.runToCycle k else s)

/-! Flights (R572-R578). -/

/-- One Tread at a flight start (R572). -/
def Tread.starts (L : Layout) (t : Fin 32) (c0 : Nat) (levels : BitVec 8) (x : Tread) : Tread :=
  let stays := x.st == .parked || x.st == .halted
  let fresh := x.st == .idle || x.st == .stopped
  { x with
    st := if stays then x.st else .running, prev := .running, wait := none, pc := L.trdStart t.val, x := 0, y := 0, si := 0,
    icnt := 0, z := false, c := false, ocnt := L.outWidth t.val, dir := L.dirs t.val &&& L.slotMask t, yielded := false,
    ticks := 0, c0 := c0, latch := if fresh then levels else x.latch }

/-- A Tread of flight `f` is in a state. -/
def State.anyTread (s : State) (f : Fin 4) (st : TreadState) : Bool :=
  (List.finRange 8).any fun i => s.trd.tread[(treadOf f i)].st == st

/-- The flight start proper of the Treads in `mask`, in one Tread cycle (R572). -/
def State.startNow (f : Fin 4) (mask : BitVec 8) (s : State) : State :=
  if !(s.lo.flightPresent f.val && s.flightOn f) then s
  else
    let c0 := s.trdNow
    (List.finRange 8).foldl (fun s i =>
      let t := treadOf f i
      if bit mask i.val then
        let lv := s.slotLevels t
        let s := s.modTread t (·.starts s.lo t c0 lv)
        if s.trd.tread[t].st = .running then s.compute (actFlight f) 1 else s
      else s) s

/-- A flight start that an owner's write or a scheduler entry asks for. A flight that a hinge or an engine reset holds STOPPED has its
start at their end, at 2 µs and from START_SET (R578; 04 hinge table); what is asked of it before is lost (DESIGN CHOICE, log 169). -/
def State.startTreads (f : Fin 4) (mask : BitVec 8) (s : State) : State :=
  if s.anyTread f .stopped then s else s.startNow f mask

/-- A flight start of START_SET by a scheduler entry, or as the first stroke begins (02 R70; 22). -/
def State.startSet (f : Fin 4) (s : State) : State := s.startTreads f (s.lo.startSet f.val)

/-- The flight start of START_SET that ends a hinge, an engine reset or a re-application (R572, R578, R582): its Treads outside START_SET
are IDLE again (R574). -/
def State.startAgain (f : Fin 4) (s : State) : State :=
  let s := s.startNow f (s.lo.startSet f.val)
  let v := Vector.ofFn fun t : Fin 32 =>
    let x := s.trd.tread[t]
    if flightOf t = f ∧ x.st = .stopped then { x with st := .idle } else x
  { s with trd := { s.trd with tread := v } }

/-- A clock restart (R572). -/
def State.restartClocks (f : Fin 4) (mask : BitVec 8) (s : State) : State :=
  let c0 := s.trdNow
  let v := Vector.ofFn fun t : Fin 32 =>
    if flightOf t = f ∧ bit mask (t.val % 8) then { s.trd.tread[t] with ticks := 0, c0 := c0 } else s.trd.tread[t]
  { s with trd := { s.trd with tread := v } }

/-- The flight has yielded for the stroke (R573). -/
def State.flightYielded (s : State) (f : Fin 4) : Bool :=
  (List.finRange 8).all fun i => !bit (s.lo.startSet f.val) i.val || s.trd.tread[(treadOf f i)].yielded

/-- A write by an agent that does not own what it names is discarded and counted (R552). -/
def State.treadForeign (f : Fin 4) (s : State) : State :=
  let c := s.trd.flight[f].foreign
  (s.modFlight f fun x => { x with foreign := satInc x.foreign }).satEvent c 1

/-- Agent `a` owns every Tread of flight `f` that `mask` names. -/
def State.ownsAll (s : State) (a : Agent) (f : Fin 4) (mask : BitVec 8) : Bool :=
  (List.finRange 8).all fun i => !bit mask i.val || s.lo.treadOwnerCode (treadOf f i) == agentCode a

/-- `g` when the agent owns every Tread named, else the write is discarded and counted (R552, R572). -/
def State.treadsBy (a : Agent) (f : Fin 4) (mask : BitVec 8) (g : State → State) (s : State) : State :=
  if !s.heard a (32 + f.val) then s else if s.ownsAll a f mask then g s else s.treadForeign f

/-- `g` when the agent owns Tread `t`. -/
def State.treadBy (a : Agent) (t : Fin 32) (g : State → State) (s : State) : State :=
  if !s.heard a (32 + (flightOf t).val) then s else if s.lo.treadOwnerCode t = agentCode a then g s else s.treadForeign (flightOf t)

def execFlightStart (a : Agent) (f : Fin 4) (mask : BitVec 8) (s : State) : Host.Outcome State Fault Refusal :=
  let s := s.paid a
  .next (s.treadsBy a f mask fun s => s.startTreads f mask)

def execClockRestart (a : Agent) (f : Fin 4) (mask : BitVec 8) (s : State) : Host.Outcome State Fault Refusal :=
  let s := s.paid a
  .next (s.treadsBy a f mask fun s => s.restartClocks f mask)

/-- The levels at the start of the current Tread cycle are taken. -/
def State.senseNow (t : Fin 32) (s : State) : State := s.modTread t (·.sense s.trdNow)

def State.flushRx (t : Fin 32) (s : State) : State := (s.senseNow t).setRx t []
def State.flushTx (t : Fin 32) (s : State) : State := (s.senseNow t).setTx t []

def execFlushRx (a : Agent) (t : Fin 32) (s : State) : Host.Outcome State Fault Refusal :=
  let s := s.paid a
  .next (s.treadBy a t fun s => s.flushRx t)

def execFlushTx (a : Agent) (t : Fin 32) (s : State) : Host.Outcome State Fault Refusal :=
  let s := s.paid a
  .next (s.treadBy a t fun s => s.flushTx t)

/-- The owner pushes to TX (R564, R565). -/
def State.txfPush (t : Fin 32) (v : Word) (s : State) : State :=
  let s := s.senseNow t
  let x := s.trd.tread[t]
  if x.txAt < 8 ∧ x.tx.length < 8 then s.setTx t (x.tx ++ [v])
  else (s.modTread t fun x => { x with txOvf := satInc x.txOvf }).satEvent x.txOvf 1

def execTxfPush (a : Agent) (t : Fin 32) (v : Word) (s : State) : Host.Outcome State Fault Refusal :=
  let s := s.paid a
  .next (s.treadBy a t fun s => s.txfPush t v)

/-- A read of RXF: the owner pops, any other agent peeks (R564, R565). -/
def State.rxfRead (a : Agent) (t : Fin 32) (s : State) : Word × State :=
  let x := s.trd.tread[t]
  if s.lo.treadOwnerCode t = agentCode a then
    let s := s.senseNow t
    let x := s.trd.tread[t]
    if 0 < x.rxAt ∧ !x.rx.isEmpty then (x.rx.headD 0, s.setRx t x.rx.tail)
    else (0, (s.modTread t fun x => { x with rxUnf := satInc x.rxUnf }).satEvent x.rxUnf 1)
  else (x.rx.headD 0, s)

def execRxfPop (a : Agent) (t : Fin 32) (s : State) : Host.Outcome State Fault Refusal :=
  let s := s.paid a
  let (v, s) := if s.heard a (32 + (flightOf t).val) then (s.rxfRead a t).map (·.setWidth 32) id else s.silentAt a (0x28004 + 0x40 * t.val)
  .next { s with rd := [v] }

/-- A read of PDATA: a word of the active or the shadow store, and INDEX moves on. -/
def State.progRead (f : Fin 4) (s : State) : BitVec 14 × State :=
  let x := s.trd.flight[f]
  let L := if x.plane then s.lay.shadow.getD Layout.blank else s.lo
  (fld (L.prog f.val x.index.toNat) 0 14, s.modFlight f fun x => { x with index := x.index + 1 })

def execProgramDataRead (a : Agent) (f : Fin 4) (s : State) : Host.Outcome State Fault Refusal :=
  let s := s.paid a
  if s.reaches a then
    let (v, s) := s.progRead f
    .next { s with rd := [v.setWidth 32] }
  else .next s

/-! TRD.FLIGHT_f.CTRL (R575-R578). -/

/-- A Tread of a flight that parks, and one that resumes (R100, R574). -/
def Tread.park (x : Tread) : Tread :=
  if x.st = .halted ∨ x.st = .stopped ∨ x.st = .parked then x else { x with st := .parked, prev := x.st }
def Tread.unpark (x : Tread) : Tread := if x.st = .parked then { x with st := x.prev } else x
/-- A Tread halted, and resumed (R575). -/
def Tread.halt (x : Tread) : Tread :=
  if x.st = .halted then x else if x.st = .parked then { x with st := .halted } else { x with st := .halted, prev := x.st }
def Tread.resume (parked : Bool) (x : Tread) : Tread :=
  if x.st = .halted then { x with st := if parked then .parked else x.prev } else x

/-- Every Tread of flight `f` changed. -/
def State.modTreads (f : Fin 4) (g : Tread → Tread) (s : State) : State :=
  let v := Vector.ofFn fun t : Fin 32 => if flightOf t = f then g s.trd.tread[t] else s.trd.tread[t]
  { s with trd := { s.trd with tread := v } }

/-- Every Tread enters STOPPED, abandoning any wait; FIFOs emptied, flags cleared (R578, R580). -/
def State.stopFlight (f : Fin 4) (s : State) : State :=
  (s.modTreads f fun x => { x with st := .stopped, prev := .idle, wait := none, tx := [], rx := [] }).modFlight f
    fun x => { x with flags := 0, setAt := Vector.replicate 8 none }

/-- The pins that would keep a high level with FALLBACK code 5 are noted (04, PINS body). -/
def State.keepLevels (f : Fin 4) (s : State) : State :=
  let high := (List.finRange 96).foldl (fun m i =>
    let r := s.pins.recs[i]
    if pinKind r = 1 ∧ pinUnit r / 8 = f.val then setBit m i.val (s.pinHigh i) else m) s.pins.high
  { s with pins := { s.pins with high := high } }

/-- Registers, counts and latches of a Tread cleared; its error counters stay (R578). -/
def Tread.clear (x : Tread) : Tread := { Tread.reset with st := x.st, txOvf := x.txOvf, rxUnf := x.rxUnf }

/-- An activity's parked and yielded states cleared (03 R125). -/
def State.unparkAct (a : ActId) (s : State) : State := s.modAct a fun x => { x with parked := false, yielded := false }

/-- The runtime fields of a flight take their engine-reset values, its Treads STOPPED (R578; 04 R133). -/
def State.clearFlight (f : Fin 4) (s : State) : State :=
  (((s.stopFlight f).modTreads f (·.clear)).modFlight f fun x => { x with result := 0 }).unparkAct (actFlight f)

/-- Step t = 0 of an engine reset of a flight (R578). -/
def State.flightReset (f : Fin 4) (s : State) : State :=
  ((s.keepLevels f).clearFlight f).modFlight f fun x => { x with resetting := true, resetCyc := s.tb.clk.cycles }

/-- The result of a CTRL write: BUSY, DENIED, or OK (R576). -/
def State.flightResult (f : Fin 4) (resume : Bool) (s : State) : BitVec 2 :=
  if s.plans.hinge.active || s.anyTread f .stopped then 1
  else if !s.lo.flightPresent f.val then 2
  else if resume && !s.anyTread f .halted then 1
  else 0

/-- A CTRL write that sets one bit. -/
def State.flightCmd (f : Fin 4) (resume : Bool) (g : State → State) (s : State) : State :=
  let r := s.flightResult f resume
  let s := s.modFlight f fun x => { x with result := r }
  if r = 0 then g s else s

def State.flightHalt (f : Fin 4) (s : State) : State := s.flightCmd f false fun s => s.modTreads f (·.halt)
def State.flightResume (f : Fin 4) (s : State) : State :=
  s.flightCmd f true fun s =>
    (List.finRange 8).foldl (fun s i => s.rouse (treadOf f i)) (s.modTreads f (·.resume s.sbu.act[(actFlight f)].parked))
def State.flightResetCmd (f : Fin 4) (s : State) : State := s.flightCmd f false fun s => s.flightReset f

/-- A write of TRD.FLIGHT_f.CTRL (R577). -/
def State.flightCtrl (f : Fin 4) (v : BitVec 32) (s : State) : State :=
  match fldN v 0 3 with
  | 0 => s
  | 1 => s.flightHalt f
  | 2 => s.flightResume f
  | 4 => s.flightResetCmd f
  | _ => s.modFlight f fun x => { x with result := 3 }

def execFlightHalt (a : Agent) (f : Fin 4) (s : State) : Host.Outcome State Fault Refusal :=
  let s := s.paid a
  .next (if s.reaches a then s.flightHalt f else s)

def execFlightResume (a : Agent) (f : Fin 4) (s : State) : Host.Outcome State Fault Refusal :=
  let s := s.paid a
  .next (if s.reaches a then s.flightResume f else s)

def execFlightReset (a : Agent) (f : Fin 4) (s : State) : Host.Outcome State Fault Refusal :=
  let s := s.paid a
  .next (if s.reaches a then s.flightResetCmd f else s)

/-- 2 µs after an engine reset: flight start of START_SET (R578). -/
def execFlightResetEnd (f : Fin 4) (s : State) : Host.Outcome State Fault Refusal :=
  if s.trd.flight[f].resetting then
    .next (s.whenAt (s.trd.flight[f].resetCyc + 1000) fun s =>
      (s.modFlight f fun x => { x with resetting := false }).startAgain f)
  else .next s

/-! Registers (15, Registers), by offset from 0x2_8000. -/

def treadStateCode : TreadState → BitVec 3
  | .idle => 0
  | .running => 1
  | .waiting => 2
  | .parked => 3
  | .halted => 4
  | .stopped => 5

/-- Register `k` of Tread `t` read by agent `a`. -/
def State.treadReg (a : Agent) (t : Fin 32) (k : Nat) (s : State) : BitVec 32 × State :=
  let x := s.trd.tread[t]
  let plain (v : BitVec 32) : BitVec 32 × State := (v, s)
  match k with
  | 1 =>
    let (v, s) := s.rxfRead a t
    (at32 v 0, s)
  | 2 => plain (bitAt x.c 17 ||| bitAt x.z 16 ||| at32 (treadStateCode x.st) 12 ||| bitAt x.yielded 8
      ||| at32 (BitVec.ofNat 4 x.rx.length) 4 ||| at32 (BitVec.ofNat 4 x.tx.length) 0)
  | 3 => plain (at32 (s.lo.trdBase t.val + x.pc.setWidth 11) 0)
  | 4 => plain (at32 x.x 0)
  | 5 => plain (at32 x.y 0)
  | 7 => plain (at32 x.rxUnf 10 ||| at32 x.txOvf 0)
  | 14 => plain (at32 x.si 0)
  | 15 => plain (at32 x.so 0)
  | _ => if 8 ≤ k ∧ k ≤ 13 then plain (at32 (s.lo.trd t.val (k - 8)) 0) else plain 0

/-- Register `k` of Tread `t` written by agent `a` (R552). -/
def State.treadPut (a : Agent) (t : Fin 32) (k : Nat) (v : BitVec 32) (s : State) : State :=
  s.treadBy a t fun s =>
    match k with
    | 0 => s.txfPush t (fld v 0 20)
    | 6 =>
      let f := flightOf t
      let m : BitVec 8 := fld v 8 8
      let s := if bit v 3 then s.flushRx t else s
      let s := if bit v 2 then s.flushTx t else s
      if bit v 0 || bit v 1 then
        s.treadsBy a f m fun s =>
          let s := if bit v 1 then s.restartClocks f m else s
          if bit v 0 then s.startTreads f m else s
      else s
    | _ => s

/-- Register at `off` of flight `f`. -/
def State.flightReg (f : Fin 4) (off : Nat) (s : State) : BitVec 32 × State :=
  let x := s.trd.flight[f]
  let plain (v : BitVec 32) : BitVec 32 × State := (v, s)
  match off with
  | 0x04 => plain (at32 x.result 16 ||| bitAt (s.anyTread f .halted) 5 ||| bitAt s.sbu.act[(actFlight f)].parked 4
      ||| bitAt (s.lo.flightPresent f.val && s.flightYielded f) 1 ||| bitAt x.bank 0)
  | 0x08 => plain (at32 (s.lo.startSet f.val) 0)
  | 0x0C => plain (at32 x.flags 0)
  | 0x10 => plain (bitAt x.plane 16 ||| at32 x.index 0)
  | 0x14 =>
    let (v, s) := s.progRead f
    (at32 v 0, s)
  | 0x18 => plain (satWord x.stalls)
  | 0x1C => plain (satWord x.foreign)
  | 0x20 => plain (satWord x.rxDrop)
  | _ => plain 0

def State.trdRead (a : Agent) (off : Nat) (s : State) : BitVec 32 × State :=
  if off < 0x800 then s.treadReg a (ix 32 (off / 0x40)) (off % 0x40 / 4)
  else if 0x1000 ≤ off ∧ off < 0x1400 then s.flightReg (ix 4 ((off - 0x1000) / 0x100)) (off % 0x100)
  else (0, s)

def State.trdWrite (a : Agent) (off : Nat) (v : BitVec 32) (s : State) : State :=
  if off < 0x800 then s.treadPut a (ix 32 (off / 0x40)) (off % 0x40 / 4) v
  else if 0x1000 ≤ off ∧ off < 0x1400 then
    let f : Fin 4 := ix 4 ((off - 0x1000) / 0x100)
    match off % 0x100 with
    | 0x00 => s.flightCtrl f v
    | 0x10 => s.modFlight f fun x => { x with plane := bit v 16, index := fld v 0 11 }
    | _ => s
  else s

end Sys2Proof.Machine
end

