-- ==== Sys2Proof/Machine/TwoWire.lean ====
section
/-! DEFINITION. The two-wire bus controllers (16): transfers, arbitration, the target role, timeouts, recovery, ALERT,
attention messages and the TWB registers. -/

namespace Sys2Proof.Machine

def State.modTwb (b : Fin 3) (f : Twb → Twb) (s : State) : State := { s with twb := vmod s.twb b f }

/-- The owner of TWB_b as an agent code (R588). -/
def Layout.twbOwnerCode (L : Layout) (b : Fin 3) : BitVec 5 := match L.twbOwner b.val with
  | some n => BitVec.ofNat 5 n.val
  | none => 16

/-- Counter `i`: losses, PEC errors, timeouts, FIFO discards, foreign writes (R616). -/
def State.twbCount (b : Fin 3) (i : Fin 5) (s : State) : State :=
  let k := s.twb[b].cnt[i]
  (s.modTwb b fun x => { x with cnt := vset x.cnt i (satInc k) }).satEvent k 1

/-- `f` when the agent owns TWB_b, else the write is discarded and counted (R589). -/
def State.twbBy (a : Agent) (b : Fin 3) (f : State → State) (s : State) : State :=
  if !s.heard a 50 then s else if s.lo.twbOwnerCode b = agentCode a then f s else s.twbCount b 4

/-- Bit `i` of CAUSE is set: 0 XFER_DONE, 1 TARGET_END, 2 ALERT_IN, 3 STUCK, 4 HOLD_STOP, 5 ATTN_RX (R614). -/
def State.twbCause (b : Fin 3) (i : Nat) (s : State) : State :=
  (s.modTwb b fun x => { x with cause := setBit x.cause i true }).raise (evTwb b)

/-- The controllers' island is on. -/
def State.twbOn (s : State) : Bool := s.unitOn 50

def Twb.targetEn (x : Twb) : Bool := bit x.cfg 4
def Twb.autoRecover (x : Twb) : Bool := bit x.cfg 3
def Twb.timeoutEn (x : Twb) : Bool := bit x.cfg 2
def Twb.retryMax (x : Twb) : Nat := fldN x.cfg 7 4

/-! PEC (R606). -/

/-- One octet of CRC-8, polynomial x^8 + x^2 + x + 1. -/
def pecStep (c o : Octet) : Octet :=
  (List.range 8).foldl (fun c _ => if bit c 7 then (c <<< 1) ^^^ 0x07 else c <<< 1) (c ^^^ o)

def pec (c : Octet) (os : List Octet) : Octet := os.foldl pecStep c

/-- The address octets of a transfer; a repeated START for a read sends the header octet alone. -/
def addressOctets (ten rd again : Bool) (addr : BitVec 10) : List Octet :=
  if ten then
    let h : Octet := (0b11110#5 ++ fld addr 8 2 ++ bool 1 rd : BitVec 8)
    if again && rd then [h] else [h, fld addr 0 8]
  else [(fld addr 0 7 ++ bool 1 rd : BitVec 8)]

/-! Results (R598). -/

/-- A result enters the result queue, XFER_DONE is set (R598, R610). -/
def State.twbResult (b : Fin 3) (attn : Bool) (count : Nat) (status : BitVec 4) (s : State) : State :=
  let r : BitVec 14 := (bool 1 attn ++ BitVec.ofNat 9 count ++ status : BitVec 14)
  (s.modTwb b fun x =>
    { x with res := if x.res.queue.length < 8 then { x.res with queue := x.res.queue ++ [r] } else x.res }).twbCause b 0

/-- `n` results of ABORTED. -/
def State.twbAborted (b : Fin 3) : Nat → State → State
  | 0, s => s
  | n + 1, s => State.twbAborted b n (s.twbResult b false 0 7)

/-- TXD and the transfer queue are emptied, each queued descriptor gets ABORTED; a descriptor in progress stays (R598). -/
def State.twbEmpty (b : Fin 3) (s : State) : State :=
  let x := s.twb[b]
  let busy := x.role == .controller false
  let keep := if busy then x.queue.take 1 else []
  (s.modTwb b fun x => { x with txd := [], queue := keep }).twbAborted b (x.queue.length - keep.length)

/-- The transfer in progress ends with STATUS and COUNT (R594, R598, R610). -/
def State.twbEnd (b : Fin 3) (status : BitVec 4) (count : Nat) (s : State) : State :=
  let x := s.twb[b]
  let status := if x.ending then 7 else status
  let s := if status = 5 then s.twbCount b 1 else s
  match x.role with
  | .controller true =>
    (s.modTwb b fun x => { x with role := .idle, attnGo := false, losses := 0, ending := false, stretch := none }).twbResult
      b true count status
  | .controller false =>
    let stop := match x.queue.head? with
      | some d => d.stop
      | none => true
    let s := s.modTwb b fun x =>
      { x with role := .idle, queue := x.queue.tail, losses := 0, ending := false, stretch := none,
               holds := status == 0 && !stop, holdCyc := s.tb.clk.cycles }
    let s := s.twbResult b false count status
    if status = 0 then s else s.twbEmpty b
  | _ => s

/-- The target leaves its transfer; TLAST: 1 OK, 2 STRETCH_TO, 3 TIMEOUT (R600, R601, R605). -/
def State.twbLeave (b : Fin 3) (last : BitVec 3) (s : State) : State :=
  (s.modTwb b fun x => { x with role := .idle, stretch := none, tlast := last }).twbCause b 1

/-- FIFOs give and take what the held transfer waits for; it ends when nothing is left (R597, R601). -/
def State.twbPump (b : Fin 3) (s : State) : State :=
  let x := s.twb[b]
  match x.stretch with
  | none => s
  | some (.read rest status count) =>
    let room := 32 - x.rxd.length
    let s := s.modTwb b fun x =>
      { x with rxd := x.rxd ++ rest.take room, stretch := some (.read (rest.drop room) status count) }
    if rest.length ≤ room then s.twbEnd b status count else s
  | some (.write need status count) =>
    let s := s.modTwb b fun x =>
      { x with crc := pec x.crc (x.txd.take need), txd := x.txd.drop need,
               stretch := some (.write (need - x.txd.length) status count) }
    if need ≤ x.txd.length then s.twbEnd b status count else s
  | some (.targetWrite rest) =>
    let room := 32 - x.trx.length
    let s := s.modTwb b fun x => { x with trx := x.trx ++ rest.take room, stretch := some (.targetWrite (rest.drop room)) }
    if rest.length ≤ room then s.twbLeave b 1 else s
  | some (.targetRead need) =>
    let s := s.modTwb b fun x => { x with ttx := x.ttx.drop need, stretch := some (.targetRead (need - x.ttx.length)) }
    if need ≤ x.ttx.length then s.twbLeave b 1 else s

/-! Controller transfers (R593-R598). -/

/-- A write of XFER appends a descriptor built from XADDR; a full queue takes none. -/
def State.twbXfer (b : Fin 3) (v : Word) (s : State) : State :=
  let x := s.twb[b]
  if 4 ≤ x.queue.length then s.twbCount b 3
  else
    s.modTwb b fun x =>
      { x with queue := x.queue ++ [{ rd := bit x.xaddr 11, ten := bit x.xaddr 10, addr := fld x.xaddr 0 10,
                                      pec := bit v 9, stop := bit v 8, len := fld v 0 8 }] }

def execTwbXfer (a : Agent) (b : Fin 3) (v : Word) (s : State) : Host.Outcome State Fault Refusal :=
  let s := s.paid a
  .next (s.twbBy a b fun s => s.twbXfer b v)

/-- The head descriptor, or a waiting attention message, starts on a free bus (R596, R610). -/
def execTwbTransferStart (b : Fin 3) (s : State) : Host.Outcome State Fault Refusal :=
  let x := s.twb[b]
  if !s.twbOn ∨ x.role ≠ .idle ∨ x.recover ∨ 8 ≤ x.res.queue.length then .next s
  else if x.attnGo ∧ !x.holds then
    .next (s.modTwb b fun x =>
      { x with role := .controller true, crc := pec 0 (addressOctets false false false (fld x.attnTx 0 7 |>.setWidth 10)) })
  else match x.queue.head? with
    | none => .next s
    | some d =>
      let c := pec (if x.holds then x.crc else 0) (addressOctets d.ten d.rd x.holds d.addr)
      .next (s.modTwb b fun x => { x with role := .controller false, crc := c })

/-- A transfer has passed on the bus: `status` and, of a write, the octets sent; of a read the octets received, its PEC the
last (R593, R598, R606). -/
def execTwbTransferDone (b : Fin 3) (status : BitVec 4) (count : Nat) (rx : List Octet) (s : State) :
    Host.Outcome State Fault Refusal :=
  let x := s.twb[b]
  if x.stretch.isSome ∨ !s.twbOn then .next s
  else match x.role with
    | .controller true => .next (s.twbEnd b status count)
    | .controller false =>
      match x.queue.head? with
      | none => .next s
      | some d =>
        if d.rd then
          let data := rx.take d.len.toNat
          let c := pec x.crc data
          let bad := d.pec && status == 0 && (rx.drop d.len.toNat).head? != some c
          let st := if bad then 5 else status
          .next ((s.modTwb b fun x => { x with crc := c, stretch := some (.read data st data.length) }).twbPump b)
        else
          let n := min count d.len.toNat
          .next ((s.modTwb b fun x => { x with stretch := some (.write n status n) }).twbPump b)
    | _ => .next s

/-- The address bits seen agree with an expected pattern, the R/W bit aside (R603). -/
def bitsAgree (want : List (Option Bool)) (seen : List Bool) : Bool :=
  (want.zip seen).all fun e => match e.1 with
    | some v => v == e.2
    | none => true

/-- The bits on the bus of an address, most significant first. -/
def addressBits (ten : Bool) (addr : BitVec 10) : List (Option Bool) :=
  if ten then [some true, some true, some true, some true, some false, some (bit addr 9), some (bit addr 8), none] ++
    (List.range 8).map fun i => some (bit addr (7 - i))
  else (List.range 7).map fun i => some (bit addr (6 - i))

def twbSlotEn (t : BitVec 13) : Bool := bit t 12
def twbSlotTen (t : BitVec 13) : Bool := bit t 11
def twbSlotPec (t : BitVec 13) : Bool := bit t 10
def twbSlotAddr (t : BitVec 13) : BitVec 10 := fld t 0 10

/-- The controller may be the one addressed (R603). -/
def Twb.mayBeAddressed (x : Twb) (seen : List Bool) : Bool :=
  (x.taddr.toList.any fun t => twbSlotEn t && bitsAgree (addressBits (twbSlotTen t) (twbSlotAddr t)) seen)
    || (bit x.attnRxa 8 && bitsAgree (addressBits false (fld x.attnRxa 0 7 |>.setWidth 10)) seen)

/-- Arbitration is lost: on as a target, retried, or given up (R602-R604). -/
def execTwbArbitrationLoss (b : Fin 3) (inAddress : Bool) (seen : List Bool) (s : State) : Host.Outcome State Fault Refusal :=
  let x := s.twb[b]
  match x.role with
  | .controller _ =>
    if !s.twbOn then .next s
    else
    let s := s.twbCount b 0
    let s := if x.retryMax ≤ x.losses then s.twbEnd b 3 0
      else s.modTwb b fun x => { x with role := .idle, losses := x.losses + 1, holds := false, stretch := none }
    let target := inAddress && x.targetEn && x.mayBeAddressed seen
    .next (if target then s.modTwb b fun x => { x with role := .target } else s)
  | _ => .next s

/-- 1 ms with the bus held and nothing queued (R595). -/
def execTwbHoldStop (b : Fin 3) (s : State) : Host.Outcome State Fault Refusal :=
  let x := s.twb[b]
  if x.holds && x.role == .idle && x.queue.isEmpty && s.twbOn then
    .next (s.whenAt (x.holdCyc + msCycles 1) fun s => (s.modTwb b fun x => { x with holds := false }).twbCause b 4)
  else .next s

/-! The target role (R599-R601). -/

/-- The enabled slot that an address matches. -/
def Twb.slotOf (x : Twb) (ten : Bool) (addr : BitVec 10) : Option (Fin 2) :=
  (List.finRange 2).find? fun i =>
    let t := x.taddr[i]
    twbSlotEn t && twbSlotTen t == ten && (if ten then twbSlotAddr t == addr else fld t 0 7 == fld addr 0 7)

/-- TRX entries of a target write: octet, FIRST, LAST, PEC_BAD, SLOT (R600). -/
def trxEntries (slot : Fin 2) (bad : Bool) (os : List Octet) : List (BitVec 12) :=
  ((List.range os.length).zip os).map fun e =>
    let last := e.1 + 1 == os.length
    (bool 1 (slot == 1) ++ bool 1 (last && bad) ++ bool 1 last ++ bool 1 (e.1 == 0) ++ e.2 : BitVec 12)

/-- A controller on the bus addresses this target: it takes a write's octets, or gives `count` octets of TTX to a read
(R599, R600, R606); a read at 0x0C releases ALERT (R609). -/
def execTwbTargetTransfer (b : Fin 3) (ten : Bool) (addr : BitVec 10) (rd : Bool) (octets : List Octet) (count : Nat)
    (s : State) : Host.Outcome State Fault Refusal :=
  let x := s.twb[b]
  let free := x.role == .idle || x.role == .target
  if !s.twbOn ∨ !x.targetEn ∨ !free ∨ x.stretch.isSome then .next s
  else if rd ∧ !ten ∧ fld addr 0 7 = 0x0C#7 ∧ x.alertLow then
    .next ((s.modTwb b fun x => { x with alertLow := false }).twbLeave b 1)
  else match x.slotOf ten addr with
    | none => .next s
    | some i =>
      let s := s.modTwb b fun x => { x with role := .target }
      if rd then .next ((s.modTwb b fun x => { x with stretch := some (.targetRead count) }).twbPump b)
      else
        let c := pec (pec 0 (addressOctets ten false false addr)) octets.dropLast
        let bad := twbSlotPec x.taddr[i] && octets.getLast? != some c && !octets.isEmpty
        let s := if bad then s.twbCount b 1 else s
        .next ((s.modTwb b fun x => { x with stretch := some (.targetWrite (trxEntries i bad octets)) }).twbPump b)

/-- The target's holds reach 20 ms (R601). -/
def execTwbStretchTimeout (b : Fin 3) (s : State) : Host.Outcome State Fault Refusal :=
  let x := s.twb[b]
  if x.timeoutEn && x.role == .target && x.stretch.isSome && s.twbOn then .next (s.twbLeave b 2) else .next s

/-- An SMBus timeout ends the current transfer (R605). -/
def execTwbTimeout (b : Fin 3) (s : State) : Host.Outcome State Fault Refusal :=
  let x := s.twb[b]
  if !x.timeoutEn ∨ !s.twbOn then .next s
  else match x.role with
    | .idle => .next s
    | .target => .next (s.twbLeave b 3)
    | .controller _ =>
      let count := match x.stretch with
        | some (.read rest _ n) => n - rest.length
        | some (.write need _ n) => n - need
        | _ => 0
      .next ((s.twbCount b 2).twbEnd b 4 count)

/-! Bus-stuck recovery (R607, R608). -/

/-- SDA low for 1 ms with no transfer of this controller in progress (R607). -/
def execTwbStuck (b : Fin 3) (s : State) : Host.Outcome State Fault Refusal :=
  let x := s.twb[b]
  if !s.twbOn ∨ x.role ≠ .idle ∨ x.holds then .next s
  else
    let s := s.twbCause b 3
    .next (if x.autoRecover then s.modTwb b fun x => { x with recover := true } else s)

def State.twbRecover (b : Fin 3) (s : State) : State := s.modTwb b fun x => { x with recover := true }

def execTwbRecover (a : Agent) (b : Fin 3) (s : State) : Host.Outcome State Fault Refusal :=
  let s := s.paid a
  .next (s.twbBy a b (·.twbRecover b))

/-- The recovery's pulses end: with a STOP when SDA reads high, else the head descriptor ends with STUCK (R608). -/
def execTwbRecoveryEnd (b : Fin 3) (sdaHigh : Bool) (s : State) : Host.Outcome State Fault Refusal :=
  let x := s.twb[b]
  if !x.recover ∨ !s.twbOn then .next s
  else
    let s := s.modTwb b fun x => { x with recover := false, holds := false }
    if sdaHigh ∨ x.queue.isEmpty then .next s
    else .next ((s.modTwb b fun x => { x with role := .controller false, ending := false }).twbEnd b 6 0)

/-! ALERT and attention (R609-R612). -/

/-- A low level on a wired ALERT pin (R609). -/
def execTwbAlertIn (b : Fin 3) (s : State) : Host.Outcome State Fault Refusal :=
  .next (if s.twbOn && (s.lo.pinOf 3 b.val 2).isSome then s.twbCause b 2 else s)

def State.alertSet (b : Fin 3) (s : State) : State := s.modTwb b fun x => { x with alertLow := true }
def State.alertClr (b : Fin 3) (s : State) : State := s.modTwb b fun x => { x with alertLow := false }
def State.attnGo (b : Fin 3) (s : State) : State := s.modTwb b fun x => { x with attnGo := true }

def execAlertSet (a : Agent) (b : Fin 3) (s : State) : Host.Outcome State Fault Refusal :=
  let s := s.paid a
  .next (s.twbBy a b (·.alertSet b))

def execAlertClr (a : Agent) (b : Fin 3) (s : State) : Host.Outcome State Fault Refusal :=
  let s := s.paid a
  .next (s.twbBy a b (·.alertClr b))

def execAttnGo (a : Agent) (b : Fin 3) (s : State) : Host.Outcome State Fault Refusal :=
  let s := s.paid a
  .next (s.twbBy a b (·.attnGo b))

/-- A waiting attention message is dropped and reports ABORTED; one on the bus ends after its octet (16, Corners). -/
def State.twbDropAttn (b : Fin 3) (s : State) : State :=
  let x := s.twb[b]
  if x.attnGo ∧ x.role ≠ .controller true then
    (s.modTwb b fun x => { x with attnGo := false, losses := 0 }).twbResult b true 0 7
  else s

/-- A transfer in progress ends after its current octet, with a STOP: at once where SCL is held between octets (R598). -/
def State.twbCut (b : Fin 3) (s : State) : State :=
  let x := s.twb[b]
  match x.role with
  | .controller _ =>
    let s := s.modTwb b fun x => { x with ending := true }
    if x.stretch.isSome then s.twbEnd b 7 0 else s
  | _ => s.modTwb b fun x => { x with holds := false }

/-- CTRL.FLUSH (R598). -/
def State.twbFlush (b : Fin 3) (s : State) : State := ((s.twbDropAttn b).twbEmpty b).twbCut b

def execTwbFlush (a : Agent) (b : Fin 3) (s : State) : Host.Outcome State Fault Refusal :=
  let s := s.paid a
  .next (s.twbBy a b (·.twbFlush b))

/-- The owner is lost: queues and FIFOs are emptied (R613). -/
def State.twbOwnerLoss (b : Fin 3) (s : State) : State :=
  (s.modTwb b fun x =>
    { x with rxd := [], ttx := [], trx := [], attn := [], attnLast := none, res := { queue := [], last := none } }).twbFlush b

/-- An attention write is received; its PEC, when checked, is the last octet (R611). One that delivers no message ends as any target
transfer (DEDUCED, log 180). -/
def execTwbAttentionReceive (b : Fin 3) (octets : List Octet) (s : State) : Host.Outcome State Fault Refusal :=
  let x := s.twb[b]
  let free := x.role == .idle || x.role == .target
  if !s.twbOn ∨ !bit x.attnRxa 8 ∨ !free ∨ x.stretch.isSome ∨ 4 ≤ x.attn.length then .next s
  else
    let checked := bit x.attnRxa 7
    let data := if checked then octets.dropLast else octets
    let c := pec (pec 0 (addressOctets false false false (fld x.attnRxa 0 7 |>.setWidth 10))) data
    let s := s.modTwb b fun x => { x with role := .idle, tlast := 1 }
    if checked ∧ octets.getLast? ≠ some c then .next ((s.twbCount b 1).twbLeave b 1)
    else if data.length = 0 ∨ 4 < data.length then .next (s.twbLeave b 1)
    else
      .next (((s.modTwb b fun x => { x with attn := x.attn ++ [(checked, data)] }).twbCause b 5).raise evTwbAttention)

/-- PEC and LEN - 1 of a message (ATTN_RX_HD). -/
def attnHead (m : Bool × List Octet) : BitVec 32 := bitAt m.1 9 ||| at32 (BitVec.ofNat 2 (m.2.length - 1)) 7

/-- ATTN_RX_HD as it stands. -/
def Twb.attnHd (x : Twb) : BitVec 32 :=
  bitAt (!x.attn.isEmpty) 31 ||| bitAt (x.attn.isEmpty && x.attnLast.isSome) 30 |||
    (match x.attn.head? with
      | some m => attnHead m
      | none => match x.attnLast with
        | some m => attnHead m
        | none => 0)

/-- Octets `i` and `i + 1` of a message. -/
def attnWord (m : List Octet) (i : Nat) : BitVec 16 := m.getD (i + 1) 0 ++ m.getD i 0

/-- A read of ATTN_RX_HD: by the owner it consumes and latches (R612). -/
def State.attnRead (a : Agent) (b : Fin 3) (s : State) : BitVec 32 × State :=
  let x := s.twb[b]
  let v := x.attnHd
  if s.lo.twbOwnerCode b = agentCode a then
    match x.attn with
    | [] => (v, s)
    | m :: rest =>
      (v, s.modTwb b fun x =>
        { x with attn := rest, attnLast := some m, attnD := #v[attnWord m.2 0, attnWord m.2 2] })
  else (v, s)

def execAttnRxHdRead (a : Agent) (b : Fin 3) (s : State) : Host.Outcome State Fault Refusal :=
  let s := s.paid a
  let (v, s) := if s.heard a 50 then s.attnRead a b else s.silentAt a (0x2C044 + 0x400 * b.val)
  .next { s with rd := [v] }

/-! FIFOs (R592, R589). -/

def State.txdPush (b : Fin 3) (v : Octet) (s : State) : State :=
  if 32 ≤ s.twb[b].txd.length then s.twbCount b 3
  else (s.modTwb b fun x => { x with txd := x.txd ++ [v] }).twbPump b

def State.ttxPush (b : Fin 3) (v : Octet) (s : State) : State :=
  if 32 ≤ s.twb[b].ttx.length then s.twbCount b 3
  else (s.modTwb b fun x => { x with ttx := x.ttx ++ [v] }).twbPump b

/-- A read of RXD; only the owner's pops. -/
def State.rxdRead (a : Agent) (b : Fin 3) (s : State) : BitVec 32 × State :=
  match s.twb[b].rxd with
  | [] => (bitAt true 19, s)
  | o :: os =>
    (at32 o 0, if s.lo.twbOwnerCode b = agentCode a then (s.modTwb b fun x => { x with rxd := os }).twbPump b else s)

def State.trxRead (a : Agent) (b : Fin 3) (s : State) : BitVec 32 × State :=
  match s.twb[b].trx with
  | [] => (bitAt true 19, s)
  | e :: es =>
    (at32 e 0, if s.lo.twbOwnerCode b = agentCode a then (s.modTwb b fun x => { x with trx := es }).twbPump b else s)

def execTwbTxdPush (a : Agent) (b : Fin 3) (v : Octet) (s : State) : Host.Outcome State Fault Refusal :=
  let s := s.paid a
  .next (s.twbBy a b fun s => s.txdPush b v)

def execTwbTtxPush (a : Agent) (b : Fin 3) (v : Octet) (s : State) : Host.Outcome State Fault Refusal :=
  let s := s.paid a
  .next (s.twbBy a b fun s => s.ttxPush b v)

def execTwbRxdPop (a : Agent) (b : Fin 3) (s : State) : Host.Outcome State Fault Refusal :=
  let s := s.paid a
  let (v, s) := if s.heard a 50 then s.rxdRead a b else s.silentAt a (0x2C028 + 0x400 * b.val)
  .next { s with rd := [v] }

def execTwbTrxPop (a : Agent) (b : Fin 3) (s : State) : Host.Outcome State Fault Refusal :=
  let s := s.paid a
  let (v, s) := if s.heard a 50 then s.trxRead a b else s.silentAt a (0x2C030 + 0x400 * b.val)
  .next { s with rd := [v] }

/-! Registers (16, Registers), by offset from the controller's base. -/

def twbRoleCode : TwbRole → BitVec 2
  | .idle => 0
  | .controller _ => 1
  | .target => 2

/-- A register of TWB_b read by agent `a`, as Window A shows it. -/
def State.twbRead (a : Agent) (b : Fin 3) (off : Nat) (s : State) : BitVec 32 × State :=
  let x := s.twb[b]
  let plain (v : BitVec 32) : BitVec 32 × State := (v, s)
  match off with
  | 0x00 => plain (at32 x.cfg 0)
  | 0x04 => plain (at32 x.taddr[0] 0)
  | 0x08 => plain (at32 x.taddr[1] 0)
  | 0x0C => plain (at32 x.attnRxa 0)
  | 0x10 => plain (at32 x.attnTx 0)
  | 0x14 => plain (at32 x.attnData[0] 0)
  | 0x18 => plain (at32 x.attnData[1] 0)
  | 0x1C => plain (at32 x.xaddr 0)
  | 0x28 => s.rxdRead a b
  | 0x30 => s.trxRead a b
  | 0x34 =>
    let v := x.res.top ||| at32 x.res.shown 0
    if s.lo.twbOwnerCode b = agentCode a then (v, s.modTwb b fun x => { x with res := x.res.consume }) else plain v
  | 0x3C => plain (at32 x.tlast 17 ||| at32 (twbRoleCode x.role) 15 ||| at32 (BitVec.ofNat 3 x.queue.length) 12)
  | 0x40 => plain (at32 x.cause 0)
  | 0x44 => s.attnRead a b
  | 0x48 => plain (at32 x.attnD[0] 0)
  | 0x4C => plain (at32 x.attnD[1] 0)
  | _ =>
    if 0x50 ≤ off ∧ off < 0x64 ∧ off % 4 = 0 then
      let k := x.cnt[(ix 5 ((off - 0x50) / 4))]
      plain (at32 k 0 ||| bitAt (isSat k) 19)
    else plain 0

/-- The Hewer view of a word: bits 31 and 30 of a result register in bits 19 and 18 (R615). -/
def twbView (off : Nat) (v : BitVec 32) : Word :=
  if off = 0x34 ∨ off = 0x44 then fld v 0 20 ||| (bool 20 (bit v 31) <<< 19) ||| (bool 20 (bit v 30) <<< 18) else fld v 0 20

/-- Actions of CTRL. -/
def State.twbCtrl (b : Fin 3) (v : BitVec 32) (s : State) : State :=
  let s := if bit v 3 then s.twbFlush b else s
  let s := if bit v 0 then s.attnGo b else s
  let s := if bit v 2 then s.twbRecover b else s
  let s := if bit v 4 then s.alertSet b else s
  if bit v 5 then s.alertClr b else s

/-- A TWB register written by agent `a` (R589). -/
def State.twbWrite (a : Agent) (b : Fin 3) (off : Nat) (v : BitVec 32) (s : State) : State :=
  if 0x64 ≤ off ∨ off % 4 ≠ 0 then s
  else
    s.twbBy a b fun s =>
      match off with
      | 0x00 => s.modTwb b fun x =>
        { x with cfg := (fld v 0 11 &&& 0x79C) ||| (if fldN v 0 2 = 3 then 0 else fld v 0 2).setWidth 11 }
      | 0x04 => s.modTwb b fun x => { x with taddr := vset x.taddr 0 (fld v 0 13) }
      | 0x08 => s.modTwb b fun x => { x with taddr := vset x.taddr 1 (fld v 0 13) }
      | 0x0C => s.modTwb b fun x => { x with attnRxa := fld v 0 9 }
      | 0x10 => s.modTwb b fun x => { x with attnTx := fld v 0 11 &&& 0x77F }
      | 0x14 => s.modTwb b fun x => { x with attnData := vset x.attnData 0 (fld v 0 16) }
      | 0x18 => s.modTwb b fun x => { x with attnData := vset x.attnData 1 (fld v 0 16) }
      | 0x1C => s.modTwb b fun x => { x with xaddr := fld v 0 12 }
      | 0x20 => s.twbXfer b (fld v 0 20)
      | 0x24 => s.txdPush b (fld v 0 8)
      | 0x2C => s.ttxPush b (fld v 0 8)
      | 0x38 => s.twbCtrl b v
      | 0x40 => s.modTwb b fun x => { x with cause := x.cause &&& ~~~fld v 0 6 }
      | _ => s

end Sys2Proof.Machine
end

