-- ==== Sys2Proof/Machine/Chute.lean ====
section
/-! DEFINITION. Chute writes and reads by their endpoints, and the event router's registers (18). -/

namespace Sys2Proof.Machine

/-- A discarded Chute write is counted (R659). -/
def State.misuse (e : ChuteEnd) (s : State) : State :=
  match e with
  | .ctx h =>
    let c := s.chu.ctx[h].misuse
    (s.modCtx h fun x => { x with misuse := satInc x.misuse }).satEvent c 1
  | .warden =>
    let c := s.chu.wdnMisuse
    ({ s with chu := { s.chu with wdnMisuse := satInc c } } : State).satEvent c 1
  | .hewer n => s.accCount n

/-- `f` when endpoint `e` is the channel's sender: nobody else reaches it so (R656). -/
def State.asSender (e : ChuteEnd) (c : Fin 168) (f : State → State) (s : State) : State :=
  if chanSender c = e then f s else s

/-- `f` when endpoint `e` is the channel's receiver. -/
def State.asReceiver (e : ChuteEnd) (c : Fin 168) (f : State → State) (s : State) : State :=
  if chanReceiver c = e then f s else s

/-- The sender writes slot word `i` (R659). -/
def State.chuteWrite (e : ChuteEnd) (c : Fin 168) (i : Fin 16) (v : Word) (s : State) : State :=
  s.asSender e c fun s =>
    if s.chu.chan[c].st = .full then s.misuse e else s.modChan c fun x => { x with slot := vset x.slot i v }

/-- SEND (R657, R659, R660). -/
def State.chuteSend (e : ChuteEnd) (c : Fin 168) (len : BitVec 5) (s : State) : State :=
  s.asSender e c fun s =>
    if s.chu.chan[c].st ≠ .empty ∨ len = 0 ∨ 16 < len.toNat then s.misuse e
    else if s.available (chanReceiver c) then (s.modChan c fun x => { x with st := .full, len := len }).ringBell e c
    else (s.modChan c fun x => { x with st := .aborted, len := len }).noticeAborted c

/-- FREE (R657, R669). -/
def State.chuteFree (e : ChuteEnd) (c : Fin 168) (s : State) : State :=
  s.asReceiver e c fun s =>
    if s.chu.chan[c].st ≠ .full then s.misuse e
    else ((s.modChan c fun x => { x with st := .empty }).withdrawBell c).noticeFreed e c

/-- ACK_ABORT (R657). -/
def State.chuteAck (e : ChuteEnd) (c : Fin 168) (s : State) : State :=
  s.asSender e c fun s =>
    if s.chu.chan[c].st ≠ .aborted then s.misuse e else s.modChan c fun x => { x with st := .empty }

/-- A context's write has no effect while an H reset runs (17 R654). -/
def State.chuteOpen (s : State) : ChuteEnd → Bool
  | .ctx _ => s.hostWorks
  | _ => true

def execChuteSlotWrite (a : ChuteEnd) (c : Fin 168) (i : Fin 16) (v : Word) (s : State) : Host.Outcome State Fault Refusal :=
  let s := s.paidEnd a
  .next (if s.chuteOpen a then s.chuteWrite a c i v else s)

def execChuteSend (a : ChuteEnd) (c : Fin 168) (len : BitVec 5) (s : State) : Host.Outcome State Fault Refusal :=
  let s := s.paidEnd a
  .next (if s.chuteOpen a then s.chuteSend a c len else s)

def execChuteFree (a : ChuteEnd) (c : Fin 168) (s : State) : Host.Outcome State Fault Refusal :=
  let s := s.paidEnd a
  .next (if s.chuteOpen a then s.chuteFree a c else s)

def execChuteAckAbort (a : ChuteEnd) (c : Fin 168) (s : State) : Host.Outcome State Fault Refusal :=
  let s := s.paidEnd a
  .next (if s.chuteOpen a then s.chuteAck a c else s)

/-- A write of an outgoing state word: more than one of SEND and ACK_ABORT is discarded (R659). -/
def State.chuteOut (e : ChuteEnd) (c : Fin 168) (send ack : Bool) (len : BitVec 5) (s : State) : State :=
  if send && ack then s.asSender e c fun s => s.misuse e
  else if send then s.chuteSend e c len
  else if ack then s.chuteAck e c
  else s

def chuteCode : ChuteState → BitVec 2
  | .empty => 0
  | .full => 1
  | .aborted => 2

/-- The state word its sender reads: LEN and STATE (R657). -/
def State.chuteOutWord (s : State) (c : Fin 168) : Word :=
  let x := s.chu.chan[c]
  (x.len.setWidth 20 <<< 4) ||| (chuteCode x.st).setWidth 20

/-- The state word its receiver reads: FULL or EMPTY (R657). -/
def State.chuteInWord (s : State) (c : Fin 168) : Word :=
  let x := s.chu.chan[c]
  if x.st = .full then (x.len.setWidth 20 <<< 4) ||| 1 else 0

/-- Slot word `i` as the receiver reads it (R658). -/
def State.chuteIn (s : State) (c : Fin 168) (i : Fin 16) : Word :=
  let x := s.chu.chan[c]
  if x.st = .full ∧ i.val < x.len.toNat then x.slot[i] else 0

/-- Channels by endpoint and peer (R655): peer 0 of a context is the Warden, 1 + n Hewer n. -/
def ctxOut (h : Fin 4) (j : Nat) : Fin 168 := if j = 0 then ix 168 h.val else ix 168 (8 + 16 * h.val + (j - 1))
def ctxIn (h : Fin 4) (j : Nat) : Fin 168 := if j = 0 then ix 168 (4 + h.val) else ix 168 (72 + 16 * h.val + (j - 1))
/-- Peer `k` of a Hewer: 0-3 context `k`, 4 the Warden. -/
def hewerOut (n : Fin 16) (k : Nat) : Fin 168 := if k < 4 then ix 168 (72 + 16 * k + n.val) else ix 168 (152 + n.val)
def hewerIn (n : Fin 16) (k : Nat) : Fin 168 := if k < 4 then ix 168 (8 + 16 * k + n.val) else ix 168 (136 + n.val)
/-- Peer `k` of the Warden: 0-3 context `k`, 4 + n Hewer n. -/
def wardenOut (k : Nat) : Fin 168 := if k < 4 then ix 168 (4 + k) else ix 168 (136 + (k - 4))
def wardenIn (k : Nat) : Fin 168 := if k < 4 then ix 168 k else ix 168 (152 + (k - 4))

/-! A context's page (CHU.CTX_h), by offset from its base. -/

/-- IN_FULL of context `h`. -/
def State.inFull (s : State) (h : Fin 4) : BitVec 17 :=
  (List.range 17).foldl (fun m j => setBit m j (s.chu.chan[(ctxIn h j)].st == .full)) 0

def State.ctxRead (h : Fin 4) (off : Nat) (s : State) : BitVec 32 :=
  let x := s.chu.ctx[h]
  if off < 0x440 then at32 s.chu.chan[(ctxOut h (off / 0x40))].slot[(ix 16 (off % 0x40 / 4))] 0
  else if 0x800 ≤ off ∧ off < 0xC40 then at32 (s.chuteIn (ctxIn h ((off - 0x800) / 0x40)) (ix 16 (off % 0x40 / 4))) 0
  else if 0xE00 ≤ off ∧ off < 0xE44 then at32 (s.chuteOutWord (ctxOut h ((off - 0xE00) / 4))) 0
  else if 0xE80 ≤ off ∧ off < 0xEC4 then at32 (s.chuteInWord (ctxIn h ((off - 0xE80) / 4))) 0
  else match off with
    | 0xF00 => at32 (s.inFull h) 0
    | 0xF04 => at32 x.freed 0
    | 0xF08 => at32 x.aborted 0
    | 0xF10 => bitAt x.en 31 ||| at32 x.pins 8 ||| at32 x.vec 0
    | 0xF14 => satWord x.misuse
    | _ => 0

def State.ctxWrite (h : Fin 4) (off : Nat) (v : BitVec 32) (s : State) : State :=
  if off < 0x440 then s.chuteWrite (.ctx h) (ctxOut h (off / 0x40)) (ix 16 (off % 0x40 / 4)) (fld v 0 20)
  else if 0xE00 ≤ off ∧ off < 0xE44 then
    s.chuteOut (.ctx h) (ctxOut h ((off - 0xE00) / 4)) (bit v 31) (bit v 30) (fld v 0 5)
  else if 0xE80 ≤ off ∧ off < 0xEC4 then
    if bit v 31 then s.chuteFree (.ctx h) (ctxIn h ((off - 0xE80) / 4)) else s
  else match off with
    | 0xF04 => s.modCtx h fun x => { x with freed := x.freed &&& ~~~fld v 0 17 }
    | 0xF08 => s.modCtx h fun x => { x with aborted := x.aborted &&& ~~~fld v 0 17 }
    | 0xF10 => s.modCtx h fun x => { x with en := bit v 31, pins := fld v 8 4, vec := fld v 0 5 }
    | _ => s

/-! The event router (R674-R682). -/

def State.modEvt (f : Events → Events) (s : State) : State := { s with evt := f s.evt }
def State.modRoute (e : EventId) (f : EvRoute → EvRoute) (s : State) : State :=
  s.modEvt fun x => { x with route := vmod x.route e f }

/-- An agent's write of its part of a route (R677). -/
def State.routeWrite (a : Agent) (e : EventId) (part : RoutePart) (v : BitVec 32) (s : State) : State :=
  match part, a with
  | .pins, .host => s.modRoute e fun r => { r with pins := fld v 0 4 }
  | .pins, .warden => s.modRoute e fun r => { r with pins := fld v 0 4 }
  | .msix, .host => s.modRoute e fun r => { r with msix := v }
  | .msix, .warden => s.modRoute e fun r => { r with msix := v }
  | .wdn, .warden => s.modRoute e fun r => { r with wdn := v }
  | .hewer, .hewer n => s.modRoute e fun r => { r with hewers := vset r.hewers n (fld v 0 6) }
  | _, _ => s

/-- The agent's accesses take effect: not the host's while an H reset runs (17 R654). -/
def State.lets (s : State) : Agent → Bool
  | .host => s.hostLets
  | _ => s.awake

def execEventRouteWrite (a : Agent) (e : Fin 128) (part : RoutePart) (v : BitVec 32) (s : State) :
    Host.Outcome State Fault Refusal :=
  let s := s.paid a
  .next (if s.lets a then s.routeWrite a e part v else s)

/-- A W1C write of STATUS_k (R675). -/
def State.statusClear (k : Fin 4) (v : BitVec 32) (s : State) : State :=
  s.modEvt fun x => { x with status := x.status &&& ~~~(v.setWidth 128 <<< (32 * k.val)) }

def execEventStatusClear (a : Agent) (k : Fin 4) (v : BitVec 32) (s : State) : Host.Outcome State Fault Refusal :=
  let s := s.paid a
  .next (if s.reachesAon a then s.statusClear k v else s)

/-- CLR_CNT. -/
def State.countClear (s : State) : State := s.modEvt fun x => { x with count := Vector.replicate 128 0 }

def execEventCountClear (a : Agent) (s : State) : Host.Outcome State Fault Refusal :=
  let s := s.paid a
  .next (if s.reachesAon a then s.countClear else s)

/-- A waiting MSI-X message is issued: not in D3hot, nor from a masked entry (R681, 17 R623, R624). -/
def execMsixMessage (v : Fin 32) (s : State) : Host.Outcome State Fault Refusal :=
  let h := s.host
  if h.hsel = 0 ∧ bit h.pba v.val ∧ !h.msix[v].mask ∧ !h.d3 ∧ !h.resetting then
    .next { s.modHost (fun h => { h with pba := setBit h.pba v.val false }) with sent := .msix v :: s.sent }
  else .next s

/-- Events with a held delivery (HELD_k). -/
def State.heldEvents (s : State) : BitVec 128 :=
  s.sbu.heldq.foldl (fun m h => match h with
    | .event e _ => setBit m e.val true
    | .bell c _ => match chanReceiver c with
      | .ctx _ => setBit m evBellHost.val true
      | _ => m
    | .freed c _ => match chanSender c with
      | .ctx _ => setBit m evChuteFreed.val true
      | _ => m) 0

/-- Which Hewers have an entry for an event. -/
def EvRoute.hewerBits (r : EvRoute) : BitVec 16 :=
  (List.finRange 16).foldl (fun m n => setBit m n.val (bit r.hewers[n] 5)) 0

/-- EVT block by offset from 0x0_4000. -/
def State.evtRead (off : Nat) (s : State) : BitVec 32 :=
  let x := s.evt
  if off < 0x10 then fld x.status (8 * off) 32
  else if off = 0x10 then at32 x.od 4 ||| at32 x.pol 0
  else if off = 0x14 then at32 s.irq 0
  else if 0x20 ≤ off ∧ off < 0x30 then fld s.heldEvents (8 * (off - 0x20)) 32
  else if 0x800 ≤ off ∧ off < 0x1000 then
    let r := x.route[(ix 128 ((off - 0x800) / 0x10))]
    match off % 0x10 with
    | 0 => at32 r.pins 0
    | 4 => r.msix
    | 8 => r.wdn
    | _ => at32 r.hewerBits 0
  else if 0x1000 ≤ off ∧ off < 0x1200 then satWord x.count[(ix 128 ((off - 0x1000) / 4))]
  else 0

def State.evtWrite (a : Agent) (off : Nat) (v : BitVec 32) (s : State) : State :=
  if off < 0x10 then s.statusClear (ix 4 (off / 4)) v
  else if off = 0x10 then s.modEvt fun x => { x with od := fld v 4 4, pol := fld v 0 4 }
  else if off = 0x18 then (if bit v 0 then s.countClear else s)
  else if 0x800 ≤ off ∧ off < 0x1000 then
    let e : EventId := ix 128 ((off - 0x800) / 0x10)
    match off % 0x10 with
    | 0 => s.routeWrite a e .pins v
    | 4 => s.routeWrite a e .msix v
    | _ => s
  else s

end Sys2Proof.Machine
end

