-- ==== Sys2Proof/Machine/HostDma.lean ====
section
/-! DEFINITION. The host's DMA channels (17 R623-R633) with Bucking (11 R432-R434), Window C (17 R621, R622) and the H
reset (17 R652-R654). -/

namespace Sys2Proof.Machine

/-! Frames from the host port (17 R628). -/

/-- A seasoned frame of DMA channel `c` enters the Landing on switch port 6 (R628, 11 R434). Its ingress stamp is a system time that
the spec leaves open (02 R84; log 82). -/
def State.hostFrame (c : Fin 8) (m : List Octet) (s : State) : State :=
  if !s.landingOn then s
  else if s.lnd.descFree = 0 then s.ltally 20
  else
    let id := s.lnd.nextId
    let f : Frame :=
      { Frame.blank id 6 m with orig := some (actDma c), stamp := time80 (ofTime80 (s.freeVal 80)), eof := true }
    let s := s.drawn.modLnd fun l => { l with nextId := l.nextId + 1, frames := l.frames ++ [f] }
    let (ok, s) := s.storeTo id f.words
    if ok then (s.place id true).giveVerdict id (verdictWord f 0) else s.noBuffer id

/-! Bucking (11 R432, R433). -/

structure Buck where
  kind : Nat
  mss  : Nat
  l3   : Nat
  l4   : Nat
  deriving DecidableEq, Repr

/-- The Bucking word. -/
def buckOf (w : BitVec 32) : Buck := { kind := fldN w 30 2, mss := fldN w 16 14, l3 := fldN w 8 8, l4 := fldN w 0 8 }

def Buck.tcp (b : Buck) : Bool := decide (b.kind < 2)
def Buck.v6 (b : Buck) : Bool := b.kind % 2 == 1

/-- HDR, the header length. -/
def Buck.hdr (b : Buck) (m : List Octet) : Nat :=
  if b.tcp then b.l4 + 4 * ((m.getD (b.l4 + 12) 0).toNat / 16) else b.l4 + 8

/-- The reason a send is refused, none if it is not (R432). -/
def Buck.refusal (b : Buck) (m : List Octet) : Option (BitVec 3) :=
  let hdr := b.hdr m
  let ver := (m.getD b.l3 0).toNat / 16
  if 65536 < m.length ∨ m.length = hdr then some 1
  else if b.mss < 64 ∨ 9216 < hdr + b.mss + 4 then some 2
  else if b.l3 < 14 ∨ b.l4 < b.l3 + (if b.v6 then 40 else 20) ∨ m.length < hdr then some 3
  else if ver ≠ (if b.v6 then 6 else 4)
      ∨ (!b.v6 ∧ (m.getD (b.l3 + 9) 0).toNat ≠ (if b.tcp then 6 else 17))
      ∨ (b.tcp ∧ (m.getD (b.l4 + 12) 0).toNat / 16 < 5) then some 4
  else none

/-- The Internet checksum's sum of an octet string, the last octet padded with zero. -/
def sum16 (m : List Octet) : Nat := (List.range ((m.length + 1) / 2)).foldl (fun a i => a + be16 m (2 * i)) 0

/-- A ones-complement checksum of a sum. -/
def checksum (x : Nat) : Nat :=
  let a := x % 65536 + x / 65536
  let b := a % 65536 + a / 65536
  65535 - (b % 65536 + b / 65536)

/-- Segment `i` of `n` as a frame (R433). -/
def Buck.segment (b : Buck) (m : List Octet) (n i : Nat) : List Octet :=
  let hdr := b.hdr m
  let body := ((m.drop hdr).drop (i * b.mss)).take b.mss
  let h := m.take hdr
  let ipLen := hdr - b.l3 + body.length
  let h := if b.v6 then putBe h (b.l3 + 4) 2 (ipLen - 40)
    else
      let h := putBe (putBe h (b.l3 + 2) 2 ipLen) (b.l3 + 4) 2 ((be16 m (b.l3 + 4) + i) % 65536)
      let h := putBe h (b.l3 + 10) 2 0
      let ihl := 4 * ((m.getD b.l3 0).toNat % 16)
      putBe h (b.l3 + 10) 2 (checksum (sum16 ((h.drop b.l3).take ihl)))
  let h := if b.tcp then
      let h := putBe h (b.l4 + 4) 4 ((beNat m (b.l4 + 4) 4 + i * b.mss) % 2 ^ 32)
      let fl : Octet := m.getD (b.l4 + 13) 0
      let fl := if i + 1 = n then fl else fl &&& 0xF6#8
      let fl := if i = 0 then fl else fl &&& 0x7F#8
      putBe (h.set (b.l4 + 13) fl) (b.l4 + 16) 2 0
    else putBe (putBe h (b.l4 + 4) 2 (8 + body.length)) (b.l4 + 6) 2 0
  let l4len := hdr - b.l4 + body.length
  let addrs := if b.v6 then (h.drop (b.l3 + 8)).take 32 else (h.drop (b.l3 + 12)).take 8
  let proto := if b.tcp then 6 else 17
  let c := checksum (sum16 addrs + proto + l4len % 65536 + l4len / 65536 + sum16 (h.drop b.l4 ++ body))
  let h := if b.tcp then putBe h (b.l4 + 16) 2 c else putBe h (b.l4 + 6) 2 (if c = 0 then 65535 else c)
  h ++ body

/-- The frames of a send (R433). -/
def Buck.frames (b : Buck) (m : List Octet) : List (List Octet) :=
  let n := ceilDiv (m.length - b.hdr m) b.mss
  (List.range n).map fun i => b.segment m n i

/-! Channels (R626-R633). -/

def State.modDma (c : Fin 8) (f : Dma → Dma) (s : State) : State := s.modHost fun h => { h with dma := vmod h.dma c f }

/-- The channel works: enabled, or finishing its descriptor; PCIe selected, in D0, no H reset (R618, R623, R626, R627). -/
def State.dmaOn (s : State) (c : Fin 8) (rx : Bool) : Bool :=
  let h := s.host
  let d := h.dma[c]
  h.hsel == 0 && s.unitOn 51 && !h.resetting && (!h.d3 || d.busy) && (d.en || d.busy) && d.dir == rx && d.head != d.tail
    && !d.asleep

/-- DONE counts, and HEAD moves on in the ring (R632). -/
def State.dmaAdvance (c : Fin 8) (s : State) : State :=
  let k := s.host.dma[c].done
  (s.modDma c fun d =>
    { d with head := BitVec.ofNat 12 ((d.head.toNat + 1) % 2 ^ d.ring.toNat), done := satInc d.done, busy := false,
             held := false }).satEvent k 1

/-- The write-back of a descriptor, and its vector (R632, R633). -/
def State.dmaDone (c : Fin 8) (status : BitVec 4) (reason : BitVec 3) (len : BitVec 17) (info aux : BitVec 32)
    (data : List Octet) (s : State) : State :=
  let d := s.host.dma[c]
  let info' : BitVec 32 := (info &&& 0x00FE0000) ||| at32 reason 28 ||| at32 status 24 ||| at32 len 0
  let s : State := { s with sent := .dma c d.head info' aux data :: s.sent }
  let s := s.dmaAdvance c
  if bit info 21 then s.msix (1#32 <<< d.vec.toNat) else s

/-- A descriptor whose OWN is 0 puts the channel to sleep until the next write of TAIL (R626). -/
def State.dmaSleep (c : Fin 8) (s : State) : State := s.modDma c fun d => { d with asleep := true }

/-- A burst of `n` octets: charged, or held for budget (03 R113). -/
def State.dmaPay (c : Fin 8) (n : Nat) (s : State) : Bool × State :=
  let a := actDma c
  if n ≤ s.sbu.act[a].dma then (true, s.modAct a fun x => { x with dma := x.dma - n })
  else if s.host.dma[c].held then (false, s)
  else (false, (s.modDma c fun d => { d with busy := true, held := true }).heldInc a)

/-- ETH.BUCK_ERR (11 R432). -/
def State.buckRefused (r : BitVec 3) (s : State) : State :=
  let c := s.eth.buckErr
  (s.modEth fun e => { e with buckErr := satInc e.buckErr, buckReason := r }).satEvent c 1

/-- ETH.BUCK sends and segments. -/
def State.buckCount (n : Nat) (s : State) : State :=
  let a := s.eth.buckSends
  let b := s.eth.buckSegs
  ((s.modEth fun e => { e with buckSends := satInc e.buckSends, buckSegs := satAdd e.buckSegs n }).satEvent a 1).satEvent b n

/-- A TX channel's descriptor: `info` and `aux` are its octets 8-11 and 12-15, `octets` its buffer (R626, R628). -/
def execDmaTxDescriptor (c : Fin 8) (info aux : BitVec 32) (octets : List Octet) (s : State) :
    Host.Outcome State Fault Refusal :=
  if !s.dmaOn c false then .next s
  else if !bit info 31 then .next (s.dmaSleep c)
  else
    let len := fldN info 0 17
    let m := octets.take len ++ List.replicate (len - octets.length) 0
    let buck := bit info 20
    let b := buckOf aux
    let done (st : BitVec 4) (r : BitVec 3) (s : State) : State := s.dmaDone c st r (fld info 0 17) info aux []
    let refusal := if buck then b.refusal m else none
    if !buck ∧ (len < 14 ∨ 9212 < len) then .next (done 2 0 s)
    else match refusal with
      | some r => .next (done 1 r (s.buckRefused r))
      | none =>
        if (s.lo.dma (20 + c.val)).toNat < len then .next (done 3 0 s)
        else
          let (ok, s) := s.dmaPay c len
          if !ok then .next s
          else
            let ms := if buck then b.frames m else [m]
            let s := if buck then s.buckCount ms.length else s
            .next (done 0 0 (ms.foldl (fun s m => s.hostFrame c m) s))

/-- The head of class `t` of the host port. -/
def State.hostHead (s : State) (t : Fin 8) : Option Frame :=
  match s.lnd.queue[portQ 6 t] with
  | [] => none
  | id :: _ => s.frame? id

/-- An RX channel takes the head frame of its class into a descriptor (R629, R630); one that it does not drop needs the egress budget of
the host port (03 R93, R111, R112). -/
def execDmaRxFrame (c : Fin 8) (info _aux : BitVec 32) (s : State) : Host.Outcome State Fault Refusal :=
  if !s.dmaOn c true then .next s
  else if !bit info 31 then .next (s.dmaSleep c)
  else match s.hostHead c with
    | none => .next s
    | some f =>
      if !f.good ∨ f.wait ≠ .none then .next s
      else
        let n := f.octets.length
        let gone (s : State) : State := (s.leave (portQ 6 c) f.id).reap
        let (src, s) := if f.src < 8 then (BitVec.ofNat 3 f.src, s) else (s.freeVal 3, s.drawn)
        let aux' : BitVec 32 := at32 src 0 ||| at32 (BitVec.ofNat 3 c.val) 8
        let done (st : BitVec 4) (data : List Octet) (s : State) : State :=
          (gone s).dmaDone c st 0 (BitVec.ofNat 17 n) info aux' data
        if fldN info 0 17 < n then .next (done 5 [] s)
        else if (s.lo.dma (20 + c.val)).toNat < n then .next (done 3 [] s)
        else
          let (pays, s) := s.budgetTest 6 f f.wireLen
          if !pays then .next s
          else
            let (ok, s) := s.dmaPay c n
            .next (if ok then done 0 f.octets ((s.chargeStart 6 f f.wireLen).chargeEnd 6 f f.wireLen) else s)

/-- A PCIe error on a DMA request (R631). -/
def execDmaBusError (c : Fin 8) (writeBack : Bool) (info aux : BitVec 32) (s : State) : Host.Outcome State Fault Refusal :=
  let d := s.host.dma[c]
  if !(d.en || d.busy) ∨ s.host.hsel ≠ 0 then .next s
  else
    let s := if writeBack then s.dmaDone c 4 0 (fld info 0 17) info aux [] else s
    .next (s.modDma c fun d => { d with en := false, halt := true, busy := false, held := false })

def State.dmaTail (c : Fin 8) (v : BitVec 12) (s : State) : State := s.modDma c fun d => { d with tail := v, asleep := false }

def execDmaTailWrite (c : Fin 8) (v : BitVec 12) (s : State) : Host.Outcome State Fault Refusal :=
  let s := s.paid .host
  .next (if !s.hostLets then s else s.dmaTail c v)

/-- A write of CFG: DIR, VEC and RING only while EN and BUSY are 0 (R627). -/
def State.dmaCfg (c : Fin 8) (v : BitVec 32) (s : State) : State :=
  s.modDma c fun d =>
    let d := if d.en || d.busy then d
      else { d with dir := bit v 30, vec := fld v 16 5, ring := if 4 ≤ fldN v 0 4 ∧ fldN v 0 4 ≤ 12 then fld v 0 4 else 4 }
    { d with en := bit v 31, asleep := if bit v 31 && !d.en then false else d.asleep }

def execDmaCfgWrite (c : Fin 8) (v : BitVec 32) (s : State) : Host.Outcome State Fault Refusal :=
  let s := s.paid .host
  .next (if !s.hostLets then s else s.dmaCfg c v)

/-- Entry to D3hot (R623). -/
def execD3hotEntry (s : State) : Host.Outcome State Fault Refusal :=
  .next (if s.host.hsel = 0 then s.modHost fun h => { h with d3 := true } else s)

/-- Return to D0 (R623). -/
def execD0Return (s : State) : Host.Outcome State Fault Refusal := .next (s.modHost fun h => { h with d3 := false })

/-- The PCIe link trains (R653). -/
def execPcieLinkUp (speed width : BitVec 2) (s : State) : Host.Outcome State Fault Refusal :=
  .next (if s.host.hsel = 0 then
    s.modHost fun h => { h with linkUp := true, linkSpeed := speed, linkWidth := width, linkWait := false } else s)

/-! Window C (R621, R622). -/

/-- A Loft word as Window C shows it: one host beat of the Loft floor. -/
def State.windowCLoft (i : Nat) (s : State) : Word × State :=
  let (w, s) := s.loftRead i
  (w, s.hostBeat .loft)

/-- Landing word `i` of cell `k` (R622, 08 R330). -/
def State.windowCLanding (s : State) (k i : Nat) : Word :=
  match s.lnd.frames.find? fun f => (s.liveCells f).contains (BitVec.ofNat 14 k) with
  | none => idleWord
  | some f =>
    let w := 64 * f.chain.idxOf (BitVec.ofNat 14 k) + i
    if f.verdict.isSome && decide (w < f.words) then frameWord f.octets f.eof w else idleWord

/-- 32-bit slot `w` of Window C. -/
def State.windowCSlot (w : Nat) (s : State) : Word × State :=
  if w < 0x80000 then s.windowCLoft w
  else if 0x100000 ≤ w ∧ w < 0x200000 then (s.windowCLanding ((w - 0x100000) / 64) (w % 64), s)
  else (0, s)

/-- The slots of Window C that a run of octets touches, read once each. -/
def State.windowCRead (addr n : Nat) (s : State) : List (Nat × Word) × State :=
  (((List.range n).map fun i => (addr + i) / 4).eraseDups).foldl (fun (p : List (Nat × Word) × State) w =>
    let (v, s) := p.2.windowCSlot w
    (p.1 ++ [(w, v)], s)) ([], s)

/-- Octets of Window C from slots read. -/
def windowCOctets (ws : List (Nat × Word)) (addr n : Nat) : List Octet :=
  (List.range n).map fun i => match ws.find? fun e => e.1 == (addr + i) / 4 with
    | some (_, v) => fld v (8 * ((addr + i) % 4)) 8
    | none => 0

def execWindowCRead (addr count : Nat) (s : State) : Host.Outcome State Fault Refusal :=
  if !s.hostWorks then .next s
  else
    let (ws, s) := s.windowCRead addr count
    .next { s with rd := (windowCOctets ws addr count).map (·.setWidth 32) }

/-! H reset (R652-R654). -/

/-- Frames queued for the host port are freed and counted (R652). -/
def State.freeHostPort (s : State) : State :=
  (List.finRange 8).foldl (fun s t =>
    (s.lnd.queue[portQ 6 t]).foldl (fun s id => (s.leave (portQ 6 t) id).ltally 30) s) s |>.reap

/-- The registers outside the host interface that an H reset reaches: those whose Survives cell has no H (00 R16; 05, 20, 21, 22,
Registers). -/
def State.hostFields (s : State) : State :=
  { s with
    hw := s.hw.map (·.dropDbg),
    sec := { s.sec with auth := Sec.reset.auth, sig := Sec.reset.sig, host := RngPort.reset 128, hostData := 0,
                        attRes := ResultReg.empty 2, attSig := 0, attLatch := 0 },
    upd := { s.upd with slotSel := 0, ubuf := [] },
    pwr := { s.pwr with islRes := ResultReg.empty 9 } }

/-- The start of an H reset (R652; 18 R672, R678; 10 R405). Writes already in the parallel write buffer stay there
and still take effect. -/
def State.hostReset (s : State) : State :=
  let s := (List.finRange 4).foldl (fun s h =>
    let up := s.available (.ctx h)
    if up then s.abortTowards (.ctx h) else s) (s.modHost fun x => { x with ready := false })
  let s := s.modHost fun h =>
    { h with
      resetting := true, page := 0, errCount := 0, errLast := 0, qErr := false, dma := Vector.replicate 8 Dma.reset,
      msix := Vector.replicate 32 { addr := 0, data := 0, mask := true }, pba := 0, half := 0, heldLow := none,
      shadow := memClear h.shadow 0 262144 }
  let s : State := { s with chu := { s.chu with ctx := Vector.replicate 4 ChuteCtx.reset } }
  let s := s.modEvt fun x =>
    { x with od := 0, pol := 0, route := x.route.map fun r => { r with pins := 0, msix := 0 } }
  ((s.freeHostPort).galHReset).hostFields

/-- What triggers an H reset (17, Host-side reset). -/
def execHostReset (c : HostResetCause) (s : State) : Host.Outcome State Fault Refusal :=
  match c with
  | .key v => .next (if v = 0x04852#20 ∧ s.hostLets then (s.paid .host).hostReset else s.paid .host)
  | .linkDown =>
    .next (if s.host.hsel = 0 then
      s.hostReset.modHost fun h => { h with linkWait := true, linkUp := false, linkSpeed := 0, linkWidth := 0 } else s)
  | _ => .next (if s.host.hsel = 0 then s.hostReset else s)

/-- The H reset completes (R653). -/
def execHostResetComplete (s : State) : Host.Outcome State Fault Refusal :=
  if s.host.resetting ∧ !s.host.linkWait then
    .next ((s.modHost fun h => { h with resetting := false, ready := true }).raise evHostResetDone)
  else .next s

end Sys2Proof.Machine
end

