-- ==== Sys2Proof/Machine/LayParse.lean ====
section
/-! DEFINITION. Reading an image out of its octets (04 R137-R147): words in three-octet form, the layout's header, sections
and trailer, and the checks of R148 up to code 9. -/

namespace Sys2Proof.Machine

/-- Words from octets in three-octet form (R139). -/
def wordsOf : List Octet → List Word
  | a :: b :: c :: t => (fld c 0 4 ++ b ++ a : BitVec 20) :: wordsOf t
  | _ => []

/-- The three-octet form of words (R139). -/
def octets3 (ws : List Word) : List Octet := ws.flatMap fun w => [fld w 0 8, fld w 8 8, (fld w 16 4).setWidth 8]

/-- Word indices at which an octet breaks R139: the upper four bits of a third octet are not zero. -/
def brokenOctets : Nat → List Octet → List Nat
  | i, _ :: _ :: c :: t => if fldN c 4 4 = 0 then brokenOctets (i + 1) t else i :: brokenOctets (i + 1) t
  | _, _ => []

/-- A section with the index of its first header word. -/
structure Placed where
  start : Nat
  sect  : Section
  deriving DecidableEq, Repr

/-- A word index of the body. -/
def Placed.body (p : Placed) (i : Nat) : Nat := p.start + 2 + i

/-- The walk of the section headers from word `i` (R148 code 5): the sections, or the header at which it fails. -/
def walkSections (ws : List Word) (len : Nat) : Nat → Nat → List Placed → Sum Nat (List Placed)
  | 0, i, _ => .inl i
  | fuel + 1, i, acc =>
    if i = len then .inr acc.reverse
    else
      let n := (ws.getD (i + 1) 0).toNat
      if len < i + 2 + n then .inl i
      else
        let h := ws.getD i 0
        walkSections ws len fuel (i + 2 + n)
          ({ start := i, sect := { type := fldN h 12 8, inst := fldN h 0 12, body := (ws.drop (i + 2)).take n } } :: acc)

/-- A refused staging: the code of R148 and the offending word (R150). -/
structure LayFail where
  code : Nat
  word : Nat
  deriving DecidableEq, Repr

/-- `i` when the condition holds. -/
def badIf (c : Bool) (i : Nat) : List Nat := if c then [i] else []

/-- Bits `lo` and above of a word are not zero. -/
def above (w : Word) (lo : Nat) : Bool := decide (w.toNat / 2 ^ lo ≠ 0)

/-- The trailer: the reserved bits of KEY, and the upper bits that a packed r or s does not use (R146, R148). -/
def trailerBad (body : List Word) : List Nat :=
  badIf (above (body.getD 0 0) 2) 0 ++ badIf (above (body.getD 26 0) 16) 26 ++ badIf (above (body.getD 39 0) 16) 39

/-- The smallest of some word indices. -/
def leastOf : List Nat → Option Nat
  | [] => none
  | i :: is => some (is.foldl min i)

def LayFail.ofWords (code : Nat) (is : List Nat) : Option LayFail := (leastOf is).map fun i => { code := code, word := i }

/-- The octets of a 256-bit value, big-endian. -/
def octets256 (v : BitVec 256) : List Octet := (List.range 32).map fun k => fld v (8 * (31 - k)) 8

/-- The fused digest is that of the public key (20 R727). -/
def OwnerKey.genuine (o : OwnerKey) : Bool := sha256 (octets256 o.x ++ octets256 o.y) == o.digest

/-- Owner key `k`, absent where its digest does not match (20 R727). -/
def Flash.ownerKey (f : Flash) (k : Fin 4) : Option OwnerKey := f.owner[k].filter (·.genuine)

/-- The owner keys present with matching digest (20 R727, SEC.KEYS). -/
def Flash.present (f : Flash) : BitVec 4 := (List.finRange 4).foldl (fun v k => setBit v k.val (f.ownerKey k).isSome) 0

/-- Owner key `k` is usable (20 R727, R728). -/
def Flash.usable (f : Flash) (k : Nat) : Bool := decide (k < 4) && (f.ownerKey (ix 4 k)).isSome && !bit f.revoked k

/-- A signature verifies under owner key `k`, whose digest is checked before the use (20 R727, R728). -/
def Flash.verifies (f : Flash) (k : Nat) (digest r s : BitVec 256) : Bool := match f.ownerKey (ix 4 k) with
  | some o => Config.ecdsaVerify o.x o.y digest r s
  | none => false

/-- Body lengths a section may have (R148 code 9). -/
def bodyLenOk (x : Section) : Bool :=
  let w (i : Nat) : Word := x.body.getD i 0
  let n := x.body.length
  match x.type with
  | 1 => n == 17
  | 2 => n == 214 + 4 * fldN (w 212) 0 11 + 5 * fldN (w 213) 0 9
  | 3 => n == 96
  | 4 => if x.inst = 0 then n == 2 + 64 * fldN (w 0) 0 8 else if x.inst = 1 then n == 1 + 12 * fldN (w 0) 0 12 else n == 1
  | 5 => n == 1 + 5 * fldN (w 0) 0 7
  | 6 => n == 2 + 12 * (w 0).toNat + 3 * (w 1).toNat
  | 7 => n == 3
  | 8 =>
    let L : Layout := { Layout.blank with sections := [{ x with inst := 0 }] }
    let bs := slotBlocks L (fldN (w 0) 0 3) 1
    n == 1 + (bs.map fun i => 2 + 2 * fldN (w i) 3 6 + 3 * fldN (w i) 9 5).foldl (· + ·) 0
  | 9 => n == fldN (w 0) 0 10 + 2
  | 10 => n == 19
  | 11 => n == 50 + fldN (w 1) 0 12
  | _ => n == 40

/-- A known TYPE. -/
def knownType (t : Nat) : Bool := (decide (1 ≤ t) && decide (t ≤ 11)) || t == 0xFF

/-- Sections out of ascending order or twice (R142). -/
def orderBad : List Placed → List Nat
  | a :: b :: t =>
    (if a.sect.type < b.sect.type ∨ (a.sect.type = b.sect.type ∧ a.sect.inst < b.sect.inst) then [] else [b.start]) ++ orderBad (b :: t)
  | _ => []

/-- The stream of a slot, parsed and checked up to code 9 of R148 (R137-R147): the sections with their places. -/
def parseLayout (f : Flash) (os : List Octet) : Sum LayFail (List Placed × Layout) :=
  let ws := wordsOf os
  let w (i : Nat) : Word := ws.getD i 0
  let len := (w 2).toNat
  let t := len - 40
  let placed := walkSections ws len (len + 1) 8 []
  let format := badIf (fldN (w 1) 16 4 ≠ 1 || fldN (w 1) 0 8 ≠ 0) 1 ++ badIf (w 6 ≠ 0) 6 ++ badIf (w 7 ≠ 0) 7 ++ brokenOctets 0 os
  if w 0 ≠ 0x47A1D then .inl ⟨3, 0⟩
  else match leastOf format with
    | some i => .inl ⟨4, i⟩
    | none =>
      if 131072 < len ∨ os.length ≠ 3 * len then .inl ⟨5, 2⟩
      else match placed with
        | .inl i => .inl ⟨5, i⟩
        | .inr ps =>
          let last := ps.getLast?
          let lastOk : Bool := match last with
            | some p => p.sect.type == 0xFF && p.sect.inst == 0 && p.sect.body.length == 40 && p.start + 42 == len
            | none => false
          if !lastOk then .inl ⟨5, (last.map (·.start)).getD 8⟩
          else
            let digest := sha256 (os.take (3 * (len - 42)))
            let key := fldN (w t) 0 2
            let r := unpack256 (ws.drop (t + 14))
            let g := unpack256 (ws.drop (t + 27))
            if !packed256 (ws.drop (t + 1)) digest then .inl ⟨6, t + 1⟩
            else if !f.usable key then .inl ⟨8, t⟩
            else if !f.verifies key digest r g then .inl ⟨7, t + 14⟩
            else
              let sec := badIf (ps.length - 1 ≠ (w 3).toNat) 3 ++ orderBad ps
                ++ ps.flatMap fun p => badIf (!knownType p.sect.type) p.start ++ badIf (knownType p.sect.type && !bodyLenOk p.sect) (p.start + 1)
              match leastOf sec with
              | some i => .inl ⟨9, i⟩
              | none =>
                .inr (ps, { id := w 4, rev := w 5, sections := ps.dropLast.map (·.sect), key := BitVec.ofNat 2 key, digest := digest, r := r, s := g })

/-! Personality packages (05 R226-R234). -/

/-- A package as its octets hold it. -/
structure Package where
  head   : List Word
  image  : List Octet
  trail  : List Word
  size   : Nat
  deriving DecidableEq, Repr

def packageOf (os : List Octet) : Package :=
  let head := wordsOf (os.take 78)
  let n := (head.getD 6 0).toNat
  { head := head, image := (os.drop 78).take (3 * n), trail := wordsOf ((os.drop (78 + 3 * n)).take 156), size := os.length }

def Package.word (p : Package) (i : Nat) : Word := p.head.getD i 0
def Package.tword (p : Package) (i : Nat) : Word := p.trail.getD i 0
def Package.persId (p : Package) : Word := p.word 3
def Package.version (p : Package) : Word := p.word 4
def Package.bothBanks (p : Package) : Bool := bit (p.word 5) 0
def Package.encrypted (p : Package) : Bool := bit (p.word 5) 1
def Package.imageWords (p : Package) : Nat := (p.word 6).toNat
def Package.entry (p : Package) : Word := p.word 7
def Package.env (p : Package) (i : Nat) : Word := p.word (10 + i)
def Package.env28 (p : Package) (i : Nat) : Nat := (wide (p.env i) (p.env (i + 1)) 28).toNat
def Package.digest (p : Package) : BitVec 256 := unpack256 (p.trail.drop 13)
def Package.key (p : Package) : Nat := fldN (p.tword 0) 0 2
def Package.pkey (p : Package) : Fin 16 := ix 16 (fldN (p.tword 0) 4 4)

/-- Package key `k` is usable (20 R729). -/
def Flash.pkeyUsable (f : Flash) (k : Fin 16) : Bool := bit f.pkeys k.val && !bit f.pkDisabled k.val

/-- The image in clear; none when the package key or the tag fails (05 R232, 20 R729). -/
def Package.clear (f : Flash) (p : Package) : Option (List Octet) :=
  if p.encrypted then
    if f.pkeyUsable p.pkey then
      let iv : BitVec 96 := (p.tword 5 ++ p.tword 4 ++ p.tword 3 ++ p.tword 2 ++ p.tword 1 : BitVec 100).setWidth 96
      let tag : BitVec 128 := (p.tword 12 ++ p.tword 11 ++ p.tword 10 ++ p.tword 9 ++ p.tword 8 ++ p.tword 7 ++ p.tword 6 : BitVec 140).setWidth 128
      Config.gcmOpen p.pkey iv tag (octets3 p.head) p.image
    else none
  else some p.image

/-- The trailer breaks R229: an unencrypted package's IV and TAG are zero, and so are the upper bits of the last word of every packed
value that the value does not use. -/
def Package.trailBad (p : Package) : Bool :=
  (!p.encrypted && ((p.trail.drop 1).take 12).any (· != 0)) || above (p.tword 5) 16 || above (p.tword 12) 8
    || above (p.tword 38) 16 || above (p.tword 51) 16

/-- FIELD of a package: R228, R229, ENV_WORDS. -/
def Package.fieldBad (p : Package) : Bool :=
  let n := p.imageWords
  p.trailBad ||
  let fam := fldN (p.persId) 12 8
  (if p.bothBanks then decide (n < 16385) || decide (32768 < n) else decide (n < 1) || decide (16384 < n))
    || decide (n ≤ p.entry.toNat) || p.word 8 != 16 || fam == 0 || (decide (0x0D ≤ fam) && decide (fam ≤ 0x7F))

/-- Unused bits and words of a package that R226-R232 leave zero. -/
def Package.reservedBad (p : Package) : Bool :=
  fldN (p.word 1) 16 4 != 1 || fldN (p.word 1) 0 8 != 0 || p.word 9 != 0 || fldN (p.word 5) 2 18 != 0 || p.env 14 != 0 || p.env 15 != 0

/-- The digest over header, envelope, image and the trailer up to TAG (R230). -/
def Package.computed (os : List Octet) (p : Package) : BitVec 256 := sha256 (os.take (78 + 3 * p.imageWords + 39))

/-- The first check that a package fails, as a SUBCODE of 21 (R233, R766): 6 is tested before 5. An image that decrypts into words not in
the three-octet form has FORMAT (R226). -/
def packageFail (f : Flash) (os : List Octet) : Option Nat :=
  let p := packageOf os
  let plain := brokenOctets 0 ((p.clear f).getD [])
  if p.word 0 ≠ 0x47A2E then some 1
  else if p.reservedBad || !(brokenOctets 0 (os.take 78)).isEmpty || !plain.isEmpty
      || !(brokenOctets 0 ((os.drop (78 + 3 * p.imageWords)).take 156)).isEmpty then some 2
  else if (p.word 2).toNat ≠ 78 + p.imageWords ∨ os.length ≠ 3 * (78 + p.imageWords) then some 3
  else if !packed256 (p.trail.drop 13) (p.computed os) then some 4
  else if !f.usable p.key then some 6
  else if !f.verifies p.key (p.computed os) (unpack256 (p.trail.drop 26)) (unpack256 (p.trail.drop 39)) then some 5
  else if p.fieldBad then some 7
  else if (p.clear f).isNone then some 8
  else none

/-- Flash slot TYPE `ty`, SLOT `n`. -/
def Flash.slot (f : Flash) (ty n : Nat) : Slot := memRead Slot.empty f.slots (128 * ty + n)
def Flash.setSlot (ty n : Nat) (x : Slot) (f : Flash) : Flash := { f with slots := memWrite Slot.empty f.slots (128 * ty + n) x }

/-- The octets of the VALID personality slot whose package has a digest (05 R230). -/
def Flash.findPackage (f : Flash) (d : BitVec 256) : Option (List Octet) :=
  ((List.range 96).find? fun k =>
    let x := f.slot 1 k
    x.st == .valid && (packageOf x.octets).digest == d).map fun k => (f.slot 1 k).octets

/-- The package Hewer `n` is bound to in layout `L`. -/
def Flash.packageFor (f : Flash) (L : Layout) (n : Nat) : Option Package := (f.findPackage (L.pkgDigest n)).map packageOf

end Sys2Proof.Machine
end

