-- ==== Sys2Proof/Machine/LayCheck.lean ====
section
/-! DEFINITION. The staging checks of 04 R148 from code 10 on: presence, field ranges (each section's own chapter), conflicts,
personalities (05 R235), admission (03 R94) and islands. -/

namespace Sys2Proof.Machine

/-- MISSING (R150: the first section header beyond the missing TYPE). -/
def missingBad (ps : List Placed) : Option LayFail :=
  ([1, 6, 7].find? fun t => !(ps.any fun p => p.sect.type == t)).map fun t =>
    ⟨10, ((ps.find? fun p => decide (t < p.sect.type)).map (·.start)).getD 0⟩

/-! FIELD (code 11): indices of offending words within a body. -/

/-- GLOBAL (02 R35, R36, R39, R869). -/
def globalBad (L : Layout) : List Nat :=
  let p := L.period.toNat
  let a (k : Fin 3) : Nat := (L.phaseAt k).toNat
  let low := (L.origin 0).toNat + 2 ^ 20 * (fldN (L.origin 1) 0 12)
  let o := (L.word 1 0 12).toNat
  badIf (p < 1000 || 12500000 < p) 0 ++ badIf (above (L.word 1 0 1) 4) 1 ++ badIf (a 0 = 0) 2 ++ badIf (above (L.word 1 0 3) 4) 3
    ++ badIf (a 1 ≤ a 0) 4 ++ badIf (above (L.word 1 0 5) 4) 5 ++ badIf (a 2 ≤ a 1 || p ≤ a 2) 6 ++ badIf (above (L.word 1 0 7) 4) 7
    ++ badIf (low % 32 ≠ 0 || 4000000000 ≤ low) 8 ++ badIf (!(o ≤ 17 || o == 31)) 12 ++ badIf (above (L.word 1 0 14) 8) 14
    ++ badIf (above (L.word 1 0 16) 8) 16

/-- PINS (04; 16 R590). -/
def pinBad (r : Word) : Bool :=
  let k := pinKind r
  above r 18 || decide (3 < k) || decide (5 < pinFallback r)
    || (k == 1 && decide (31 < pinUnit r))
    || (k == 2 && (decide (3 < pinUnit r) || decide (2 < pinSignal r)))
    || (k == 3 && (decide (2 < pinUnit r) || decide (2 < pinSignal r) || !pinOpenDrain r))

def pinsBad (L : Layout) : List Nat := (List.range 96).filter fun i => pinBad (L.pin i)

/-- The port record (11 R407, R408, R416). -/
def portBad (L : Layout) (p : Nat) : Bool :=
  let i := L.portIf p
  let v := L.portSpeed p
  decide (5 < i) || (i == 1 && decide (3 < p)) || (decide (2 ≤ i) && decide (p < 4))
    || (i == 4 && v != 0 && v != 4) || (i == 3 && v != 0 && v != 3) || ((i == 2 || i == 5) && decide (3 < v)) || (i == 1 && decide (2 < v))
    || decide (L.maxLen p < 64) || decide (9216 < L.maxLen p) || (L.allowHalf p && i != 1) || L.admitMode p == 3
    || (L.allowHalf p && (L.greenLaunch p || !(L.gates p).isEmpty))

/-- PORTS (12 R443). -/
def portsBad (L : Layout) : List Nat :=
  let w (i : Nat) : Word := L.word 2 0 i
  let ports := (List.range 8).flatMap fun p =>
    badIf (above (w (3 * p)) 17 || (if p < 6 then portBad L p else w (3 * p) != 0)) (3 * p)
      ++ badIf (above (w (3 * p + 1)) 19 || (decide (6 ≤ p) && fldN (w (3 * p + 1)) 0 14 != 0)) (3 * p + 1)
      ++ badIf (L.pvid p = 0 || L.pvid p = 4095) (3 * p + 2)
  let cut := (List.range 8).filterMap fun i =>
    let codes := (List.range 8).any fun j => L.ctCode i j == 3 || (L.ctCode i j != 0 && (i == j || decide (6 ≤ i) || decide (6 ≤ j)))
    if codes || above (w (24 + i)) 16 then some (24 + i) else none
  let taps := (List.range 16).filterMap fun n =>
    if above (L.tap n) 8 || ((L.tapIn n || L.tapOut n) && !L.present n) then some (32 + n) else none
  let reserves := ((List.range 80).map L.reserve).foldl (· + ·) 0
  let queues := (List.range 80).flatMap fun q =>
    let a := w (48 + 2 * q)
    let b := w (49 + 2 * q)
    let tap := decide (64 ≤ q)
    badIf (decide (9 < L.alpha q) || fldN a 14 2 != 0 || decide (4096 < L.reserve q)) (48 + 2 * q)
      ++ badIf (fldN b 12 7 != 0 || (tap && L.strict q) || ((tap || L.strict q) && L.quantum q != 0)
          || (!tap && !L.strict q && L.quantum q == 0)) (49 + 2 * q)
  let stat := (List.range L.nstat).flatMap fun k =>
    (List.range 3).flatMap fun j => badIf (above (w (214 + 4 * k + j)) 16) (214 + 4 * k + j)
  let streams := (List.range L.nstream).flatMap fun k =>
    let i := L.streamAt k
    (List.range 3).flatMap (fun j => badIf (above (w (i + j)) 16) (i + j)) ++ badIf (above (w (i + 3)) 12) (i + 3)
      ++ badIf (fldN (w (i + 4)) 6 2 != 0 || L.resetMs k == 0 || decide (L.hist k < 2) || decide (32 < L.hist k)) (i + 4)
  ports ++ cut ++ taps ++ badIf (12288 < reserves) 48 ++ queues ++ badIf (above (w 208) 12) 208 ++ badIf (above (w 209) 12) 209
    ++ badIf (above (w 210) 10 || L.age = 0 || 1000 < L.age) 210 ++ badIf (above (w 211) 7) 211
    ++ badIf (above (w 212) 11 || 1024 < L.nstat) 212 ++ badIf (above (w 213) 9 || 256 < L.nstream) 213 ++ stat ++ streams

/-- SLOTS (12 R445). -/
def slotsBad (L : Layout) : List Nat :=
  let w (i : Nat) : Word := L.word 8 0 i
  let bs := slotBlocks L (fldN (w 0) 0 3) 1
  let ports := bs.map fun i => fldN (w i) 0 3
  badIf (above (w 0) 3 || 6 < fldN (w 0) 0 3) 0
    ++ ((List.range bs.length).flatMap fun k => badIf (0 < k ∧ ports.getD k 0 ≤ ports.getD (k - 1) 0) (bs.getD k 0))
    ++ bs.flatMap fun i =>
      let p := fldN (w i) 0 3
      let n := fldN (w i) 3 6
      let nw := fldN (w i) 9 5
      let m := fldN (w (i + 1)) 0 8
      let c := L.period.toNat / max 1 m
      let st (k : Nat) : Nat := (w (i + 2 + 2 * k)).toNat + 2 ^ 20 * fldN (w (i + 3 + 2 * k)) 0 4
      badIf (above (w i) 14 || 5 < p || L.portIf p = 0 || 32 < n || 16 < nw) i
        ++ badIf (m = 0 || L.period.toNat % max 1 m ≠ 0 || decide (c ≤ fldN (w (i + 1)) 8 12)) (i + 1)
        ++ ((List.range n).flatMap fun k =>
          badIf ((k == 0 && st k != 0) || (decide (0 < k) && decide (st k ≤ st (k - 1))) || decide (c ≤ st k)) (i + 2 + 2 * k)
            ++ badIf (above (w (i + 3 + 2 * k)) 13) (i + 3 + 2 * k))
        ++ ((List.range nw).flatMap fun k =>
          let b := i + 2 + 2 * n + 3 * k
          let early := (w b).toNat + 2 ^ 20 * fldN (w (b + 2)) 0 4
          let late := (w (b + 1)).toNat + 2 ^ 20 * fldN (w (b + 2)) 4 4
          badIf (late ≤ early) b ++ badIf (above (w (b + 2)) 9) (b + 2))

/-- A node of the graph (13 R487). -/
def nodeBad (L : Layout) (i : Nat) : List Nat :=
  let w (j : Nat) : Word := L.node i j
  let n := L.nnode
  let field (sh wd : Nat) : Bool := decide (24 < sh + wd)
  let nextBad (x : Nat) : Bool := decide (n ≤ x) && x != 0xFF
  let nedge := fldN (w 1) 5 5
  let selW := fldN (w 1) 0 5
  let adv := bit (w 1) 10
  let advW := fldN (w 3) 0 5
  let here := badIf (above (w 0) 15) 0
    ++ badIf (above (w 1) 11 || 16 < nedge || (if nedge = 0 then selW != 0 else selW == 0 || decide (20 < selW)) || field (fldN (w 0) 10 5) selW) 1
    ++ badIf (above (w 2) 15) 2
    ++ badIf (above (w 3) 11 || (if adv then advW == 0 || decide (16 < advW) else advW != 0) || field (fldN (w 2) 10 5) advW) 3
    ++ badIf (above (w 4) 10 || 511 < fldN (w 4) 0 10) 4 ++ badIf (above (w 5) 8 || nextBad (fldN (w 5) 0 8)) 5
    ++ ((List.range 4).flatMap fun j =>
      let a := w (6 + 2 * j)
      let b := w (7 + 2 * j)
      if bit a 15 then
        badIf (above a 16) (6 + 2 * j)
          ++ badIf (above b 9 || fldN b 5 4 < 2 || fldN b 0 5 = 0 || 20 < fldN b 0 5 || field (fldN a 10 5) (fldN b 0 5)) (7 + 2 * j)
      else badIf (a != 0) (6 + 2 * j) ++ badIf (b != 0) (7 + 2 * j))
    ++ badIf (above (w 14) 16) 14 ++ badIf (above (w 15) 2) 15
    ++ ((List.range 16).flatMap fun e =>
      if e < nedge then badIf (above (w (18 + 3 * e)) 8 || nextBad (fldN (w (18 + 3 * e)) 0 8)) (18 + 3 * e)
      else (List.range 3).flatMap fun j => badIf (w (16 + 3 * e + j) != 0) (16 + 3 * e + j))
  here.map fun j => 2 + 64 * i + j

/-- GRADER (13 R487). -/
def graderBad (L : Layout) (inst : Nat) : List Nat :=
  if inst = 0 then
    badIf (above (L.word 4 0 0) 8 || L.nnode = 0 || 128 < L.nnode) 0
      ++ badIf (above (L.word 4 0 1) 10 || fldN (L.word 4 0 1) 0 10 < 64 || 512 < fldN (L.word 4 0 1) 0 10) 1
      ++ (List.range L.nnode).flatMap (nodeBad L)
  else if inst = 1 then
    badIf (above (L.word 4 1 0) 12 || 2048 < L.nrule) 0
      ++ (List.range L.nrule).flatMap fun i =>
        let w (j : Nat) : Word := L.ruleWord i j
        let taps := fld (w 10) 0 16
        let ts := bit (w 9) 16
        let here := badIf (above (w 0) 17) 0
          ++ badIf (above (w 9) 17 || (!bit (w 9) 8 && (ts || taps != 0))
              || ((List.range 6).any fun p => bit (w 9) p && L.portIf p == 0)) 9
          ++ badIf (above (w 10) 16 || (ts && ones taps != 1) || ((List.range 16).any fun n => bit taps n && !L.tapIn n)) 10
          ++ badIf (above (w 11) 5) 11
        here.map fun j => 1 + 12 * i + j
  else
    let w := L.word 4 2 0
    badIf (above w 12 || fldN w 6 2 ≠ 0 || 8 < fldN w 0 4 || fldN w 4 2 = 3 || (fldN w 4 2 == 2 && !L.tapIn (fldN w 8 4))) 0

/-- GALLERY (10 R381). -/
def galleryBad (L : Layout) : List Nat :=
  badIf (above (L.word 5 0 0) 7 || L.ngrp = 0) 0
    ++ (List.range L.ngrp).flatMap fun k =>
      let i := 1 + 5 * k
      let r := L.grpAt i
      badIf (r.type = 3 || fldN (L.word 5 0 i) 7 2 ≠ 0 || 17 < r.owner || (r.type == 0 && r.owner == 17) || (r.type == 1 && r.owner != 17)
          || (decide (r.owner < 16) && !L.present r.owner) || (decide (0 < k) && decide (r.group ≤ (L.grpAt (i - 5)).group))) i
        ++ badIf (above (L.word 5 0 (i + 1)) 19 || 512 < r.frame + r.frames) (i + 1)
        ++ badIf (above (L.word 5 0 (i + 2)) 10 || r.npages = 0 || 512 < r.first + r.npages) (i + 2)
        ++ badIf (r.settle ≠ 0 ∧ L.period.toNat ≤ r.settle.toNat) (i + 3) ++ badIf (above (L.word 5 0 (i + 4)) 4) (i + 4)

/-- BUDGETS. -/
def budgetsBad (L : Layout) : List Nat :=
  badIf (L.nact = 0 || 64 < L.nact) 0
    ++ ((List.range L.nact).flatMap fun k =>
      let i := 2 + 12 * k
      badIf (above (L.word 6 0 i) 7) i ++ [2, 4, 6, 8, 10].flatMap fun j => badIf (above (L.word 6 0 (i + j)) 8) (i + j))
    ++ (List.range L.neg).flatMap fun k =>
      let i := 2 + 12 * L.nact + 3 * k
      badIf (above (L.word 6 0 i) 11 || fldN (L.word 6 0 i) 6 2 ≠ 0) i ++ badIf (above (L.word 6 0 (i + 2)) 8) (i + 2)

/-- PVC (09 R351). -/
def pvcBad (L : Layout) (t : Nat) : List Nat :=
  let w (i : Nat) : Word := L.word 9 t i
  badIf (above (w 0) 10 || w 0 = 0 || 512 < (w 0).toNat) 0 ++ badIf (above (w 1) 8 || w 1 = 0) 1
    ++ (List.range (w 0).toNat).flatMap fun i =>
      let d := w (2 + i)
      let m := fldN d 17 3
      let q := fldN d 12 4
      badIf (4 < m || (if m = 2 ∨ m = 4 then q == 0 || decide (12 < q) else q != 0) || (m != 3 && m != 4 && fldN d 0 12 != 0)) (2 + i)

/-- PERSONALITY (04 R144 and ranges). -/
def personalityBad (L : Layout) (n : Nat) : List Nat :=
  let w (i : Nat) : Word := L.word 10 n i
  badIf (above (w 0) 1) 0 ++ badIf (above (w 13) 16) 13 ++ badIf (524288 < L.loftBase n + L.loftSize n) 14 ++ badIf (above (w 17) 12) 17
    ++ badIf (above (w 18) 7) 18

/-- A Tread program word in a defined encoding (15 R568). -/
def treadWordOk (w : Word) : Bool :=
  let a := fldN w 0 10
  !above w 14 && match fldN w 10 4 with
  | 0 => true
  | 1 => fldN w 8 2 != 3
  | 2 => fldN w 5 3 == 0 && a % 32 != 0 && decide (a % 32 ≤ 20)
  | 3 => fldN w 5 3 == 0 && a % 32 != 0 && decide (a % 32 ≤ 20)
  | 4 => decide (fldN w 6 4 < 12)
  | 5 => fldN w 8 2 == 0 || (fldN w 8 2 == 1 && fldN w 0 8 == 0)
  | 6 => fldN w 0 4 == 0 && (decide (fldN w 8 2 < 2) || fldN w 4 3 == 0)
  | 7 => fldN w 0 7 == 0 && (!bit w 7 || fldN w 8 2 == 0)
  | 8 => fldN w 7 3 != 7 && fldN w 2 2 != 3 && fldN w 0 2 == 0
  | 9 => true
  | 10 => fldN w 0 8 == 0
  | 11 => fldN w 0 6 == 0 && !(bit w 8 && bit w 6)
  | 12 => decide (fldN w 7 3 < 4) && fldN w 3 4 == 0 && (fldN w 7 3 == 2 || fldN w 7 3 == 3 || fldN w 0 3 == 0)
  | 13 => bit w 9 || fldN w 0 9 == 0
  | _ => false

/-- TREAD (15 R561). -/
def treadBad (L : Layout) (f : Nat) : List Nat :=
  let w (i : Nat) : Word := L.word 11 f i
  let wd (x : Nat) : Bool := x == 0 || decide (20 < x)
  badIf (above (w 0) 8 || !L.flightPresent f) 0 ++ badIf (above (w 1) 12 || 2048 < L.plen f) 1
    ++ ((List.range 8).flatMap fun k =>
      let i := 2 + 6 * k
      badIf (above (w i) 19) i ++ badIf (above (w (i + 1)) 17 || (bit (w (i + 1)) 16 && decide (fldN (w (i + 1)) 8 8 < fldN (w (i + 1)) 0 8))) (i + 1)
        ++ badIf ((w (i + 2)).toNat / 256 + 4096 * fldN (w (i + 3)) 0 4 = 0) (i + 2)
        ++ badIf (above (w (i + 4)) 14 || wd (fldN (w (i + 4)) 0 5) || wd (fldN (w (i + 4)) 5 5)) (i + 4)
        ++ badIf (8 < fldN (w (i + 5)) 16 4) (i + 5))
    ++ (List.range (L.plen f)).flatMap fun k => badIf (!treadWordOk (w (50 + k))) (50 + k)

/-- The switch is used (R865). -/
def Layout.usesSwitch (L : Layout) : Bool :=
  ((List.range 6).any fun p => L.portIf p != 0) || ((List.range 16).any fun n => L.tapIn n || L.tapOut n)
    || ((List.range 8).any fun c => L.present (20 + c)) || L.sections.any fun x => x.type == 4

/-- Islands the layout must mark (R143, R865). -/
def Layout.needed (L : Layout) : List Nat :=
  let when_ (b : Bool) (l : List Nat) : List Nat := if b then l else []
  let pinUnits := (List.range 96).flatMap fun i =>
    let r := L.pin i
    match pinKind r with
    | 1 => [32 + pinUnit r / 8]
    | 2 => [48 + pinUnit r / 2, 23]
    | 3 => [50]
    | _ => []
  [0, 1, 2, 3, 54, 55] ++ ((List.range 16).flatMap fun n => when_ (L.present n) [4 + n])
    ++ ((List.range 4).flatMap fun f => when_ (L.flightPresent f) [32 + f]) ++ when_ L.usesSwitch [24, 25, 26, 27, 28, 29]
    ++ ((List.range 6).flatMap fun p =>
      when_ (L.portIf p != 0) [40 + p] ++ when_ (L.portIf p == 1) [36 + p]
        ++ when_ (decide (4 ≤ p) && decide (2 ≤ L.portIf p) && decide (L.portIf p ≤ 4)) [42 + p])
    ++ pinUnits
    ++ ((List.range 16).flatMap fun n =>
      ((List.range 32).flatMap fun t => when_ (L.hasTread n t) [32 + t / 8])
        ++ ((List.range 4).flatMap fun c => when_ (L.hasCan n c) [48 + c / 2, 23])
        ++ ((List.range 3).flatMap fun b => when_ (L.hasTwb n b) [50])
        ++ when_ (decide (0 < L.loftSize n))
            ((List.range 4).filterMap fun b =>
              if L.loftBase n < 131072 * (b + 1) ∧ 131072 * b < L.loftBase n + L.loftSize n then some (20 + b) else none))
    ++ L.groups.flatMap fun r =>
      (List.range 2).filterMap fun b => if r.frame < 256 * (b + 1) ∧ 256 * b < r.frame + r.frames then some (30 + b) else none

/-- ISLANDS (R143, R865). -/
def islandsBad (L : Layout) : List Nat :=
  badIf (above (L.word 7 0 2) 16) 2 ++ L.needed.filterMap fun i => if L.marks i then none else some (i / 20)

/-- Offending words of one section (code 11). -/
def sectionBad (L : Layout) (x : Section) : List Nat :=
  match x.type with
  | 1 => globalBad L
  | 2 => portsBad L
  | 3 => pinsBad L
  | 4 => graderBad L x.inst
  | 5 => galleryBad L
  | 6 => budgetsBad L
  | 7 => islandsBad L
  | 8 => slotsBad L
  | 9 => pvcBad L x.inst
  | 10 => personalityBad L x.inst
  | 11 => treadBad L x.inst
  | 0xFF => trailerBad x.body
  | _ => []

/-- Largest INSTANCE of a TYPE. -/
def instMax (t : Nat) : Nat :=
  match t with
  | 4 => 2
  | 9 => 15
  | 10 => 15
  | 11 => 3
  | _ => 0

/-- FIELD over the whole stream (R144 at the activity record or the section concerned). -/
def fieldFail (L : Layout) (ps : List Placed) : Option LayFail :=
  let budgets := ((ps.find? fun p => p.sect.type == 6).map fun p => p.body 0).getD 0
  let here := ps.flatMap fun p =>
    badIf (p.sect.type ≠ 0xFF && instMax p.sect.type < p.sect.inst) p.start ++ (sectionBad L p.sect).map p.body
  let persons := (List.range 16).flatMap fun n =>
    badIf (L.present n && (L.sect 10 n).isNone) (budgets + (L.actRec n).getD 0)
  let named := ps.flatMap fun p => badIf (p.sect.type == 10 && decide (p.sect.inst ≤ 15) && !L.present p.sect.inst) p.start
  let flights := (List.range 4).flatMap fun f =>
    badIf (L.flightPresent f && (L.sect 11 f).isNone) (budgets + (L.actRec (16 + f)).getD 0)
  LayFail.ofWords 11 (here ++ persons ++ named ++ flights)

/-! CONFLICT (code 12). -/

/-- Words whose key has occurred before, `n` times or more. -/
def repeats (n : Nat) : List (Nat × Nat) → List Nat → List Nat
  | [], _ => []
  | (k, i) :: t, seen => (if n ≤ seen.countP (· == k) then [i] else []) ++ repeats n t (k :: seen)

/-- Words of ranges (lo, hi, word) that overlap an earlier one; an empty range overlaps none. -/
def overlaps : List (Nat × Nat × Nat) → List (Nat × Nat) → List Nat
  | [], _ => []
  | (lo, hi, i) :: t, seen =>
    if lo < hi then
      (if seen.any (fun s => decide (s.1 < hi) && decide (lo < s.2)) then [i] else []) ++ overlaps t ((lo, hi) :: seen)
    else overlaps t seen

def conflictFail (L : Layout) (ps : List Placed) : Option LayFail :=
  let at_ (ty inst : Nat) : Nat := ((ps.find? fun p => p.sect.type == ty && p.sect.inst == inst).map fun p => p.body 0).getD 0
  let pins := repeats 1 ((List.range 96).filterMap fun i =>
    let r := L.pin i
    if pinKind r = 0 then none else some (fldN r 3 13, at_ 3 0 + i)) []
  let units := repeats 1 ((List.range 16).flatMap fun n =>
    ((List.range 32).filterMap fun t => if L.hasTread n t then some (t, at_ 10 n + 16 + t / 20) else none)
      ++ ((List.range 7).filterMap fun u => if bit (L.word 10 n 18) u then some (32 + u, at_ 10 n + 18) else none)) []
  let acts := repeats 1 ((List.range L.nact).map fun k => (fldN (L.word 6 0 (2 + 12 * k)) 0 6, at_ 6 0 + 2 + 12 * k)) []
  let egs := repeats 1 ((List.range L.neg).map fun k =>
    let i := 2 + 12 * L.nact + 3 * k
    (fldN (L.word 6 0 i) 0 6 * 8 + fldN (L.word 6 0 i) 8 3, at_ 6 0 + i)) []
  let loft := overlaps ((List.range 16).filterMap fun n =>
    if (L.sect 10 n).isSome then some (L.loftBase n, L.loftBase n + L.loftSize n, at_ 10 n + 14) else none) [(0x78000, 0x80000)]
  let pages := overlaps ((List.range L.ngrp).map fun k =>
    let r := L.grpAt (1 + 5 * k)
    (r.first, r.first + r.npages, at_ 5 0 + 2 + 5 * k)) []
  let frames := overlaps ((List.range L.ngrp).map fun k =>
    let r := L.grpAt (1 + 5 * k)
    (r.frame, r.frame + r.frames, at_ 5 0 + 2 + 5 * k)) []
  let stats := ((List.range L.nstat).zip L.statics).map fun e => ((e.2.1.toNat * 4096 + e.2.2.1.toNat), at_ 2 0 + 214 + 4 * e.1)
  let buckets := ((List.range L.nstat).zip L.statics).map fun e => (ltBucket e.2.1 e.2.2.1, at_ 2 0 + 214 + 4 * e.1)
  let streams := (List.range L.nstream).map fun k => ((L.streamMac k).toNat * 4096 + (L.streamVid k).toNat, at_ 2 0 + L.streamAt k)
  LayFail.ofWords 12 (pins ++ units ++ acts ++ egs ++ loft ++ pages ++ frames ++ repeats 1 stats [] ++ repeats 4 buckets [] ++ repeats 1 streams [])

/-! PERSONALITY (code 13): 05 R235. -/

/-- Rules that steer to Hewer `n`. -/
def Layout.rulesTo (L : Layout) (n : Nat) : Nat := (List.range L.nrule).countP fun i => bit (L.ruleWord i 10) n

/-- A Hewer's bindings lie inside its package's envelope. -/
def envelopeOk (L : Layout) (n : Nat) (p : Package) : Bool :=
  decide ((p.env 9).toNat ≤ L.loftSize n) && decide (L.loftSize n ≤ (p.env 10).toNat) && (!L.tapIn n || bit (p.env 11) 0)
    && (!L.tapOut n || bit (p.env 11) 1) && decide (((List.range 32).countP fun t => L.hasTread n t) ≤ fldN (p.env 12) 0 6)
    && decide (((List.range 4).countP fun c => L.hasCan n c) ≤ fldN (p.env 12) 8 4)
    && decide (((List.range 3).countP fun b => L.hasTwb n b) ≤ fldN (p.env 12) 12 3) && decide (L.rulesTo n ≤ fldN (p.env 13) 0 12)

def personalityOk (f : Flash) (L : Layout) (n : Nat) : Bool :=
  match f.findPackage (L.pkgDigest n) with
  | none => false
  | some os =>
    let p := packageOf os
    (packageFail f os).isNone && p.bothBanks == L.bothBanks n && envelopeOk L n p

def personalityFail (f : Flash) (L : Layout) : Option LayFail :=
  if (List.range 16).all fun n => !L.present n || personalityOk f L n then none else some ⟨13, 0⟩

/-! BUDGET (code 14): 03 R94, R866. -/

/-- What SBU.ADMIT records: CODE, RES, INDEX; none when every check passes. -/
def admissionFail (f : Flash) (pcie : Bool) (L : Layout) : Option (Nat × Nat × Nat) :=
  let ns := 8 * L.period.toNat
  let acts := List.range 64
  let compute (a : Nat) : Nat := (L.compute a).toNat
  let capacity (a : Nat) : Nat := if a < 16 then usable (ns / 2) else if a < 20 then usable (2 * ns) else usable (ns / 4)
  let c1 := (acts.find? fun a => (decide (a < 20) || a == 29) && decide (capacity a < compute a)).map fun a => (1, 0, a)
  let c2 := if compute 29 < ns / 64 then some (2, 0, 29) else none
  let c3 := if usable (2 * ns) < L.sumAct (fun a => (L.loft a).toNat) + L.slackMinLoft.toNat then some (3, 1, 63)
    else if usable ns < L.sumAct (fun a => (L.gallery a).toNat) + L.slackMinGal.toNat then some (3, 2, 63) else none
  let port (p : Nat) : Nat := ((L.egress.filter fun e => e.2.1 == p).map fun e => e.2.2.toNat).foldl (· + ·) 0
  let c4 := ((List.range 8).find? fun p => decide (usable ns < port p)).map fun p => (4, 3, p)
  let c5 := if usable (3 * ns / 2) < L.sumAct (fun a => (L.dma a).toNat) then some (5, 4, 63)
    else (acts.find? fun a => !pcie && decide (0 < (L.dma a).toNat)).map fun a => (5, 4, a)
  let c6 := if usable (ns / 8) < L.sumAct (fun a => (L.events a).toNat) then some (6, 5, 63) else none
  let c7 := if (L.gallery 28).toNat < 64 then some (7, 2, 28)
    else if compute 28 < 16 ∨ usable ns / 32 < compute 28 then some (7, 6, 28) else none
  let short (n : Nat) : Option Nat := match f.packageFor L n with
    | none => none
    | some p =>
      if compute n < p.env28 0 then some 0
      else if (L.loft n).toNat < p.env28 2 then some 1
      else if (L.gallery n).toNat < p.env28 4 then some 2
      else if L.egress.any (fun e => e.1 == n && decide (e.2.2.toNat < p.env28 6)) then some 3
      else if (L.events n).toNat < (p.env 8).toNat then some 5 else none
  let c8 := (List.range 16).findSome? fun n => if L.present n then (short n).map fun r => (8, r, n) else none
  let c9 := acts.findSome? fun a =>
    if 38 ≤ a ∧ L.present a then some (9, 7, a)
    else if !L.present a && L.egress.any (fun e => e.1 == a && e.2.2 != 0) then some (9, 3, a) else none
  c1 <|> c2 <|> c3 <|> c4 <|> c5 <|> c6 <|> c7 <|> c8 <|> c9

/-- The checks from code 10 on, with what admission found if it was reached. -/
structure LayChecks where
  fail  : Option LayFail
  admission : Option (Option (Nat × Nat × Nat))
  deriving DecidableEq, Repr

def lateChecks (f : Flash) (pcie islandsOk : Bool) (L : Layout) (ps : List Placed) : LayChecks :=
  match missingBad ps <|> fieldFail L ps <|> conflictFail L ps <|> personalityFail f L with
  | some x => { fail := some x, admission := none }
  | none =>
    match admissionFail f pcie L with
    | some r => { fail := some ⟨14, 0⟩, admission := some (some r) }
    | none => { fail := if islandsOk then none else some ⟨15, 0⟩, admission := some none }

end Sys2Proof.Machine
end

