-- ==== Sys2Proof/Machine/Windows.lean ====
section
/-! DEFINITION. The windows through which a Hewer reaches the registers of the TIME block, of Treads, CAN controllers and TWB
controllers (05 R190, R191, I/O table). -/

namespace Sys2Proof.Machine

/-- A word of these windows. -/
inductive HewerWin
  /-- bits 19:0 of a TIME register -/
  | timeLo (k : Nat)
  /-- bits 31:20 of a TIME register -/
  | timeHi (k : Nat)
  | trd (t : Fin 32) (k : Nat)
  | can (c : Fin 4) (k : Nat)
  | twb (b : Fin 3) (k : Nat)
  deriving DecidableEq, Repr

/-- The window word at I/O offset `i` (05, I/O table). -/
def hewerWin (i : Nat) : Option HewerWin :=
  if i < 0x1000 then none
  else if i < 0x1400 then some (.timeLo (i - 0x1000))
  else if i < 0x1800 then some (.timeHi (i - 0x1400))
  else if i < 0x2000 then none
  else if i < 0x2200 then some (.trd (ix 32 ((i - 0x2000) / 0x10)) (i % 0x10))
  else if i < 0x4000 then none
  else if i < 0x6000 then some (.can (ix 4 ((i - 0x4000) / 0x800)) (i % 0x800))
  else if i < 0x8000 then none
  else if i < 0x8300 then some (.twb (ix 3 ((i - 0x8000) / 0x100)) (i % 0x100))
  else none

/-- The layout lets Hewer `n` use the window (R190). -/
def HewerWin.assigned (L : Layout) (n : Fin 16) : HewerWin → Bool
  | .timeLo _ => true
  | .timeHi _ => true
  | .trd t _ => L.hasTread n.val t.val
  | .can c _ => L.hasCan n.val c.val
  | .twb b _ => L.hasTwb n.val b.val

/-- Island of the unit behind a window. -/
def HewerWin.island : HewerWin → Nat
  | .timeLo _ => 54
  | .timeHi _ => 54
  | .trd t _ => 32 + t.val / 8
  | .can c _ => 48 + c.val / 2
  | .twb _ _ => 50

def State.modHio (n : Fin 16) (f : Hio → Hio) (s : State) : State := s.modHw n fun h => { h with hio := f h.hio }

/-- A Hewer reads a window word of a unit that hears it. -/
def State.winShow (n : Fin 16) (w : HewerWin) (s : State) : Word × State :=
  let a : Agent := .hewer n
  match w with
  | .timeLo k =>
    let (v, s) := s.timeRead a (4 * k)
    (fld v 0 20, s.modHio n fun h => { h with timeHi := memWrite 0 h.timeHi k (fld v 20 12) })
  | .timeHi k => ((memRead 0 s.hw[n].hio.timeHi k).setWidth 20, s)
  | .trd t k =>
    let (v, s) := s.trdRead a (0x40 * t.val + 4 * k)
    (fld v 0 20, s)
  | .can c k =>
    let (v, s) := s.canRead (readerOf a) (0x20000 + 0x2000 * c.val) c (4 * k)
    (fld v 0 20, s)
  | .twb b k =>
    let (v, s) := s.twbRead a b (4 * k)
    (twbView (4 * k) v, s)

/-- The Window A register behind a window word. -/
def HewerWin.off : HewerWin → Nat
  | .timeLo k => 0x1000 + 4 * k
  | .timeHi k => 0x1000 + 4 * k
  | .trd t k => 0x28000 + 0x40 * t.val + 4 * k
  | .can c k => 0x20000 + 0x2000 * c.val + 4 * k
  | .twb b k => 0x2C000 + 0x400 * b.val + 4 * k

/-- A Hewer reads a window word (R191); an unpowered unit's is an open value in the bits that its register has (log 133). -/
def State.winRead (n : Fin 16) (w : HewerWin) (s : State) : Word × State :=
  if s.heard (.hewer n) w.island then s.winShow n w
  else
    let (v, s) := s.silentAt (.hewer n) w.off
    match w with
    | .timeHi _ => ((fld v 20 12).setWidth 20, s)
    | .twb _ k => (twbView (4 * k) v, s)
    | _ => (fld v 0 20, s)

/-- Bits 31:20 that a write of the low word of TIME register `k` brings: the held ones, or those the register has (R191). -/
def State.timeHigh (s : State) (n : Fin 16) (k : Nat) : BitVec 12 :=
  match memRead none s.hw[n].hio.timeHeld k with
  | some v => v
  | none => fld (s.timeRead (.hewer n) (4 * k)).1 20 12

/-- A Hewer's write of a window word takes effect (R190, R191). -/
def State.winWrite (n : Fin 16) (w : HewerWin) (v : Word) (s : State) : State :=
  let a : Agent := .hewer n
  match w with
  | .timeLo k =>
    let hi := s.timeHigh n k
    (s.modHio n fun h => { h with timeHeld := memWrite none h.timeHeld k none }).timeWrite a (4 * k) (hi ++ v)
  | .timeHi k => s.modHio n fun h => { h with timeHeld := memWrite none h.timeHeld k (some (fld v 0 12)) }
  | .trd t k => s.trdWrite a (0x40 * t.val + 4 * k) (v.setWidth 32)
  | .can c k => s.canWrite a c (4 * k) (v.setWidth 32)
  | .twb b k => s.twbWrite a b (4 * k) (v.setWidth 32)

end Sys2Proof.Machine
end

