-- ==== Sys2Proof/Machine/HewerLife.lean ====
section
/-! DEFINITION. The life of a Hewer (05, 08): commits, the release of its resources, starts, faults, engine resets, halt and
resume, the cold loader and the cold pause. -/

namespace Sys2Proof.Machine

/-! Commits (08 R320, 05 R193). -/

/-- A Chute word of Hewer `n`'s view written: word `i` of its Chute area (18, Hewer view). -/
def State.hewerChute (n : Fin 16) (i : Nat) (v : Word) (s : State) : State :=
  let e : ChuteEnd := .hewer n
  let k := i % 0x100 / 0x20
  let r := i % 0x20
  if 4 < k then s
  else if i < 0x100 then
    if r < 16 then s.chuteWrite e (hewerOut n k) (ix 16 r) v
    else if r = 16 then s.chuteOut e (hewerOut n k) (bit v 19) (bit v 18) (fld v 0 5)
    else s
  else if r = 16 ∧ bit v 19 then s.chuteFree e (hewerIn n k)
  else s

/-- Hewer `n` leaves its compute: an engine that stops executing keeps no stall and no started block (06 R267, R268). -/
def Hewer.still (h : Hewer) : Hewer :=
  { h with eng := h.eng.still, load := { h.load with haltReq := false } }

/-- Queued entries all written, the Hewer having stopped: an EVT_RAISE of its own fault has no effect but counts (R193, R323). -/
def State.commitStopped (n : Fin 16) (e : CqEntry) (s : State) : State :=
  let a := e.addr.toNat
  if a < 0x88000 then s.loftWrite (a - 0x8000) e.val
  else if a < 0xC8000 then s.galWrite (BitVec.ofNat 5 n.val) (a - 0x88000) (BitVec.allOnes 20) e.val
  else if a = 0xE0018 then
    if fld e.val 0 7 = 39 then s.raiseBy (actHewer n) evPvcMismatch else s.accCount n
  else match hewerWin (a - 0xE0000) with
    | some w => s.winWrite n w e.val
    | none => s.hewerChute n (a - 0xE0800) e.val

/-! Release (R165, R219, 08 R323). -/

/-- HIO words that an engine reset clears (R219, 06 R281, 09 R375, 18 R678), TX_DESC (R875), the sequence of stamps (11 R428) and the RNG request (20 R759). -/
def State.clearHio (n : Fin 16) (s : State) : State :=
  let s := s.modHw n fun h =>
    { h with eng := { h.eng.still with vec := Vectors.reset }, unseen := [],
             hio := { h.hio with esel := 0, pvcTable := 0, pvcIndex := 0 },
             tx := { h.tx with desc := Vector.replicate 3 0, seq := 0 } }
  let s := s.modEvt fun x => { x with route := x.route.map fun r => { r with hewers := vset r.hewers n 0 } }
  { s with sec := { s.sec with hewer := vmod s.sec.hewer n fun p =>
      { p with pending := false, res := { p.res with valid := false, rep := false } } } }

/-- Frames queued at Hewer `n`'s ingress tap are freed. Frames pushed in full that wait for the head's verdict stay, and get it (04
R172). -/
def State.freeTap (n : Fin 16) (s : State) : State :=
  ((s.lnd.queue[tapQ n]).foldl (fun s id => s.leave (tapQ n) id) s).reap

/-- HWC.CQ_COMMIT counts an entry written (08 R320, R323). -/
def State.countCommit (n : Fin 16) (s : State) : State :=
  let c := s.hw[n].regs.cqCommit
  (s.modRegs n fun r => { r with cqCommit := satInc r.cqCommit }).satEvent c 1

/-- A Hewer's shared resources at an engine reset's interrupt point, and at t = 0 of a hinge (R165, R219), and the HWC fields that do
not survive an engine reset (00 R16). -/
def State.releaseHewer (n : Fin 16) (s : State) : State :=
  let s := s.resolveCq n false
  let q := s.hw[n].cq
  let s := s.modHw n fun h => ({ h with cq := [] }).clearTags
  let s := q.foldl (fun s e => (s.countCommit n).commitStopped n e) s
  let s := (s.abandonFrame (.hewer n)).freeTap n
  let s := s.orphanSems (BitVec.ofNat 5 n.val)
  let s := (List.finRange 3).foldl (fun s b => if s.lo.hasTwb n.val b.val then s.twbOwnerLoss b else s) s
  let s := s.modRegs n fun r => { r with result := 0, dbgAddr := 0 }
  (s.clearHio n).unparkAct (actHewer n)

/-! Starts and faults (R221, R224). -/

/-- A Hewer starts at its ENTRY (R221). -/
def State.startHewer (n : Fin 16) (s : State) : State :=
  let both := s.lo.bothBanks n.val
  let entry := match s.flash.packageFor s.lo n.val with
    | some p => p.entry
    | none => 0
  let s := s.modHw n fun h =>
    { h with eng := { h.eng.still with
               core := { Core.reset with w := vset (Vector.replicate 16 0) 14 (if both then 0x8000 else 0x4000), pc := entry } },
             load := HewerLoad.idle }
  s.hewerTo n .running

/-- An engine reset is accepted (R219, t = 0). The Hewer keeps its bank: HWC.STATUS.BANK says E, LAY.HEWER_PLAN_n.BANK does not, and the
model follows the former (00 R16; DESIGN CHOICE, log 175). -/
def State.resetHewer (n : Fin 16) (reload : Bool) (s : State) : State :=
  let s := (s.hewerTo n .stopped).releaseHewer n
  s.modHw n fun h => { h with load := { HewerLoad.idle with resetting := true, resetCyc := s.tb.clk.cycles, reload := reload } }

/-- A fault of a Hewer (R224). -/
def State.hewerFault (n : Fin 16) (cause : BitVec 4) (s : State) : State :=
  let s := (s.modRegs n fun r =>
    { r with faultCnt := satInc r.faultCnt, faultCause := cause, faultPc := s.hw[n].eng.core.pc }).raise (evHewerFault n)
  let s := s.logRec 10 n.val [s.hw[n].eng.core.pc, cause.setWidth 20]
  if s.hw[n].regs.faultAct ∧ cause ≠ 4 then s.resetHewer n true
  else
    let s := (s.hewerTo n .faulted).modHw n fun h => { h.still with load := HewerLoad.idle }
    (List.finRange 3).foldl (fun s b => if s.lo.hasTwb n.val b.val then s.twbOwnerLoss b else s) s

/-- The Hewer executes instructions (05, States): RUNNING, or YIELDED in a handler. -/
def Hewer.executing (h : Hewer) : Bool := h.st == .running || h.st == .yielded

/-- HEWER_FAULT: an uncorrectable local-memory error also raises MEM_ECC_FAIL (05, Faults). -/
def execHewerFault (n : Fin 16) (cause : BitVec 4) (s : State) : Host.Outcome State Fault Refusal :=
  let h := s.hw[n]
  if cause = 4 ∧ h.st = .loading ∧ h.load.loading then .next (s.hewerFault n 4)
  else if h.executing ∧ (cause = 1 ∨ cause = 2 ∨ cause = 5) then .next (s.hewerFault n cause)
  else if cause = 3 ∧ h.executing then .next ((s.raise evMemEccFail).hewerFault n 3)
  else .next s

/-- A write of EVT_RAISE leaves the commit queue (R193). -/
def State.evtRaiseAt (n : Fin 16) (id : BitVec 7) (s : State) : State :=
  if id = 39 then s.raiseBy (actHewer n) evPvcMismatch
  else if id.toNat = 16 + n.val then
    if s.hw[n].st = .stopped ∨ s.hw[n].st = .loading ∨ s.hw[n].st = .absent then s.accCount n else s.hewerFault n 5
  else s.accCount n

/-- An entry's write takes effect (08 R320). -/
def State.commitEntry (n : Fin 16) (e : CqEntry) (s : State) : State :=
  if e.addr = 0xE0018#20 then s.evtRaiseAt n (fld e.val 0 7) else s.commitStopped n e

/-- The entry at the head of the queue is written, if it is marked for commit (08 R320). -/
def State.commitHead (n : Fin 16) (s : State) : State :=
  match s.hw[n].cq with
  | [] => s
  | e :: q =>
    if !e.commit then s
    else
      ((s.modHw n fun h => { h with cq := q }).countCommit n).commitEntry n e

def execCommitWrite (n : Fin 16) (s : State) : Host.Outcome State Fault Refusal := .next (s.commitHead n)

/-! Halt, resume, reset (R216-R223). -/

/-- RESULT of a CTRL write (R222). -/
def State.ctrlResult (s : State) (n : Fin 16) : BitVec 2 :=
  let st := s.hw[n].st
  if st = .absent then 2
  else if st = .loading ∨ st = .stopped ∨ s.plans.hinge.active then 1 else 0

def State.hwcResult (n : Fin 16) (r : BitVec 2) (s : State) : State := s.modRegs n fun x => { x with result := r }

/-- A Hewer parks for compute (03 R100, R126). -/
def State.parkHewer (n : Fin 16) (s : State) : State :=
  let a := actHewer n
  let s := s.modHw n fun h => { h.still with st := .parked }
  let c := s.sbu.cnt[a].park
  let s := (s.modAct a fun x => { x with parked := true }).modSbu fun b => { b with cnt := vmod b.cnt a fun x => { x with park := satInc x.park } }
  (s.satEvent c 1).raise evBudgetPark

/-- The Hewer halts. -/
def State.haltNow (n : Fin 16) (s : State) : State :=
  (s.billStall (.hewer n)).modHw n fun h => { h.still with st := .halted, prev := if h.st = .yielded then .yielded else .running }

/-- A wait for slack beats that is no interrupt point (06 R260, R268). -/
def Eng.slackWait (x : Eng) : Bool :=
  match x.stall with
  | some y => y.kind == .slack
  | none => false

/-- HALT (R216): at once, or at the end of a wait that is no interrupt point. -/
def State.haltHewer (n : Fin 16) (s : State) : State :=
  let r := s.ctrlResult n
  let st := s.hw[n].st
  if r ≠ 0 then s.hwcResult n r
  else if st = .faulted then s.hwcResult n 1
  else if st = .halted then s.hwcResult n 0
  else if s.hw[n].eng.slackWait then (s.modHw n fun h => { h with load := { h.load with haltReq := true } }).hwcResult n 0
  else (s.haltNow n).hwcResult n 0

/-- RESUME (R217): with no compute left the Hewer parks. -/
def State.resumeHewer (n : Fin 16) (s : State) : State :=
  let r := s.ctrlResult n
  if r ≠ 0 then s.hwcResult n r
  else if s.hw[n].st ≠ .halted then s.hwcResult n 1
  else
    let s := (s.modHw n fun h => { h with st := h.prev }).hwcResult n 0
    if s.sbu.act[(actHewer n)].cpu = 0 then s.parkHewer n else s

/-- RESET (R219). -/
def State.ctrlReset (n : Fin 16) (reload : Bool) (s : State) : State :=
  let r := s.ctrlResult n
  if r ≠ 0 then s.hwcResult n r else (s.hwcResult n 0).resetHewer n reload

def execHewerHalt (a : Agent) (n : Fin 16) (s : State) : Host.Outcome State Fault Refusal :=
  let s := s.paid a
  .next (if s.reaches a then s.haltHewer n else s)

def execHewerResume (a : Agent) (n : Fin 16) (s : State) : Host.Outcome State Fault Refusal :=
  let s := s.paid a
  .next (if s.reaches a then s.resumeHewer n else s)

def execEngineReset (a : Agent) (n : Fin 16) (reload : Bool) (s : State) : Host.Outcome State Fault Refusal :=
  let s := s.paid a
  .next (if s.reaches a then s.ctrlReset n reload else s)

/-- 2 µs after the acceptance of a reset (R219). -/
def execEngineResetEnd (n : Fin 16) (s : State) : Host.Outcome State Fault Refusal :=
  let l := s.hw[n].load
  if !l.resetting then .next s
  else
    .next (s.whenAt (l.resetCyc + 1000) fun s =>
      if l.reload then (s.hewerTo n .loading).modHw n fun h => { h with load := { HewerLoad.idle with loading := true } }
      else s.startHewer n)

/-! The cold loader (04 R166-R168, 05 R872). -/

/-- A bank's content from image words, the rest zeros (R234). -/
def bankOf (ws : List Word) : Mem TWord := memWriteRun TWord.zero [] 0 ((ws.take 16384).map TWord.plain)

/-- An image as the two bank contents: the second empty unless the package has BOTH_BANKS. -/
def bankPair (ws : List Word) : Mem TWord × Mem TWord := (bankOf ws, bankOf (ws.drop 16384))

/-- The image is placed as R872 says: for a cold changeover, a re-application, or a reset with RELOAD. -/
def Hewer.place (both reload : Bool) (ws : List Word) (h : Hewer) : Hewer :=
  let (lo, hi) := bankPair ws
  if reload then
    if h.bank then { h with bankB := lo, bankA := if both then hi else h.bankA }
    else { h with bankA := lo, bankB := if both then hi else h.bankB }
  else { h with bankA := lo, bankB := if both then hi else [], bank := false }

/-- The idle bank takes a staged image (04, write phase; R872): both banks for BOTH_BANKS. -/
def Hewer.stage (both : Bool) (ws : List Word) (h : Hewer) : Hewer :=
  let (lo, hi) := bankPair ws
  if both then { h with bankA := lo, bankB := hi, bank := false }
  else if h.bank then { h with bankA := lo } else { h with bankB := lo }

/-- The words of a Hewer's package under layout `L`, checked as the loader checks them (04 R167, R168). -/
def Flash.image (f : Flash) (L : Layout) (n : Nat) : Option (List Word) :=
  match f.findPackage (L.pkgDigest n) with
  | none => none
  | some os =>
    let p := packageOf os
    if p.computed os = p.digest then (p.clear f).map wordsOf else none

/-- AUTH_FAIL is counted and raised (20 R738). -/
def State.authFail (s : State) : State :=
  ({ s with sec := { s.sec with authFails := satInc s.sec.authFails } } : State).raise evAuthFail

/-- ISLAND_READY and LAY.REAPPLY at the end of a re-application (04 R179). -/
def State.reapplied (i : Fin 56) (s : State) : State :=
  ((s.modLay fun l => { l with reapplyCnt := satInc l.reapplyCnt, reapplyIsl := BitVec.ofNat 6 i.val }).modPwr
    fun p => { p with reapply := setBit p.reapply i.val false }).raise evIslandReady

/-- The staged image of a re-applied Hewer is loaded again (R872). -/
def State.reloadStaged (n : Fin 16) (s : State) : State :=
  let m := s.plans.hewer[n].mode
  if s.lay.st = .valid ∧ (m = .warm ∨ m = .start) then
    match s.lay.shadow with
    | none => s
    | some L => match s.flash.image L n.val with
      | some ws =>
        let s := s.modHw n (·.stage (L.bothBanks n.val) ws)
        { s with plans := { s.plans with hewer := vmod s.plans.hewer n fun p => { p with ready := true } } }
      | none => s
  else s

/-- The cold loader ends (R167, R168): a cold Hewer then waits for its pause, any other starts. -/
def execColdLoadComplete (n : Fin 16) (s : State) : Host.Outcome State Fault Refusal :=
  let h := s.hw[n]
  if !(h.st == .loading && h.load.loading) then .next s
  else
    match s.flash.image s.lo n.val with
    | none =>
      let tag := match s.flash.packageFor s.lo n.val with
        | some p => (p.clear s.flash).isNone
        | none => false
      .next ((if tag then s.authFail else s).hewerFault n 4)
    | some ws =>
      let reset := h.load.pause.isNone && !h.load.reapply
      let s := s.modHw n fun h => { h.place (s.lo.bothBanks n.val) reset ws with load := { h.load with loading := false } }
      let s := if h.load.reapply then (s.reloadStaged n).reapplied (ix 56 (4 + n.val)) else s
      .next (if h.load.pause.isSome then s else s.startHewer n)

/-- A COLD Hewer's pause is over: K boundaries have passed and its image is loaded (R166). -/
def execColdPauseEnd (n : Fin 16) (s : State) : Host.Outcome State Fault Refusal :=
  let l := s.hw[n].load
  if l.pause = some 0 ∧ !l.loading ∧ s.hw[n].st = .loading then .next (s.startHewer n) else .next s

end Sys2Proof.Machine
end

