-- ==== Sys2Proof/Machine/Manage.lean ====
section
/-! DEFINITION. What the Warden's firmware does towards the outside (19): responses and log records through the release queue,
the command interface, the general commands and the flash interface. -/

namespace Sys2Proof.Machine

/-! The log (R707-R711). -/

/-- CHECK: the sum of the sixteen words is 0 modulo 2^20 (R707). -/
def checkWord (ws : List Word) : Word := 0 - ws.foldl (· + ·) 0

/-- The sixteen words of a record (R707). -/
def logWords (seq : BitVec 40) (type : BitVec 8) (arg : BitVec 10) (time : BitVec 80) (sync : BitVec 2) (payload : List Word) :
    List Word :=
  let ws : List Word := [0x47A50, fld seq 0 20, fld seq 20 20, word80 time 0, word80 time 1, word80 time 2, word80 time 3,
    type ++ sync ++ arg] ++ (payload ++ List.replicate 7 0).take 7
  ws ++ [checkWord ws]

/-- A record reaches the log ring (R707-R711). -/
def State.logWrite (type : BitVec 8) (arg : BitVec 10) (time : BitVec 80) (sync : BitVec 2) (payload : List Word) (s : State) :
    State :=
  let f := s.flash
  let fresh := f.record == 0
  let log := if fresh then memClear f.log (85 * f.sector.toNat) 85 else f.log
  let key := 85 * f.sector.toNat + f.record
  let seq := f.seq + 1
  let last := decide (84 ≤ f.record)
  let wraps := last && f.sector == 255
  let f := { f with log := memWrite [] log key (logWords f.seq type arg time sync payload), seq := seq,
                    hwm := if seq.toNat % 4096 = 0 then seq else f.hwm,
                    record := if last then 0 else f.record + 1, sector := if last then f.sector + 1 else f.sector,
                    wraps := if wraps then satInc f.wraps else f.wraps }
  ({ s with flash := f, wdn := { s.wdn with logSector := f.sector } } : State).raiseIf wraps evLogWrap

/-! Commands and responses (R712-R716, R721). -/

/-- A response to a source is on its way. -/
def Wdn.answering (w : Wdn) (src : CmdSource) : Bool := (w.relq ++ w.late).any fun e => match e with
  | .response c _ => c == src
  | _ => false

/-- A command of a source is in execution: a staging, or an activation that stages, is in its write phase (04 R151, 21 R775). -/
def State.inHand (s : State) (src : CmdSource) : Bool :=
  (s.lay.staging.any fun g => g.reply.any fun r => r.1 == src) || s.upd.wait.any fun w => w.src == src

/-- The Warden takes a command from a source, one at a time (R714; the service port enumerated and configured, R718, R723). -/
def State.takesCommand (s : State) (src : CmdSource) : Bool :=
  s.wardenRuns && !s.wdn.answering src && !s.inHand src && match src with
    | .ctx _ => true
    | .svp => s.wdn.svpConf

/-- The command channel is freed as soon as the command is read (R714). -/
def State.freeCommand (src : CmdSource) (s : State) : State :=
  match src with
  | .ctx h => if s.chu.chan[(ix 168 h.val)].st = .full then s.relPush (.free h) else s
  | .svp => ({ s with upd := { s.upd with sessLast := s.tb.clk.cycles } } : State).wsrc 7

/-- A response: the command word, STATUS, results (R713). -/
def State.respond (src : CmdSource) (tag : BitVec 8) (code : BitVec 12) (status : Nat) (results : List Word) (s : State) : State :=
  s.relPush (.response src ((tag ++ code : BitVec 20) :: BitVec.ofNat 20 status :: results))

/-- A command is taken and performed; without a session the service port gets NOT_ALLOWED, but for STATUS (R714, R721). -/
def State.command (src : CmdSource) (tag : BitVec 8) (code : BitVec 12) (f : State → State) (s : State) : State :=
  if !s.takesCommand src then s
  else
    let s := s.freeCommand src
    if src = .svp ∧ !s.wdn.session ∧ code ≠ 1 then s.respond src tag code 0x82 [] else f s

/-- Sign-extended to a word. -/
def sext20 {w : Nat} (x : BitVec w) : Word := BitVec.ofInt 20 x.toInt

def wardenLogSeq (s : State) : List Word := [fld s.flash.seq 0 20, fld s.flash.seq 20 20]

/-- STATUS (R717); the stepping is 1, the one the manual covers (00 R1). -/
def execStatus (src : CmdSource) (tag : BitVec 8) (s : State) : Host.Outcome State Fault Refusal :=
  .next (s.command src tag 1 fun s =>
    let size : BitVec 2 := if s.flash.big then 2 else 1
    let trial := match s.upd.trial with
      | some t => t.act.type == 0
      | none => false
    let w4 : Word := at32 (bool 1 s.wdn.slot) 0 ||| bitAt trial 1 ||| bitAt s.wdn.session 2 |>.setWidth 20
    let w2 : Word := (0#14 ++ size ++ 1#4 : BitVec 20)
    s.respond src tag 1 0 ([w2, s.wdn.version, w4] ++ wardenLogSeq s
      ++ [s.wdn.restart.count.setWidth 20, s.lo.id, s.lo.rev]))

/-- SYSTEM_RESET (R717): the W reset follows the release of the response. -/
def execSystemReset (src : CmdSource) (tag : BitVec 8) (key : Word) (s : State) : Host.Outcome State Fault Refusal :=
  .next (s.command src tag 2 fun s => s.respond src tag 2 (if key = 0x57A5E then 0 else 1) [])

/-- The SEQ of a record. -/
def recordSeq (ws : List Word) : Nat := (ws.getD 1 0).toNat + 2 ^ 20 * (ws.getD 2 0).toNat

/-- A record whose MARKER and CHECK are right (R710). -/
def recordOk (ws : List Word) : Bool := ws.length == 16 && ws.getD 0 0 == 0x47A50 && ws.foldl (· + ·) 0 == 0

/-- The record with the smallest SEQ at or above `k`. -/
def Flash.logFind (f : Flash) (k : Nat) : Option (List Word) :=
  f.log.foldl (fun best e =>
    if !recordOk e.2 ∨ recordSeq e.2 < k then best
    else match best with
      | none => some e.2
      | some b => if recordSeq e.2 < recordSeq b then some e.2 else best) none

/-- LOG_READ (R717). -/
def execLogRead (src : CmdSource) (tag : BitVec 8) (seq : BitVec 40) (s : State) : Host.Outcome State Fault Refusal :=
  .next (s.command src tag 0x30 fun s =>
    match s.flash.logFind seq.toNat with
    | some r => s.respond src tag 0x30 (if recordSeq r = seq.toNat then 0 else 1) ((r.drop 1).take 14)
    | none => s.respond src tag 0x30 2 [])

/-- SENSOR_READ (R717). -/
def execSensorRead (src : CmdSource) (tag : BitVec 8) (group : BitVec 2) (s : State) : Host.Outcome State Fault Refusal :=
  .next (s.command src tag 0x40 fun s =>
    let x := s.wdn.sens
    if group = 0 then s.respond src tag 0x40 0 (x.temp.toList.map sext20)
    else if group = 1 then
      s.respond src tag 0x40 0 ([x.vin.setWidth 20, x.iin.setWidth 20] ++ x.rail.toList.map fun r => r.mv.setWidth 20)
    else if group = 2 then s.respond src tag 0x40 0 [fld x.clk 0 20, sext20 x.ppm]
    else s.respond src tag 0x40 1 [])

/-- SNAPSHOT (R717, 11 R436). -/
def execSnapshot (src : CmdSource) (tag : BitVec 8) (s : State) : Host.Outcome State Fault Refusal :=
  .next (s.command src tag 0x60 fun s =>
    let s := s.snapTally false
    s.respond src tag 0x60 0 [s.eth.snapStroke])

/-- A code outside the command table (R716). -/
def execCommandUnknown (src : CmdSource) (tag : BitVec 8) (code : BitVec 12) (s : State) : Host.Outcome State Fault Refusal :=
  let known : List (BitVec 12) := [0x001, 0x002, 0x010, 0x011, 0x012, 0x020, 0x021, 0x022, 0x023, 0x024, 0x025, 0x030, 0x040, 0x050, 0x051,
    0x060, 0x070]
  .next (if known.contains code then s else s.command src tag code fun s => s.respond src tag code 0x80 [])

/-! The flash interface (19, FADDR to FSTAT). -/

/-- An operation starts, unless one is in progress. -/
def State.flashStart (o : FlashOp) (s : State) : State :=
  if s.wdn.fcmd.isSome then s else s.modWdn fun w => { w with fcmd := some o, ferror := false }

/-- FCMD 1: the program buffer's 48 octets from FADDR on. -/
def State.flashProgram (s : State) : State := s.flashStart (.program s.wdn.faddr.toNat (octets3 s.wdn.fbuf.toList))
/-- FCMD 2: the 4 KiB sector that FADDR lies in. -/
def State.flashErase (s : State) : State := s.flashStart (.erase (s.wdn.faddr.toNat / 4096 * 4096))

/-- What an operation leaves in the flash. -/
def Flash.apply (o : FlashOp) (f : Flash) : Flash :=
  match o with
  | .program a os => { f with raw := memWriteRun 0xFF f.raw a os }
  | .erase a => { f with raw := memClear f.raw a 4096 }

def execFlashProgram (s : State) : Host.Outcome State Fault Refusal := .next (if s.wardenRuns then s.flashProgram else s)
def execFlashErase (s : State) : Host.Outcome State Fault Refusal := .next (if s.wardenRuns then s.flashErase else s)
def execFlashTakeLock (s : State) : Host.Outcome State Fault Refusal :=
  .next (if s.wardenRuns then s.modWdn fun w => { w with flocked := true } else s)
def execFlashReleaseLock (s : State) : Host.Outcome State Fault Refusal :=
  .next (if s.wardenRuns then s.modWdn fun w => { w with flocked := false } else s)

/-- An operation finishes, well or not: ERROR and local source 11 (19, FSTAT). -/
def execFlashOperationComplete (ok : Bool) (s : State) : Host.Outcome State Fault Refusal :=
  match s.wdn.fcmd with
  | none => .next s
  | some o =>
    let s := s.modWdn fun w => { w with fcmd := none, ferror := !ok }
    .next ((if ok then { s with flash := s.flash.apply o } else s).wsrc 11)

end Sys2Proof.Machine
end

