-- ==== Sys2Proof/Machine/Islands.lean ====
section
/-! DEFINITION. Power islands (22): host requests, power-off, the P reset, re-application (04 R177-R180) and claims (20). -/

namespace Sys2Proof.Machine

/-- The island is claimed, by the Warden or for the host (20, Island claims). -/
def State.claimed (s : State) (i : Nat) : Bool := bit s.sec.claim i || bit s.sec.wclaim i

/-- Either plane references the island (R800). -/
def State.referenced (s : State) (i : Nat) : Bool :=
  s.lo.marks i || match s.lay.shadow with
    | some L => s.lay.st == .valid && L.marks i
    | none => false

/-- Every frame of the Landing is lost (22, survival matrix). -/
def State.loseFrames (s : State) : State :=
  let ports := s.eth.port.map fun x => { x with tx := none, retry := [], rx := [], bare := [] }
  let hws := s.hw.map fun h => { h with tx := { h.tx with building := none } }
  let s : State := { s with eth := { s.eth with port := ports }, hw := hws }
  let s := s.modWdn fun w => { w with tx := { w.tx with building := none } }
  (List.finRange 16).foldl (fun s n =>
    match s.rxHead n with
    | some f => if f.verdict.isNone then s.verdictAt n false else s
    | none => s) s |>.modLnd fun l => { l with frames := [], queue := Vector.replicate 80 [], toWarden := none }

/-- The frames that port `p` is receiving end with their port: each gets the verdict of a frame cut short (08 R316). -/
def State.loseRx (p : Fin 6) (s : State) : State :=
  (s.eth.port[p].rx).foldl (fun s id =>
    let (ok, s) := (s.modPort p fun e => { e with rx := e.rx.filter (· != id), bare := e.bare.filter fun b => b.1 != id }).endRx p id true
    match s.frame? id with
    | some f => if ok then s.giveVerdict id (verdictWord f (f.errs ||| 0x10)) else s.noBuffer id
    | none => s) s

/-- What an island holds takes its reset values (22, island table and survival matrix; 04 R177). -/
def State.pReset (i : Fin 56) (s : State) : State :=
  let k := i.val
  if k = 2 then { s with sec := { s.sec with trng := .startup, health := Health.reset, testing := true, seeding := false, fails := 0, lastApt := false, run := 0,
                                             reseeds := 0, authFails := 0, lock := { run := 0, last := 0 } } }
  else if 4 ≤ k ∧ k < 20 then
    let n : Fin 16 := ix 16 (k - 4)
    let s := (s.losing (.hewer n) fun s => s.modHw n fun _ => Hewer.reset)
    if s.lo.present n.val then
      s.modHw n fun h => { h with st := .loading, load := { HewerLoad.idle with loading := true, reapply := true } }
    else s
  else if 20 ≤ k ∧ k < 24 then
    let s := { s with loft := memClear s.loft (131072 * (k - 20)) 131072 }
    if k = 20 then { s with sem := Vector.replicate 64 Sem.free } else s
  else if 24 ≤ k ∧ k < 28 then s.loseFrames
  else if k = 28 then
    let s := s.loseFrames
    let ports := s.eth.port.map fun x => { x with tally := Tally.reset }
    ({ s with lnd := { Lnd.reset with nextId := s.lnd.nextId }, eth := { s.eth with port := ports } } : State).installStatics
  else if k = 29 then { s with grd := Grd.reset }
  else if k = 30 ∨ k = 31 then s.modGal (·.clearBank (k - 30))
  else if 32 ≤ k ∧ k < 36 then
    let f : Fin 4 := ix 4 (k - 32)
    let s := (s.modTreads f fun _ => Tread.reset).modFlight f fun _ => Flight.reset
    s.unparkAct (actFlight f)
  else if 36 ≤ k ∧ k < 40 then
    let p : Fin 6 := ix 6 (k - 36)
    (s.linkRestart p).modPort p fun x => { x with freeze := none, diag := false, diagRes := ResultReg.empty 24, thr := EthPort.reset.thr }
  else if 40 ≤ k ∧ k < 46 then
    let p : Fin 6 := ix 6 (k - 40)
    ((s.linkRestart p).loseRx p).modPort p fun _ => EthPort.reset
  else if k = 46 ∨ k = 47 then s.linkRestart (ix 6 (k - 42))
  else if k = 48 ∨ k = 49 then
    (List.finRange 4).foldl (fun s c => if c.val / 2 = k - 48 then s.modCan c fun _ => Can.reset else s) s
  else if k = 50 then { s with twb := Vector.replicate 3 Twb.reset }
  else if k = 51 then
    if s.host.hsel = 0 then s.modHost fun h => { h with dma := Vector.replicate 8 Dma.reset, d3 := false, linkUp := false, linkSpeed := 0, linkWidth := 0 } else s
  else if k = 52 then s.modHost fun h => { h with wbuf := [], half := 0, heldLow := none, qErr := false }
  else if k = 53 then s.modWdn fun w => { w with svpConf := false }
  else if k = 54 then
    let c := s.tb.clk.fromAon
    { s with tb := { Timebase.reset with clk := { c with trim := 0, slew := 0 } } }
  else if k = 55 then s.modWdn fun w => { w with sens := Sensors.reset }
  else s

/-- An island is switched off: what it held stops (22 R800, 18 R660). The island of the host interface in use takes the host
with it: an H reset (22 R803, hazard). -/
def State.islandDown (i : Fin 56) (s : State) : State :=
  let k := i.val
  let off (s : State) : State := s.modPwr fun p => { p with islOn := setBit p.islOn k false }
  let s := if 4 ≤ k ∧ k < 20 then
      s.losing (.hewer (ix 16 (k - 4))) fun s => (off s).modHw (ix 16 (k - 4)) fun h => { h.still with st := .absent }
    else off s
  let s := if (k = 51 ∧ s.host.hsel = 0) ∨ (k = 52 ∧ (s.host.hsel = 1 ∨ s.host.hsel = 2)) then
      s.hostReset.modHost fun h => { h with linkWait := true, linkUp := false, linkSpeed := 0, linkWidth := 0 } else s
  if 36 ≤ k ∧ k < 40 then s.linkRestart (ix 6 (k - 36))
  else if 40 ≤ k ∧ k < 46 then s.linkRestart (ix 6 (k - 40))
  else if k = 46 ∨ k = 47 then s.linkRestart (ix 6 (k - 42))
  else if 24 ≤ k ∧ k ≤ 28 then s.loseFrames
  else s

/-- An island's power is good: its P reset (R800), then re-application where a plane references it (R177-R179). -/
def State.islandUp (i : Fin 56) (s : State) : State :=
  let s := (s.modPwr fun p => { p with islOn := setBit p.islOn i.val true }).pReset i
  if s.referenced i.val then s.modPwr fun p => { p with reapply := setBit p.reapply i.val true }
  else s.raise evIslandReady

/-- Every island that a layout marks and that is off is powered up (04 R153, R155). -/
def State.powerMarked (L : Layout) (s : State) : State :=
  (List.finRange 56).foldl (fun s i => if L.marks i.val && !s.islandOn i.val then s.islandUp i else s) s

/-! Requests (R799-R802; 20 R730-R732, R824). -/

def State.islResult (r : BitVec 3) (i : BitVec 6) (s : State) : State :=
  s.modPwr fun p => { p with islRes := p.islRes.put (r ++ i : BitVec 9) }

/-- A denied request (20 R731). -/
def State.denyIsland (reason : BitVec 2) (i : BitVec 6) (s : State) : State :=
  let s := { s with sec := { s.sec with denyCount := satInc s.sec.denyCount, denyReason := reason, denyIsland := i } }
  (s.islResult 1 i).raise evPwrDenied

/-- A request through PWR.ISL_REQ. The Warden's own requests are not denied (20 R734); a Hewer's are ignored (R824). -/
def State.islandRequest (a : Agent) (on : Bool) (i : BitVec 6) (s : State) : State :=
  let k := i.toNat
  if 55 < k then s.islResult 2 i
  else if s.pwr.cur = .drowse ∨ s.pwr.stop ∨ !s.pwr.moves.isEmpty then s.islResult 3 i
  else if a = .host ∧ s.claimed k then s.denyIsland 1 i
  else if a = .host ∧ s.lo.marks k then s.denyIsland 2 i
  else if s.islandOn k = on then s.islResult 4 i
  else s.modPwr fun p => { p with moves := p.moves ++ [{ island := ix 56 k, on := on, host := true }] }

/-- An agent that may write the PWR block (R824). -/
def State.powers (s : State) (a : Agent) : Bool :=
  s.reachesAon a

def execIslandPowerOnRequest (a : Agent) (i : BitVec 6) (s : State) : Host.Outcome State Fault Refusal :=
  let s := s.paid a
  .next (if s.powers a then s.islandRequest a true i else s)

def execIslandPowerOffRequest (a : Agent) (i : BitVec 6) (s : State) : Host.Outcome State Fault Refusal :=
  let s := s.paid a
  .next (if s.powers a then s.islandRequest a false i else s)

/-- The transition in progress reports DONE in ISL_RES. -/
def State.moveDone (m : IslandReq) (s : State) : State :=
  let s := s.modPwr fun p => { p with moves := p.moves.filter (· != m) }
  if m.host then s.islResult 0 (BitVec.ofNat 6 m.island.val) else s

/-- An allowed power-off completes (R800). -/
def execIslandOffComplete (s : State) : Host.Outcome State Fault Refusal :=
  match s.pwr.moves.find? (!·.on) with
  | none => .next s
  | some m => .next ((s.islandDown m.island).moveDone m)

/-- A power-on completes: the island has taken its reset values (R800). -/
def execPResetComplete (i : Fin 56) (s : State) : Host.Outcome State Fault Refusal :=
  match s.pwr.moves.find? fun m => m.on && m.island == i with
  | none => .next s
  | some m => .next ((s.islandUp i).moveDone m)

/-- A re-application completes (04 R177-R179): a flight then starts its START_SET (15 R582). A Hewer's ends with its load. -/
def execReapplyComplete (i : Fin 56) (s : State) : Host.Outcome State Fault Refusal :=
  let k := i.val
  if !bit s.pwr.reapply k then .next s
  else if 4 ≤ k ∧ k < 20 then
    let n : Fin 16 := ix 16 (k - 4)
    if s.hw[n].st = .loading then .next s else .next ((s.reloadStaged n).reapplied i)
  else if 32 ≤ k ∧ k < 36 then .next ((s.startAgain (ix 4 (k - 32))).reapplied i)
  else .next (s.reapplied i)

/-! Claims (20 R733-R735). -/

/-- SECURITY record (20, ARG codes). -/
def State.securityLog (arg status key argw island : Nat) (s : State) : State :=
  s.logRec 8 arg [BitVec.ofNat 20 status, BitVec.ofNat 20 key, BitVec.ofNat 20 argw, BitVec.ofNat 20 island]

def execIslandClaim (src : CmdSource) (tag : BitVec 8) (i : BitVec 6) (s : State) : Host.Outcome State Fault Refusal :=
  .next (s.command src tag 0x50 fun s =>
    if 55 < i.toNat then s.respond src tag 0x50 1 []
    else
      let s : State := { s with sec := { s.sec with claim := setBit s.sec.claim i.toNat true } }
      (s.securityLog 8 0 0 0 i.toNat).respond src tag 0x50 0 [])

def execIslandRelease (src : CmdSource) (tag : BitVec 8) (i : BitVec 6) (s : State) : Host.Outcome State Fault Refusal :=
  .next (s.command src tag 0x51 fun s =>
    if 55 < i.toNat then s.respond src tag 0x51 1 []
    else if bit s.sec.wclaim i.toNat then s.respond src tag 0x51 2 []
    else if bit s.sec.claim i.toNat then
      let s : State := { s with sec := { s.sec with claim := setBit s.sec.claim i.toNat false } }
      (s.securityLog 9 0 0 0 i.toNat).respond src tag 0x51 0 []
    else s.respond src tag 0x51 3 [])

end Sys2Proof.Machine
end

