-- ==== Sys2Proof/Machine/Stage.lean ====
section
/-! DEFINITION. Staging (04 R148-R153), plans (R134, R136, R166), the arming of changeovers (R157-R159) and the boot layout
(R155, R156). -/

namespace Sys2Proof.Machine

/-! Binding digests and plans (R134, R136). Two digests are equal exactly when what they cover is equal (log 30). -/

/-- Pin records, each with its pin number, of the units a predicate names. -/
def Layout.pinsOf (L : Layout) (mine : Nat → Nat → Bool) : List Word :=
  (List.range 96).flatMap fun i =>
    let r := L.pin i
    if mine (pinKind r) (pinUnit r) then [BitVec.ofNat 20 i, r] else []

/-- What Hewer `n`'s binding digest covers. -/
def Layout.hewerBinding (L : Layout) (n : Nat) : List Word :=
  L.body 10 n ++ [L.tap n]
    ++ L.pinsOf (fun k u => (k == 1 && L.hasTread n u) || (k == 2 && L.hasCan n u) || (k == 3 && L.hasTwb n u))
    ++ (L.groups.filter fun r => r.owner == n).flatMap fun r => L.grpWords r.group

/-- What flight `f`'s binding digest covers. -/
def Layout.flightBinding (L : Layout) (f : Nat) : List Word := L.body 11 f ++ L.pinsOf fun k u => k == 1 && u / 8 == f

/-- Mode of Hewer `n` when `old` gives way to `new` (R136). -/
def hewerMode (old new : Layout) (n : Nat) : PlanMode :=
  match old.present n, new.present n with
  | false, false => .absent
  | false, true => .start
  | true, false => .stop
  | true, true =>
    if old.hewerBinding n == new.hewerBinding n then .carry
    else if !new.bothBanks n && !old.bothBanks n then .warm else .cold

/-- Mode of flight `f` (R136). -/
def flightMode (old new : Layout) (f : Nat) : PlanMode :=
  match old.flightPresent f, new.flightPresent f with
  | false, false => .absent
  | false, true => .start
  | true, false => .stop
  | true, true => if old.flightBinding f == new.flightBinding f then .carry else .change

/-- The cold pause K in strokes (R166). -/
def coldPause (L : Layout) (words : Nat) : Nat := ceilDiv (50000 + 40 * words) (max 1 (8 * L.period.toNat))

/-- The plans against the shadow layout (R136, R151, R183); `ready` says which idle banks hold their image. -/
def State.plan (ready : Fin 16 → Bool) (s : State) : State :=
  match s.lay.shadow with
  | none => s
  | some L =>
    let hs := Vector.ofFn fun n : Fin 16 =>
      let m := hewerMode s.lo L n.val
      let wn := match s.flash.packageFor L n.val with
        | some p => p.imageWords
        | none => 0
      ({ pause := if m = .cold then BitVec.ofNat 8 (coldPause L wn) else 0,
         ready := (m == .warm || m == .start) && ready n, mode := m } : HewerPlan)
    let fs := Vector.ofFn fun f : Fin 4 => flightMode s.lo L f.val
    { s with plans := { s.plans with hewer := hs, flight := fs } }

/-! Staging. -/

/-- A staging in progress, or entry 0 PENDING (R148 code 1). -/
def State.stageBusy (s : State) : Bool := s.lay.staging.isSome || s.tb.sched[(0 : Fin 16)].st == .pending

/-- No island is kept off by a rail fault or the controlled stop (R148 code 15). -/
def State.islandsCan (s : State) (L : Layout) : Bool :=
  (List.range 56).all fun i => !L.marks i || s.islandOn i || !(s.pwr.stop || (List.range 8).any fun r => (s.wdn.sens.rail[r]?.map (·.fault)).getD false)

/-- What SBU.ADMIT records (03 R866). -/
def State.recordAdmit (a : Option (Option (Nat × Nat × Nat))) (s : State) : State :=
  match a with
  | none => s
  | some none => s.modSbu fun b => { b with admission := { pass := true, code := 0, res := 0, index := 0 } }
  | some (some (c, r, i)) =>
    s.modSbu fun b => { b with admission := { pass := false, code := BitVec.ofNat 4 c, res := BitVec.ofNat 3 r, index := BitVec.ofNat 6 i } }

/-- A package of the layout fails its signature or its tag (20 R738). -/
def packageAuthFails (f : Flash) (L : Layout) : Bool :=
  (List.range 16).any fun n => L.present n && match f.findPackage (L.pkgDigest n) with
    | some os => packageFail f os == some 5 || packageFail f os == some 8
    | none => false

/-- A failed verification is raised and logged (20 R738). -/
def State.authFailed (s : State) : State := (s.authFail).securityLog 1 0 0 0 0

/-- The check phase on a layout already parsed (R148 codes 10 to 15): SBU.ADMIT written, the failure if any. -/
def State.checkLayout (ps : List Placed) (L : Layout) (s : State) : Option LayFail × State :=
  let c := lateChecks s.flash (s.host.hsel == 0) (s.islandsCan L) L ps
  let s := s.recordAdmit c.admission
  let s := if (c.fail.map (·.code)) = some 13 ∧ packageAuthFails s.flash L then s.authFailed else s
  (c.fail, s)

/-- The check phase on the octets of a slot (R148). -/
def State.checkSlot (slot : Nat) (s : State) : Sum LayFail Layout × State :=
  let x := s.flash.slot 2 slot
  if x.st ≠ .valid then (.inl ⟨2, 0⟩, s)
  else match parseLayout s.flash x.octets with
    | .inl e => (.inl e, if e.code = 7 then s.authFailed else s)
    | .inr (ps, L) =>
      let (e, s) := s.checkLayout ps L
      match e with
      | some e => (.inl e, s)
      | none => (.inr L, s)

/-- A refusal is recorded and raised (R150). -/
def State.stageRefused (slot : BitVec 3) (e : LayFail) (s : State) : State :=
  let s := s.modLay fun l => { l with code := BitVec.ofNat 5 e.code, word := BitVec.ofNat 20 e.word, slot := slot }
  let s := s.logRec 5 e.code [slot.setWidth 20, 0, 0, BitVec.ofNat 20 e.word]
  s.raiseBy actWarden evLayoutReject

/-- The write phase begins: islands powered, claims taken, the plane being written (R151-R153; 20, Warden claims). -/
def State.beginWrite (slot : BitVec 3) (L : Layout) (reply : Option (CmdSource × BitVec 8)) (s : State) : State :=
  let s := s.powerMarked L
  let marks := (List.range 56).foldl (fun m i => setBit m i (L.marks i || decide (i < 4))) (0#56)
  let s : State := { s with sec := { s.sec with wclaim := marks } }
  s.modLay fun l => { l with slot := slot, st := .writing, shadow := none, staging := some { slot := slot, layout := L, reply := reply } }

/-- LAYOUT_STAGE (R148-R151; 21 R785 STATUS 19). -/
def execLayoutStage (src : CmdSource) (tag : BitVec 8) (slot : BitVec 3) (s : State) : Host.Outcome State Fault Refusal :=
  .next (s.command src tag 0x10 fun s =>
    if s.upd.trial.isSome then s.respond src tag 0x10 19 []
    else if s.stageBusy then (s.stageRefused slot ⟨1, 0⟩).respond src tag 0x10 1 []
    else
      let (r, s) := s.checkSlot slot.toNat
      match r with
      | .inl e => (s.stageRefused slot e).respond src tag 0x10 e.code []
      | .inr L => s.beginWrite slot L (some (src, tag)))

/-- The idle banks of WARM and START Hewers take their images (04, write phase). -/
def State.loadIdle (L : Layout) (s : State) : State :=
  (List.finRange 16).foldl (fun s n =>
    let m := hewerMode s.lo L n.val
    if m = .warm ∨ m = .start then
      match s.flash.image L n.val with
      | some ws => s.modHw n (·.stage (L.bothBanks n.val) ws)
      | none => s
    else s) s

/-- The shadow plane becomes VALID (R151). -/
def State.stageDone (L : Layout) (s : State) : State :=
  let s := s.loadIdle L
  let s := s.modLay fun l => { l with st := .valid, shadow := some L, staging := none, code := 0, word := 0 }
  let s := s.plan fun _ => true
  let s := s.logRec 5 0 [s.lay.slot.setWidth 20, L.id, L.rev, 0]
  s.raiseBy actWarden evLayoutLoaded

/-! Arming (R157-R160). -/

/-- An entry of the scheduler armed by the Warden (02 R63, R69): refused or PENDING. -/
def State.armWarden (n : Fin 16) (stroke needSync : Bool) (tgt : Vector Word 4) (s : State) : Bool × State :=
  let s := s.modSched n fun e =>
    ({ e with action := 0, mask := 0, needSync := needSync, stroke := stroke, tgt := tgt } : Sched).arm .warden s.tb.stroke.count
  (s.tb.sched[n].st == .pending, s)

/-- The stroke target one above the counter (R157). -/
def State.nextStroke (s : State) : Vector Word 4 :=
  let n := s.tb.stroke.count + 1
  #v[fld n 0 20, fld n 20 20, 0, 0]

/-- STATUS of an activate command that is refused before it arms (04, Triggering a changeover). -/
def State.activateRefusal (s : State) : Option Nat :=
  if s.upd.trial.isSome then some 19
  else if s.lay.st ≠ .valid then some 16
  else if s.tb.sched[(0 : Fin 16)].st = .pending then some 17 else none

/-- LAYOUT_ACTIVATE (R157). -/
def execLayoutActivate (src : CmdSource) (tag : BitVec 8) (s : State) : Host.Outcome State Fault Refusal :=
  .next (s.command src tag 0x11 fun s =>
    match s.activateRefusal with
    | some r => s.respond src tag 0x11 r []
    | none =>
      let t := s.nextStroke
      let (ok, s) := s.armWarden 0 true false t
      if ok then s.respond src tag 0x11 0 t.toList else s.respond src tag 0x11 18 [])

/-- LAYOUT_ACTIVATE_AT with CANCEL = 0 (R158). -/
def execLayoutActivateAt (src : CmdSource) (tag : BitVec 8) (loc kind : Bool) (target : Vector Word 4) (s : State) :
    Host.Outcome State Fault Refusal :=
  .next (s.command src tag 0x12 fun s =>
    match s.activateRefusal with
    | some r => s.respond src tag 0x12 r []
    | none =>
      let (ok, s) := s.armWarden 0 kind (!loc) target
      if ok then s.respond src tag 0x12 0 target.toList else s.respond src tag 0x12 18 [])

/-- LAYOUT_ACTIVATE_AT with CANCEL = 1 (R159). With no entry 0 pending it cancels nothing and answers STATUS 0 too (DESIGN CHOICE, log
162). -/
def execLayoutActivateCancel (src : CmdSource) (tag : BitVec 8) (s : State) : Host.Outcome State Fault Refusal :=
  .next (s.command src tag 0x12 fun s =>
    let s := if s.tb.sched[(0 : Fin 16)].st = .pending then
        let s := s.cancelSched 0
        { s with upd := { s.upd with lay := none } }
      else s
    s.respond src tag 0x12 0 [])

/-- The write phase is broken off: the shadow plane is INVALID (R152); the command that staged is answered INTERRUPTED. -/
def State.stageBroken (s : State) : State :=
  match s.lay.staging with
  | none => s
  | some g =>
    let s := s.modLay fun l => { l with st := .invalid, staging := none }
    let s := match g.reply with
      | some (src, tag) => s.respond src tag 0x10 0x84 []
      | none => s
    match s.upd.wait with
    | some w =>
      let s : State := { s with upd := { s.upd with wait := none } }
      s.respond w.src w.tag (if w.target.isSome then 0x24 else 0x23) 0x84 []
    | none => s

/-- A management restart meets the write phase (R152): a LAYOUT_STAGE is answered INTERRUPTED; an activation resumes after the
restart and writes the plane again (19 R700). -/
def State.stageInterrupted (s : State) : State :=
  match s.lay.staging with
  | none => s
  | some g => if g.reply.isSome then s.stageBroken else s.modLay fun l => { l with st := .invalid }

/-- The write phase of an activation begins again as the Warden resumes (19 R700). -/
def State.stageResumed (s : State) : State :=
  if s.lay.staging.isSome then s.modLay fun l => { l with st := .writing } else s

/-- The CHANGEOVER record: 0 done, else why it was aborted (19 R707). -/
def State.changeoverLog (why : Nat) (s : State) : State :=
  s.logRec 6 why [fld s.lay.chgStroke 0 20, fld s.lay.chgStroke 20 20, s.lo.id]

/-- An uncorrectable error in the shadow plane store (R152, R181). -/
def execPlaneFault (s : State) : Host.Outcome State Fault Refusal :=
  if s.lay.staging.isSome then .next s.stageBroken
  else if s.tb.sched[(0 : Fin 16)].st = .pending then
    let s := s.modSched 0 fun e => { e with st := .aborted, reason := .cancelled }
    let s := (s.modLay fun l => { l with st := .invalid }).countAbort 4
    let s : State := { s with upd := { s.upd with lay := none } }
    .next ((s.raise evChangeoverAbort).changeoverLog 4)
  else .next s

/-! The boot layout (R155, R156). -/

/-- The substitution table applied to a boot layout (21 R780). -/
def Flash.substitute (f : Flash) (L : Layout) : Layout :=
  let sections := L.sections.map fun x =>
    if x.type = 10 then
      match f.subst.find? fun e => e.1 == L.pkgDigest x.inst with
      | none => x
      | some (_, k) =>
        let p := packageOf (f.slot 1 k.toNat).octets
        { x with body := (bool 20 p.bothBanks) :: (List.range 13).map (pack256 p.digest) ++ x.body.drop 14 }
    else x
  { L with sections := sections }

/-- Sections with their places, as a stream would hold them. -/
def Layout.placed (L : Layout) : List Placed :=
  (L.sections.foldl (fun (p : List Placed × Nat) x => (p.1 ++ [{ start := p.2, sect := x }], p.2 + 2 + x.body.length)) ([], 8)).1

/-- A boot slot checked, with its substitutions (R155). -/
def State.checkBoot (slot : BitVec 3) (s : State) : Option Layout × State :=
  let x := s.flash.slot 2 slot.toNat
  if x.st ≠ .valid then (none, s.stageRefused slot ⟨2, 0⟩)
  else match parseLayout s.flash x.octets with
    | .inl e => (none, (if e.code = 7 then s.authFailed else s).stageRefused slot e)
    | .inr (_, L) =>
      let L := s.flash.substitute L
      let (e, s) := s.checkLayout L.placed L
      match e with
      | some e => (none, s.stageRefused slot e)
      | none => (some L, s)

/-- The pins take the functions of a layout. -/
def Pins.take (L : Layout) (p : Pins) : Pins :=
  { p with
    recs := Vector.ofFn fun i : Fin 96 => L.pin i.val, use := Vector.replicate 96 .func, high := 0 }

/-- The boot layout is applied: active plane, islands, pins, tables, Hewer banks (R155; 22, Start-up). -/
def State.applyBoot (L : Layout) (fallback : Bool) (s : State) : State :=
  let s := s.modLay fun l => { l with active := some L, usedFallback := fallback }
  let s := s.powerMarked L
  let s := s.modPwr fun p => { p with reapply := 0 }
  let s : State := { s with pins := s.pins.take L }
  let s := s.installStatics
  (List.finRange 16).foldl (fun s n =>
    if L.present n.val then
      match s.flash.image L n.val with
      | some ws => s.modHw n fun h => { h.place (L.bothBanks n.val) false ws with st := .stopped, load := HewerLoad.idle }
      | none => s.hewerFault n 4
    else s.modHw n fun h => { h with st := .absent, load := HewerLoad.idle }) s

/-- BOOT_LAYOUT_LOAD (R155, R156): the first stroke starts at the next grid point (02 R42); with no admitted layout no stroke
runs and the pins stay high-impedance. The BOOT record says what was booted (19, log). -/
def execBootLayoutLoad (s : State) : Host.Outcome State Fault Refusal :=
  if !s.wardenRuns ∨ s.lay.active.isSome then .next s
  else
    let boot : Nat := if s.pwr.cause = 10 then 2 else if s.pwr.cause.toNat ≤ 5 then 0 else 1
    let (a, s) := s.checkBoot s.flash.bootSlot
    let (L, fb, s) : Option Layout × Bool × State := match a with
      | some L => (some L, false, s)
      | none =>
        let (b, s) := s.checkBoot s.flash.fallback
        (b, true, s)
    let log (s : State) : State :=
      s.logRec 1 boot [s.wdn.version, bool 20 s.wdn.slot, s.lo.id, s.lo.rev, bool 20 s.lay.usedFallback]
    match L with
    | none => .next (log (s.modLay fun l => { l with usedFallback := fb }))
    | some L =>
      let s := s.applyBoot L fb
      let s := s.modTb fun t => { t with stroke := { t.stroke with ends := some (L.gridAfter s.qns) } }
      .next (log s)

end Sys2Proof.Machine
end

