-- ==== Sys2Proof/Machine/Secure.lean ====
section
/-! DEFINITION. Keys, authenticated requests, random numbers and attestation (20), and the firmware image (19 R691). -/

namespace Sys2Proof.Machine

/-! Random numbers (R747-R755). -/

def State.modSec (f : Sec → Sec) (s : State) : State := { s with sec := f s.sec }

/-- One raw bit (R747): of a failing test, whether it is the adaptive proportion test; the repetition count test first (DESIGN CHOICE, log
173). -/
def Health.bit (b : Bool) (h : Health) : Health × Option Bool :=
  let run := if h.last = some b then h.run + 1 else 1
  let first := if h.seen = 0 then b else h.first
  let same := if h.seen = 0 then 1 else if b = h.first then h.same + 1 else h.same
  ({ last := some b, run := run, first := first, seen := (h.seen + 1) % 1024, same := same },
    if 41 ≤ run then some false else if 794 ≤ same then some true else none)

/-- Raw bits one after the other, up to the first at which a test fails (R747). -/
def Health.bits : List Bool → Health → Health × Option Bool
  | [], h => (h, none)
  | b :: bs, h => match h.bit b with
    | (h, none) => Health.bits bs h
    | r => r

/-- A consumer's port completes with a status and data. -/
def RngPort.finish {w : Nat} (status : BitVec 2) (v : BitVec w) (p : RngPort w) : RngPort w :=
  { pending := false, res := p.res.put v, status := status }

/-- A request at a port (R750, R752). -/
def RngPort.request {w : Nat} (ok : Bool) (p : RngPort w) : RngPort w :=
  if p.pending then p else if ok then { p with pending := true } else p.finish 1 0

/-- The TRNG state is OK. -/
def Sec.ok (x : Sec) : Bool := x.trng == .ok

/-- A consumer requests random bits (R750, R752). -/
def State.rngRequest (c : RngConsumer) (s : State) : State :=
  s.modSec fun x => match c with
    | .host => { x with host := x.host.request x.ok }
    | .hewer n => { x with hewer := vmod x.hewer n (·.request x.ok) }
    | .warden => { x with wdn := x.wdn.request x.ok }

def execRngRequest (c : RngConsumer) (s : State) : Host.Outcome State Fault Refusal :=
  .next (if c = .host then (if s.hostWorks then (s.paid .host).rngRequest c else s) else s.rngRequest c)

/-- A generate call completes with STATUS 0 and fresh bits (R749, R750). -/
def State.rngResult (c : RngConsumer) (s : State) : State :=
  let go (f : Sec → Sec) : State := s.drawn.modSec fun x => { f x with calls := x.calls + 1 }
  if !s.sec.ok then s
  else match c with
    | .host => if s.sec.host.pending then go fun x => { x with host := x.host.finish 0 (s.freeVal 128) } else s
    | .hewer n => if s.sec.hewer[n].pending then go fun x => { x with hewer := vmod x.hewer n (·.finish 0 (s.freeVal 16)) } else s
    | .warden => if s.sec.wdn.pending then go fun x => { x with wdn := x.wdn.finish 0 (s.freeVal 16) } else s

def execRngResult (c : RngConsumer) (s : State) : Host.Outcome State Fault Refusal := .next (s.rngResult c)

/-- A pending request completes with ENTROPY_FAIL and zero data. -/
def RngPort.fail {w : Nat} (p : RngPort w) : RngPort w := if p.pending then p.finish 1 0 else p

/-- A health test fails (R751, R755). -/
def State.healthFails (apt : Bool) (s : State) : State :=
  let s := s.modSec fun x =>
    { x with host := x.host.fail, hewer := x.hewer.map (·.fail), wdn := x.wdn.fail,
             attRes := if x.att.isSome then x.attRes.put 1 else x.attRes, attSig := if x.att.isSome then 0 else x.attSig,
             att := none, trng := .fail, health := Health.reset, testing := true, seeding := false, fails := satInc x.fails,
             lastApt := apt }
  (s.raise evEntropyFail).securityLog 6 0 0 0 0

/-- HEALTH_TEST_FAIL: raw bits come, and both tests are applied to each (R747); where one fails, R751. -/
def execHealthTestFail (bits : List Bool) (s : State) : Host.Outcome State Fault Refusal :=
  if s.sec.trng = .dead then .next s
  else match s.sec.health.bits bits with
    | (_, some apt) => .next (s.healthFails apt)
    | (h, none) => .next (s.modSec fun x => { x with health := h })

/-- The start-up test ends: its 4,096 raw bits are tested and discarded (R748, R753, R754). -/
def execStartupTestComplete (bits : List Bool) (s : State) : Host.Outcome State Fault Refusal :=
  let x := s.sec
  let (h, failed) := x.health.bits bits
  if !x.testing ∨ x.trng = .dead ∨ bits.length ≠ 4096 then .next s
  else if failed.isNone then .next (s.modSec fun x => { x with health := h, testing := false, seeding := true, run := 0 })
  else
    let run := satInc x.run
    let s := (s.modSec fun x =>
      { x with health := Health.reset, fails := satInc x.fails, lastApt := failed.getD false, run := min8 run }).raise evEntropyFail
    if 8 ≤ run.toNat then .next ((s.modSec fun x => { x with trng := .dead, testing := false }).securityLog 10 0 0 0 0)
    else .next (s.modSec fun x => { x with trng := .fail, testing := true })
where
  /-- RUN stops at 8. -/
  min8 (r : BitVec 4) : BitVec 4 := if 8 < r.toNat then 8 else r

/-- Seeding after a start-up test finishes: the state becomes OK (R749, R753). -/
def execReseedComplete (s : State) : Host.Outcome State Fault Refusal :=
  if s.sec.seeding then
    let after := s.sec.trng == .fail
    let s := s.modSec fun x =>
      { x with seeding := false, trng := .ok, reseeds := satInc x.reseeds, calls := 0, lastSeed := s.tb.clk.cycles }
    .next (if after then s.securityLog 7 0 0 0 0 else s)
  else .next s

/-- A reseed after 65,536 calls or 10 s (R749). -/
def execDrbgReseed (s : State) : Host.Outcome State Fault Refusal :=
  if s.sec.ok ∧ (65536 ≤ s.sec.calls ∨ s.sec.lastSeed + msCycles 10000 ≤ s.tb.clk.cycles) then
    .next (s.modSec fun x => { x with reseeds := satInc x.reseeds, calls := 0, lastSeed := s.tb.clk.cycles })
  else .next s

/-! Attestation (R756, R757). -/

/-- Bits 3:0: the usable owner keys. -/
def Flash.usableKeys (f : Flash) : BitVec 4 := f.present &&& ~~~f.revoked

/-- The attestation block (R756). -/
def State.attestBlock (s : State) : List Word :=
  let f := s.flash
  [0x47A62, fld f.uid 0 20, fld f.uid 20 20, s.wdn.version, s.lo.id, s.lo.rev]
    ++ ((List.range 7).map fun k => (s.sec.auth[5 + k]?).getD 0)
    ++ [(at32 f.usableKeys 0 ||| at32 s.sec.scope 4 ||| bitAt f.debugOff 6 ||| bitAt f.svpOff 7).setWidth 20, 0, 0]

def State.attest (s : State) : State :=
  if s.sec.att.isSome then s
  else if !s.sec.ok then s.modSec fun x => { x with attRes := x.attRes.put 1, attSig := 0 }
  else s.modSec fun x => { x with att := some (sha256 (octets3 s.attestBlock)) }

def execAttestationStart (a : Agent) (s : State) : Host.Outcome State Fault Refusal :=
  let s := s.paid a
  .next (match a with
    | .hewer _ => s
    | _ => if s.reaches a then s.attest else s)

/-- The signature is done (R756). -/
def execAttestationComplete (s : State) : Host.Outcome State Fault Refusal :=
  match s.sec.att with
  | none => .next s
  | some d =>
    .next (s.drawn.modSec fun x => { x with att := none, attRes := x.attRes.put 0, attSig := Config.ecdsaSign s.free d, calls := x.calls + 1 })

/-! The firmware image (19 R691; 21 SUBCODE). -/

/-- CODE_WORDS, ENTRY, VERSION, the image words and the signing key of a firmware image. -/
structure Firmware where
  version : Word
  code    : Nat
  entry   : Word
  image   : List Word
  key     : Nat
  deriving DecidableEq, Repr

def firmwareOf (os : List Octet) : Firmware :=
  let ws := wordsOf os
  let n := (ws.getD 4 0).toNat
  { version := ws.getD 3 0, code := (ws.getD 5 0).toNat, entry := ws.getD 6 0, image := (ws.drop 8).take n,
    key := fldN (ws.getD (8 + n) 0) 0 2 }

/-- The first check a firmware image fails, as a SUBCODE (R691; 21 R766: 6 before 5). -/
def firmwareFail (f : Flash) (os : List Octet) : Option Nat :=
  let ws := wordsOf os
  let w (i : Nat) : Word := ws.getD i 0
  let n := (w 4).toNat
  let x := firmwareOf os
  let digest := sha256 (os.take (3 * (8 + n)))
  if w 0 ≠ 0x47A3F then some 1
  else if fldN (w 1) 16 4 ≠ 1 ∨ fldN (w 1) 0 8 ≠ 0 ∨ w 7 ≠ 0 ∨ !(brokenOctets 0 os).isEmpty then some 2
  else if (w 2).toNat ≠ 48 + n ∨ os.length ≠ 3 * (48 + n) then some 3
  else if !packed256 (ws.drop (9 + n)) digest then some 4
  else if !f.usable x.key then some 6
  else if !f.verifies x.key digest (unpack256 (ws.drop (22 + n))) (unpack256 (ws.drop (35 + n))) then some 5
  else if n < 1 ∨ 114688 < n ∨ x.code < 1 ∨ min n 49152 < x.code ∨ x.code ≤ x.entry.toNat
      ∨ !(trailerBad (ws.drop (8 + n))).isEmpty then some 7
  else none

/-! Authenticated requests (R739-R746; 21 R768). -/

/-- Word `k` of a nonce packed as in R740. -/
def nonceWord (v : BitVec 128) (k : Nat) : Word := fld v (20 * k) 20

/-- A nonce's life of 60 s has not run out (R739). -/
def State.nonceHeld (s : State) (n : Option (BitVec 128 × Nat)) : Option (BitVec 128) :=
  match n with
  | some (v, k) => if s.tb.clk.cycles < k + msCycles 60000 then some v else none
  | none => none

/-- The lockout is in force (R741 STATUS 8). -/
def State.locked (s : State) (l : Lockout) : Bool := decide (8 ≤ l.run.toNat) && decide (s.tb.clk.cycles < l.last + msCycles 60000)

/-- The checks 8, 1, 2, 3, 4 on a signed statement (R741): `magic` and `op` are what words 0 and 1 must hold, `argMax` bounds
the ARG word. -/
def State.statementFail (s : State) (l : Lockout) (nonce : Option (BitVec 128)) (magic : Word) (op argMax : Nat) (ws sig : List Word) :
    Option Nat :=
  let w (i : Nat) : Word := ws.getD i 0
  let key := fldN (w 1) 4 2
  if s.locked l then some 8
  else match nonce with
    | none => some 1
    | some v =>
      let okNonce := (List.range 7).all fun k => w (5 + k) == nonceWord v k
      if w 0 ≠ magic ∨ fldN (w 1) 0 3 ≠ op ∨ fldN (w 1) 3 1 ≠ 0 ∨ above (w 1) 6 ∨ argMax < (w 2).toNat
          ∨ w 3 ≠ fld s.flash.uid 0 20 ∨ w 4 ≠ fld s.flash.uid 20 20 ∨ !okNonce
          ∨ w 12 ≠ 0 ∨ w 13 ≠ 0 ∨ w 14 ≠ 0 ∨ w 15 ≠ 0 then some 2
      else if !s.flash.usable key then some 3
      else if !s.flash.verifies key (sha256 (octets3 (ws.take 16))) (unpack256 sig) (unpack256 (sig.drop 13)) then some 4
      else none

/-- The count of failed requests after an outcome (R741): STATUS 4 counts, OK starts again. -/
def Lockout.after (status now : Nat) (l : Lockout) : Lockout :=
  if status = 4 then { run := if 8 ≤ l.run.toNat then 8 else l.run + 1, last := now } else if status = 0 then { l with run := 0 } else l

/-- The packages that either plane binds. -/
def State.boundPackages (s : State) : List Package :=
  let planes := [some s.lo, if s.lay.st = .valid then s.lay.shadow else none]
  planes.flatMap fun o => match o with
    | some L => (List.range 16).filterMap fun n => if L.present n then s.flash.packageFor L n else none
    | none => []

/-- The key of the layout image in a slot. -/
def layoutKey (os : List Octet) : Nat :=
  let ws := wordsOf os
  fldN (ws.getD ((ws.getD 2 0).toNat - 40) 0) 0 2

/-- Owner key `k` signed what the device runs or boots (R741 STATUS 7). -/
def State.keyInUse (s : State) (k : Nat) : Bool :=
  (firmwareOf (s.flash.slot 0 (if s.wdn.slot then 1 else 0)).octets).key == k
    || ([s.flash.bootSlot, s.flash.fallback].any fun b => (s.flash.slot 2 b.toNat).st == .valid && layoutKey (s.flash.slot 2 b.toNat).octets == k)
    || (s.boundPackages.any fun p => p.key == k)

/-- Package key `k` is used by a package either plane binds. -/
def State.pkeyInUse (s : State) (k : Nat) : Bool := s.boundPackages.any fun p => p.encrypted && p.pkey.val == k

/-- The outcome of OP 1, 3 or 4 (R741). -/
def State.authOutcome (s : State) (op : Nat) : Nat :=
  let ws := s.sec.auth.toList
  let arg := (ws.getD 2 0).toNat
  match s.statementFail s.sec.lock (s.nonceHeld s.sec.nonce) 0x47A61 op (if op = 4 then 15 else 3) ws s.sec.sig.toList with
  | some r => r
  | none =>
    if op = 1 ∧ s.flash.debugOff then 5
    else if op = 3 ∧ (List.range 4).all (fun k => k == arg || !s.flash.usable k) then 6
    else if (op = 3 ∧ s.keyInUse arg) ∨ (op = 4 ∧ s.pkeyInUse arg) then 7
    else 0

/-- An OP 1, 3 or 4 request: the nonce is used up whatever the outcome (R741-R744, R746). -/
def State.authRequest (src : CmdSource) (tag : BitVec 8) (op record : Nat) (accept : Nat → State → State) (s : State) : State :=
  s.command src tag 0x70 fun s =>
    let r := s.authOutcome op
    let key := fldN (s.sec.auth[1]) 4 2
    let arg := (s.sec.auth[2]).toNat
    let s := s.modSec fun x => { x with nonce := none, lock := x.lock.after r s.tb.clk.cycles }
    let s := if r = 4 then s.authFailed else s
    let s := if r = 0 then accept arg s else s
    (s.securityLog record r key arg 0).respond src tag 0x70 r []

/-- UNLOCK (R744). -/
def execUnlock (src : CmdSource) (tag : BitVec 8) (s : State) : Host.Outcome State Fault Refusal :=
  .next (s.authRequest src tag 1 2 fun arg s => s.modSec fun x => { x with scope := BitVec.ofNat 2 arg })

/-- REVOKE: the blow goes out through the release queue (R743). -/
def execRevoke (src : CmdSource) (tag : BitVec 8) (s : State) : Host.Outcome State Fault Refusal :=
  .next (s.authRequest src tag 3 4 fun arg s => s.relPush (.fuse (.revoke (ix 4 arg))))

/-- PKEY_DISABLE (R743). -/
def execPkeyDisable (src : CmdSource) (tag : BitVec 8) (s : State) : Host.Outcome State Fault Refusal :=
  .next (s.authRequest src tag 4 5 fun arg s => s.relPush (.fuse (.pkey (ix 16 arg))))

/-- RELOCK (R744). -/
def execRelock (src : CmdSource) (tag : BitVec 8) (s : State) : Host.Outcome State Fault Refusal :=
  .next (s.command src tag 0x70 fun s =>
    ((s.modSec fun x => { x with scope := 0 }).securityLog 3 0 0 0 0).respond src tag 0x70 0 [])

/-- CHALLENGE (R739). -/
def execChallenge (src : CmdSource) (tag : BitVec 8) (s : State) : Host.Outcome State Fault Refusal :=
  .next (s.command src tag 0x70 fun s =>
    if !s.sec.ok then s.respond src tag 0x70 9 []
    else
      let v := s.freeVal 128
      let s := s.drawn.modSec fun x => { x with nonce := some (v, s.tb.clk.cycles), nonceReg := v, calls := x.calls + 1 }
      s.respond src tag 0x70 0 ((List.range 7).map (nonceWord v)))

/-- A nonce's 60 s are over (R739). -/
def execNonceExpiry (s : State) : Host.Outcome State Fault Refusal :=
  match s.sec.nonce with
  | none => .next s
  | some (_, k) => .next (s.whenAt (k + msCycles 60000) fun s => s.modSec fun x => { x with nonce := none })

/-- A fuse is blown (R743). -/
def Flash.blow (b : FuseBlow) (f : Flash) : Flash :=
  match b with
  | .revoke k => { f with revoked := setBit f.revoked k.val true }
  | .pkey k => { f with pkDisabled := setBit f.pkDisabled k.val true }

end Sys2Proof.Machine
end

