-- ==== Sys2Proof/Machine/Update.lean ====
section
/-! DEFINITION. Field updates (21): opening, feeding and closing an update, activation, trials, the firmware switch, and the
service-port session; with the end of a staging's write phase (04 R151). -/

namespace Sys2Proof.Machine

def State.modUpd (f : Upd → Upd) (s : State) : State := { s with upd := f s.upd }
def State.modFlash (f : Flash → Flash) (s : State) : State := { s with flash := f s.flash }

/-! Slots (R760). -/

/-- Slots of a type, and the largest image in octets. -/
def slotCount (f : Flash) : Nat → Nat
  | 0 => 2
  | 1 => if f.big then 96 else 32
  | 2 => 8
  | _ => 0

def maxImage : Nat → Nat
  | 0 => 344208
  | 1 => 98538
  | _ => 393216

/-- TYPE and SLOT of a TYPE/SLOT word. -/
def tsType (w : Word) : Nat := fldN w 8 2
def tsSlot (w : Word) : Nat := fldN w 0 7

/-- STATUS 2: no such slot. -/
def Flash.noSlot (f : Flash) (ty k : Nat) : Bool := !decide (k < slotCount f ty)

/-- VERSION or REVISION of a slot's image, and its PERS_ID or LAYOUT_ID (SLOT_INFO, SLOT_ID). -/
def Flash.slotVersion (f : Flash) (ty k : Nat) : Word :=
  (wordsOf ((f.slot ty k).octets.take 24)).getD (if ty = 0 then 3 else if ty = 1 then 4 else 5) 0

def Flash.slotIdent (f : Flash) (ty k : Nat) : Word :=
  if ty = 0 then 0 else (wordsOf ((f.slot ty k).octets.take 24)).getD (if ty = 1 then 3 else 4) 0

/-- The layout of a slot as its octets hold it, without the checks of staging. -/
def Flash.slotLayout (f : Flash) (k : Nat) : Layout :=
  let x := f.slot 2 k
  let ws := wordsOf x.octets
  let len := (ws.getD 2 0).toNat
  match x.st, walkSections ws len (len + 1) 8 [] with
  | .valid, .inr ps => { Layout.blank with sections := ps.map (·.sect) }
  | _, _ => Layout.blank

/-- A layout names the package with a digest. -/
def Layout.names (L : Layout) (d : BitVec 256) : Bool := (List.range 16).any fun n => L.present n && L.pkgDigest n == d

/-- The two planes' layouts. -/
def State.planes (s : State) : List Layout :=
  s.lo :: match s.lay.shadow with
    | some L => if s.lay.st = .valid then [L] else []
    | none => []

/-- A boot slot names the package with a digest. -/
def Flash.bootNames (f : Flash) (d : BitVec 256) : Bool :=
  (f.slotLayout f.bootSlot.toNat).names d || (f.slotLayout f.fallback.toNat).names d

/-- A layout was staged from a slot's image: its digest is the slot's (R154). -/
def Flash.slotHolds (f : Flash) (k : Nat) (L : Layout) : Bool :=
  let x := f.slot 2 k
  let ws := wordsOf x.octets
  x.st == .valid && unpack256 (ws.drop ((ws.getD 2 0).toNat - 39)) == L.digest

/-- The slot is in use (R760). -/
def State.slotInUse (s : State) (ty k : Nat) : Bool :=
  let f := s.flash
  if ty = 0 then
    bool 1 s.wdn.slot == BitVec.ofNat 1 k || ((s.upd.trial.map (·.act.type)) == some 0 && bool 1 f.fwConfirmed == BitVec.ofNat 1 k)
  else if ty = 2 then
    f.bootSlot.toNat == k || f.fallback.toNat == k || (s.planes.any (f.slotHolds k)) || (s.lay.staging.map (·.slot.toNat)) == some k
  else
    let x := f.slot 1 k
    let d := (packageOf x.octets).digest
    x.st == .valid
      && (s.planes.any (·.names d) || ((s.lay.staging.map (·.layout.names d)).getD false) || f.bootNames d
          || f.subst.any fun e => e.1 == d || e.2.toNat == k)

/-- UPDATE record (R789): ARG, STATUS, TYPE/SLOT, source, SUBCODE. -/
def srcCode : CmdSource → Nat
  | .ctx h => h.val
  | .svp => 4

def State.updateLog (arg status : Nat) (ts : Word) (src : CmdSource) (sub : Nat) (s : State) : State :=
  s.logRec 7 arg [BitVec.ofNat 20 status, ts, BitVec.ofNat 20 (srcCode src), s.flash.slotVersion (tsType ts) (tsSlot ts),
    s.flash.slotIdent (tsType ts) (tsSlot ts), BitVec.ofNat 20 sub]

/-- A TYPE/SLOT word. -/
def tsWord (ty : BitVec 2) (slot : BitVec 7) : Word := (0#10 ++ ty ++ 0#1 ++ slot : BitVec 20)

def OpenUpdate.ts (u : OpenUpdate) : Word := tsWord u.type u.slot

/-- The slot directory's entry of a slot changed. -/
def Flash.mark (ty k : Nat) (st : SlotState) (f : Flash) : Flash := f.setSlot ty k { f.slot ty k with st := st }

/-- The open update is abandoned: its slot becomes INVALID (R767). -/
def State.abandonUpdate (s : State) : State :=
  match s.upd.cur with
  | none => s
  | some u =>
    let s := (s.modFlash (·.mark u.type.toNat u.slot.toNat .invalid)).modUpd fun x => { x with cur := none }
    s.updateLog 7 0 u.ts u.src 0

/-! Opening, feeding, closing (R763-R767). -/

/-- UPDATE_BEGIN (R764). -/
def execUpdateBegin (src : CmdSource) (tag : BitVec 8) (typeSlot size : Word) (digest : BitVec 256) (s : State) :
    Host.Outcome State Fault Refusal :=
  .next (s.command src tag 0x20 fun s =>
    let ty := tsType typeSlot
    let k := tsSlot typeSlot
    let other := match s.upd.cur with
      | some u => u.src != src
      | none => false
    if other then s.respond src tag 0x20 1 []
    else if s.flash.noSlot ty k then s.respond src tag 0x20 2 []
    else if s.slotInUse ty k then s.respond src tag 0x20 3 []
    else if size = 0 ∨ maxImage ty < size.toNat then s.respond src tag 0x20 4 []
    else
      let s := (s.abandonUpdate).modFlash (·.mark ty k .receiving)
      let s := s.modUpd fun x =>
        { x with cur := some { src := src, type := BitVec.ofNat 2 ty, slot := BitVec.ofNat 7 k, size := size.toNat, digest := digest,
                               bitmap := 0, last := s.tb.clk.cycles } }
      (s.updateLog 1 0 (tsWord (BitVec.ofNat 2 ty) (BitVec.ofNat 7 k)) src 0).respond src tag 0x20 0 [])

/-- The bitmap's five words. -/
def bitmapWords (b : BitVec 96) : List Word := (List.range 5).map fun k => fld b (20 * k) 20

/-- Octets `o` on of a slot replaced, what lies before them filled with erased octets. -/
def putOctets (os : List Octet) (o : Nat) (xs : List Octet) : List Octet :=
  let head := os.take o
  head ++ List.replicate (o - head.length) 0xFF ++ xs ++ os.drop (o + xs.length)

/-- Blocks of an image. -/
def blocksOf (size : Nat) : Nat := ceilDiv size 4096

/-- The open update, when `src` owns it (NOT_OPEN). -/
def State.ownUpdate (s : State) (src : CmdSource) : Option OpenUpdate := s.upd.cur.filter fun u => u.src == src

/-- The buffer a source's blocks come from (R765). -/
def Upd.buffer (u : Upd) : CmdSource → Mem Octet
  | .ctx _ => u.ubuf
  | .svp => u.sbuf

/-- The bitmap of an open update. -/
def State.bitmap (s : State) : BitVec 96 := (s.upd.cur.map (·.bitmap)).getD 0

/-- Block data programmed: the sector is erased first (R765). -/
def State.putBlock (u : OpenUpdate) (off count : Nat) (s : State) : State :=
  let xs := memReadRun 0 (s.upd.buffer u.src) 0 count ++ List.replicate (4096 - count) 0xFF
  let ty := u.type.toNat
  let k := u.slot.toNat
  let s := s.modFlash fun f => f.setSlot ty k { f.slot ty k with octets := putOctets (f.slot ty k).octets off xs }
  s.modUpd fun x => { x with cur := some { u with bitmap := setBit u.bitmap (off / 4096) true } }

/-- A block whose erase or program failed: what its sector holds then is open (R762 STATUS 18). -/
def State.spoilBlock (u : OpenUpdate) (off : Nat) (s : State) : State :=
  let v := s.freeVal 32768
  let ty := u.type.toNat
  let k := u.slot.toNat
  s.drawn.modFlash fun f => f.setSlot ty k { f.slot ty k with octets := putOctets (f.slot ty k).octets off ((List.range 4096).map fun i => fld v (8 * i) 8) }

/-- UPDATE_BLOCK (R765); `ok` is false when a flash erase or program failed. -/
def execUpdateBlock (src : CmdSource) (tag : BitVec 8) (offset count : Word) (ok : Bool) (s : State) :
    Host.Outcome State Fault Refusal :=
  .next (s.command src tag 0x21 fun s =>
    let answer (st : Nat) (s : State) : State :=
      s.respond src tag 0x21 st (BitVec.ofNat 20 (ones s.bitmap) :: bitmapWords s.bitmap)
    match s.ownUpdate src with
    | none => s.respond src tag 0x21 5 (0 :: bitmapWords 0)
    | some u =>
      let u := { u with last := s.tb.clk.cycles }
      let s := s.modUpd fun x => { x with cur := some u }
      let o := offset.toNat
      if o % 4096 ≠ 0 ∨ u.size ≤ o ∨ count.toNat ≠ min 4096 (u.size - o) then answer 6 s
      else if !ok then answer 18 (s.spoilBlock u o)
      else answer 0 (s.putBlock u o count.toNat))

/-- The image's own checks (R766): SUBCODE of the first one failed. -/
def imageFail (f : Flash) (ty : Nat) (os : List Octet) : Option Nat :=
  if ty = 0 then firmwareFail f os
  else if ty = 1 then packageFail f os
  else match parseLayout f os with
    | .inl e => if e.code ≤ 8 then some (e.code - 2) else none
    | .inr _ => none

/-- UPDATE_END (R766). -/
def execUpdateEnd (src : CmdSource) (tag : BitVec 8) (s : State) : Host.Outcome State Fault Refusal :=
  .next (s.command src tag 0x22 fun s =>
    match s.ownUpdate src with
    | none => s.respond src tag 0x22 5 (0 :: bitmapWords 0)
    | some u =>
      let s := s.modUpd fun x => { x with cur := some { u with last := s.tb.clk.cycles } }
      let ty := u.type.toNat
      let k := u.slot.toNat
      let n := blocksOf u.size
      let got := ones u.bitmap
      let answer (st sub : Nat) (s : State) : State := s.respond src tag 0x22 st (BitVec.ofNat 20 sub :: bitmapWords u.bitmap)
      let close (st : SlotState) (s : State) : State :=
        (s.modFlash (·.mark ty k st)).modUpd fun x => { x with cur := none }
      let os := (s.flash.slot ty k).octets.take u.size
      if got ≠ n then answer 7 (n - got) s
      else if sha256 os ≠ u.digest then answer 8 0 ((close .invalid s).updateLog 3 8 u.ts src 0)
      else match imageFail s.flash ty os with
        | some sub =>
          let s := if sub = 5 ∨ sub = 8 then s.authFailed else s
          answer 9 sub ((close .invalid s).updateLog 3 9 u.ts src sub)
        | none =>
          let s := s.modFlash fun f => f.setSlot ty k { st := .valid, octets := os }
          let s := (s.modUpd fun x => { x with cur := none }).raiseBy actWarden evUpdateStaged
          answer 0 0 (s.updateLog 2 0 u.ts src 0))

/-- 600 s without a block or an end from the owner (R767). -/
def execUpdateTimeout (s : State) : Host.Outcome State Fault Refusal :=
  match s.upd.cur with
  | none => .next s
  | some u => .next (if s.wardenRuns then s.whenAt (u.last + msCycles 600000) (·.abandonUpdate) else s)

/-! Taking effect (R776, R780, R784, R786). -/

/-- The substitution table after new entries: an entry whose slot holds an old package follows it, and entries whose old digest
no boot slot names go (R780). -/
def Flash.pruneSubst (f : Flash) : Flash := { f with subst := f.subst.filter fun e => f.bootNames e.1 }

def Flash.addSubst (d : BitVec 256) (k : BitVec 7) (f : Flash) : Flash :=
  let moved := f.subst.map fun e => if e.1 == d || (packageOf (f.slot 1 e.2.toNat).octets).digest == d then (e.1, k) else e
  { f with subst := if moved.any fun e => e.1 == d then moved else moved ++ [(d, k)] }

def Flash.writeSubst (es : List (BitVec 256 × BitVec 7)) (f : Flash) : Flash :=
  (es.foldl (fun f e => f.addSubst e.1 e.2) f).pruneSubst

/-- What a confirmed activation leaves in flash (R776, R780, R786). -/
def Activation.keep (a : Activation) (f : Flash) : Flash :=
  if a.type = 0 then { f with fwConfirmed := bit a.slot 0 }
  else if a.type = 1 then f.writeSubst a.subst
  else if a.boot then Flash.pruneSubst { f with fallback := f.bootSlot, bootSlot := a.slot.setWidth 3 }
  else f

def Activation.ts (a : Activation) : Word := tsWord a.type a.slot

/-- An activation takes effect: a trial starts, or it is kept at once (R776, R780, R784). -/
def State.activated (a : Activation) (s : State) : State :=
  let s := s.modUpd fun x => { x with lay := if a.type = 0 then x.lay else none, fw := if a.type = 0 then none else x.fw }
  let s := match a.trial with
    | some t => s.modUpd fun x => { x with trial := some { act := a, deadline := some (s.tb.clk.cycles + msCycles (1000 * t)) }, missed := false }
    | none => s.modFlash a.keep
  s.updateLog 4 0 a.ts a.src 0

/-! The end of a staging (04 R151), and the arming that follows it (R775). -/

/-- The largest cold pause of the plans. -/
def Plans.maxPause (p : Plans) : Nat := p.hewer.toList.foldl (fun m h => max m h.pause.toNat) 0

/-- Code of an activate command. -/
def UpdWait.code (w : UpdWait) : BitVec 12 := if w.target.isSome then 0x24 else 0x23

/-- The staged layout is armed, and the activate command answered (R775, R782). -/
def State.armActivation (w : UpdWait) (s : State) : State :=
  let (ok, s) := match w.target with
    | none => s.armWarden 0 true false s.nextStroke
    | some (loc, kind, t) => s.armWarden 0 kind (!loc) t
  let s := s.modUpd fun x => { x with wait := none, lay := if ok then some w.act else none }
  if ok then s.respond w.src w.tag w.code 0 [w.hewers.setWidth 20, BitVec.ofNat 20 s.plans.maxPause]
  else s.respond w.src w.tag w.code 15 [0, 0]

/-- STAGE_WRITE_COMPLETE (04 R151). -/
def execStageWriteComplete (s : State) : Host.Outcome State Fault Refusal :=
  match s.lay.staging with
  | none => .next s
  | some g =>
    if !s.wardenRuns then .next s
    else
      let s := s.stageDone g.layout
      let s := match g.reply with
        | some (src, tag) => s.respond src tag 0x10 0 []
        | none => s
      match s.upd.wait with
      | some w => .next (s.armActivation w)
      | none => .next s

/-! Activation (R771, R775, R777, R781-R783). -/

/-- PARAM (R762 STATUS 20). -/
def badActivate (ty flags timeout hewers : Nat) (now : Bool) : Bool :=
  decide (32 ≤ flags) || (flags % 2 == 1 && (timeout == 0 || decide (3600 < timeout))) || (flags / 2 % 2 == 1 && ty != 2)
    || (now && decide (4 ≤ flags)) || (hewers != 0 && ty != 1)

/-- A scheduled activation or a staging is pending (STATUS 1). -/
def State.activationBusy (s : State) : Bool :=
  s.stageBusy || s.tb.sched[(1 : Fin 16)].st == .pending || s.upd.fw.isSome

/-- The affected Hewers (R777). -/
def State.affected (s : State) (k : Nat) (hewers : BitVec 16) : BitVec 16 :=
  let new := packageOf (s.flash.slot 1 k).octets
  (List.range 16).foldl (fun m n =>
    setBit m n (s.lo.present n && (hewers == 0 || bit hewers n) && match s.flash.packageFor s.lo n with
      | some p => p.persId == new.persId && p.digest != new.digest
      | none => false)) 0#16

/-- The derived layout (R777, R778). -/
def deriveLayout (L : Layout) (p : Package) (hs : BitVec 16) : Layout :=
  { L with sections := L.sections.map fun x =>
      if x.type = 10 ∧ bit hs x.inst then
        { x with body := (bool 20 p.bothBanks) :: (List.range 13).map (pack256 p.digest) ++ x.body.drop 14 }
      else x }

/-- What both activate commands do. -/
def State.activate (src : CmdSource) (tag : BitVec 8) (code : BitVec 12) (ts flags timeout hewers : Word)
    (target : Option (Vector Word 4)) (s : State) : State :=
  let ty := tsType ts
  let k := tsSlot ts
  let answer (st : Nat) (s : State) : State := s.respond src tag code st [0, 0]
  let act : Activation :=
    { type := BitVec.ofNat 2 ty, slot := BitVec.ofNat 7 k, trial := if bit flags 0 then some timeout.toNat else none,
      boot := bit flags 1, subst := [], at_ := target.isSome, src := src }
  let loc := bit flags 3
  let kind := bit flags 4
  if badActivate ty flags.toNat timeout.toNat hewers.toNat target.isNone then answer 20 s
  else if s.upd.trial.isSome then answer 11 s
  else if s.activationBusy then answer 1 s
  else if s.flash.noSlot ty k then answer 2 s
  else if (s.flash.slot ty k).st ≠ .valid ∨ (ty = 0 ∧ bool 1 s.wdn.slot = BitVec.ofNat 1 k) then answer 10 s
  else if ty = 0 then
    match target with
    | none => answer 0 (s.modUpd fun x => { x with fw := some act })
    | some t =>
      let (ok, s) := s.armWarden 1 kind (!loc) t
      if ok then answer 0 (s.modUpd fun x => { x with fw := some act }) else answer 15 s
  else
    let tgt := target.map fun t => (loc, kind, t)
    let wait (a : Activation) (hs : BitVec 16) (s : State) : State :=
      s.modUpd fun x => { x with wait := some { act := a, src := src, tag := tag, hewers := hs, target := tgt } }
    if ty = 2 then
      let (r, s) := s.checkSlot k
      match r with
      | .inl e => (s.stageRefused (BitVec.ofNat 3 k) e).respond src tag code 14 [BitVec.ofNat 20 e.code, 0]
      | .inr L => wait act 0 (s.beginWrite (BitVec.ofNat 3 k) L none)
    else
      let hs := s.affected k hewers.toNat
      let p := packageOf (s.flash.slot 1 k).octets
      let es : List (BitVec 256 × BitVec 7) :=
        ((List.range 16).filterMap fun n => if bit hs n then some (s.lo.pkgDigest n, BitVec.ofNat 7 k) else none)
      if hs = 0 then answer 16 s
      else if 16 < (s.flash.writeSubst es).subst.length then answer 17 s
      else
        let L := deriveLayout s.lo p hs
        let (e, s) := s.checkLayout L.placed L
        match e with
        | some e => (s.stageRefused s.lay.slot e).respond src tag code 14 [BitVec.ofNat 20 e.code, 0]
        | none => wait { act with subst := es } hs (s.beginWrite s.lay.slot L none)

/-- UPDATE_ACTIVATE (R771, R775, R777). -/
def execUpdateActivate (src : CmdSource) (tag : BitVec 8) (typeSlot flags timeout hewers : Word) (s : State) :
    Host.Outcome State Fault Refusal :=
  .next (s.command src tag 0x23 (·.activate src tag 0x23 typeSlot flags timeout hewers none))

/-- CANCEL of a scheduled activation (R783): no event. -/
def State.cancelActivation (src : CmdSource) (tag : BitVec 8) (ts flags : Word) (s : State) : State :=
  let answer (st : Nat) (s : State) : State := s.respond src tag 0x24 st [0, 0]
  if 32 ≤ flags.toNat ∨ (bit flags 1 ∧ tsType ts ≠ 2) then answer 20 s
  else if s.upd.trial.isSome then answer 11 s
  else
    let s : State := match s.upd.lay with
      | some a => if a.at_ && s.tb.sched[(0 : Fin 16)].st == .pending then (s.cancelSched 0).modUpd fun x => { x with lay := none } else s
      | none => s
    let s : State := match s.upd.fw with
      | some a => if a.at_ && s.tb.sched[(1 : Fin 16)].st == .pending then (s.cancelSched 1).modUpd fun x => { x with fw := none } else s
      | none => s
    answer 0 s

/-- UPDATE_ACTIVATE_AT (R781, R782). -/
def execUpdateActivateAt (src : CmdSource) (tag : BitVec 8) (typeSlot flags timeout hewers : Word) (target : Vector Word 4)
    (s : State) : Host.Outcome State Fault Refusal :=
  .next (s.command src tag 0x24 fun s =>
    if bit flags 2 then s.cancelActivation src tag typeSlot flags
    else s.activate src tag 0x24 typeSlot flags timeout hewers (some target))

def execUpdateActivateCancel (src : CmdSource) (tag : BitVec 8) (typeSlot flags : Word) (s : State) :
    Host.Outcome State Fault Refusal :=
  .next (s.command src tag 0x24 (·.cancelActivation src tag typeSlot flags))

/-! Trials (R784-R788). -/

/-- UPDATE_CONFIRM (R786): judged by the moment it is read. -/
def execUpdateConfirm (src : CmdSource) (tag : BitVec 8) (s : State) : Host.Outcome State Fault Refusal :=
  .next (s.command src tag 0x25 fun s =>
    match s.upd.trial with
    | none => s.respond src tag 0x25 (if s.upd.missed then 13 else 12) []
    | some t =>
      if (t.deadline.map fun d => decide (d < s.tb.clk.cycles)).getD false then s.respond src tag 0x25 13 []
      else
        let s := (s.modFlash t.act.keep).modUpd fun x => { x with trial := none }
        (s.updateLog 5 0 t.act.ts src 0).respond src tag 0x25 0 [])

/-- The trial ends reverted (R787, R773). -/
def State.trialReverted (t : Trial) (s : State) : State :=
  (s.modUpd fun x => { x with trial := none, reverted := true }).updateLog 6 0 t.act.ts t.act.src 0

/-- The firmware activation that goes back to the confirmed slot (R787). -/
def State.revertFirmware (s : State) : Activation :=
  { type := 0, slot := if s.flash.fwConfirmed then 1 else 0, trial := none, boot := false, subst := [], at_ := false, src := .svp }

/-- TRIAL_DEADLINE (R787): a layout or personality waits for a Warden that runs. -/
def execTrialDeadline (s : State) : Host.Outcome State Fault Refusal :=
  match s.upd.trial with
  | none => .next s
  | some t =>
    match t.deadline with
    | none => .next s
    | some d =>
      .next (s.whenAt d fun s =>
        if t.act.type = 0 then
          let s := s.trialReverted t
          s.modUpd fun x => { x with missed := true, fw := some s.revertFirmware }
        else if s.wardenRuns then
          let s := (s.trialReverted t).modUpd fun x => { x with missed := true }
          (s.armWarden 0 true false s.nextStroke).2
        else s)

/-! The firmware image started (19 R692-R694) and the firmware switch (R771-R774). -/

/-- The Warden's core and I/O words as an image finds them (R694). -/
def Wdn.start (slot : Bool) (x : Firmware) (w : Wdn) : Wdn :=
  { w with
    eng := { Eng.reset with core := { Core.reset with w := vset (Vector.replicate 16 0) 14 0x1C000, pc := x.entry } },
    ram := memWriteRun 0 (memClear w.ram 0 0x1C000) 0 x.image, journal := [], relq := [], late := [], mode := .run, slot := slot,
    stPass := true, age := 0, ageOn := false, apage := 0, swapRes := 0, faddr := 0, fbuf := Vector.replicate 16 0,
    codeWords := x.code, codeDigest := sha256 (octets3 (x.image.take x.code)), version := x.version, why := none }

/-- The image of a firmware slot, when the slot is VALID and its image verifies (R691). -/
def Flash.firmware (f : Flash) (slot : Bool) : Option Firmware :=
  let x := f.slot 0 (if slot then 1 else 0)
  if x.st = .valid ∧ (firmwareFail f x.octets).isNone then some (firmwareOf x.octets) else none

/-- A failing comparator group at start-up (R693). -/
def State.selfTestFailed (g : Fin 48) (s : State) : State :=
  (s.modWdn fun w => { w with mode := .held, stPass := false, stGroup := BitVec.ofNat 6 g.val }).modPwr fun p => { p with faultN := true }

/-- What the Warden holds besides Chutes and its port (R704, R771). -/
def State.freeHolds (s : State) : State :=
  let s := s.orphanSems 16
  let s := (List.finRange 3).foldl (fun s b => if s.lo.twbOwnerCode b = 16 then s.twbOwnerLoss b else s) s
  s.modWdn fun w => { w with flocked := false }

/-- The entries up to the newest mark, and those behind it. -/
def splitMark (q : List REntry) : List REntry × List REntry :=
  let behind := q.reverse.takeWhile fun e => e != REntry.mark
  (q.take (q.length - behind.length), behind.reverse)

/-- A VALID firmware slot's image fails at its signature alone (R691; 20 R737). -/
def Flash.badSignature (f : Flash) (slot : Bool) : Bool :=
  let x := f.slot 0 (if slot then 1 else 0)
  x.st == .valid && firmwareFail f x.octets == some 5

/-- The ROM loads a firmware slot; AUTH_FAIL is raised where the signature fails (20 R738). -/
def State.romLoad (slot : Bool) (s : State) : Option Firmware × State :=
  (s.flash.firmware slot, if s.flash.badSignature slot then s.authFail else s)

/-- A response waits for its release. -/
def Wdn.responding (w : Wdn) : Bool := (w.relq ++ w.late).any fun e => match e with
  | .response _ _ => true
  | _ => false

/-- An image starts in a firmware switch: what had left the Warden goes on leaving (06 R275), and the step queue is read again (02 R53). -/
def State.switched (slot : Bool) (x : Firmware) (s : State) : State :=
  (s.modWdn fun w => { w.start slot x with relq := w.relq }).logSteps

/-- The switch to the slot of an activation (R771-R773): the release queue keeps what lies ahead of its newest mark. -/
def State.switchFirmware (test : Option (Fin 48)) (a : Activation) (s : State) : State :=
  let s := (s.freeHolds.stageBroken).modWdn fun w => { w with relq := (splitMark w.relq).1, late := [], journal := [] }
  match test with
  | some g => s.selfTestFailed g
  | none =>
    let slot := bit a.slot 0
    let (new, s) := s.romLoad slot
    match new with
    | some x => (s.switched slot x).activated a
    | none =>
      let s := s.modFlash (·.mark 0 (if slot then 1 else 0) .invalid)
      let s := s.modUpd fun x => { x with fw := none, reverted := x.reverted || a.trial.isSome }
      let c := s.flash.fwConfirmed
      let (old, s) := s.romLoad c
      match old with
      | some x => (s.switched c x).updateLog 6 0 a.ts a.src 0
      | none => s.modWdn fun w => { w with mode := .boot }

/-- FIRMWARE_SWITCH: commanded, scheduled, or back to the confirmed slot after a missed deadline. It waits for responses and a
staging (R771), except when the security island forces it. -/
def execFirmwareSwitch (test : Option (Fin 48)) (s : State) : Host.Outcome State Fault Refusal :=
  match s.upd.fw with
  | none => .next s
  | some a =>
    let forced := s.upd.missed && a.trial.isNone && !a.at_ && (bit a.slot 0 == s.flash.fwConfirmed)
    let due := !a.at_ || s.tb.sched[(1 : Fin 16)].st == .fired
    let ready := s.wardenRuns && !s.wdn.responding && s.lay.staging.isNone
    let up := s.wdn.mode == .run && s.pwr.held.isNone && !s.pwr.off
    .next (if due && (ready || (forced && up)) then s.switchFirmware test a else s)

/-! The service port (19 R718-R723; R768-R770). -/

/-- A session message arrives and is read by the Warden. -/
def State.svpMessage (f : State → State) (s : State) : State :=
  if s.wardenRuns && s.wdn.svpConf then f ((s.modUpd fun x => { x with sessLast := s.tb.clk.cycles }).wsrc 7) else s

/-- The session closes: its open update is abandoned (R767, R770). -/
def State.closeSession (s : State) : State :=
  if s.wdn.session then
    let s := s.modWdn fun w => { w with session := false }
    let s := match s.upd.cur with
      | some u => if u.src == CmdSource.svp then s.abandonUpdate else s
      | none => s
    s.updateLog 9 0 0x300 .svp 0
  else s

/-- CHALLENGE_REQ (R768). -/
def execChallengeReq (s : State) : Host.Outcome State Fault Refusal :=
  .next (s.svpMessage fun s =>
    if !s.sec.ok then s.relPush (.message 0x04 (9 :: List.replicate 7 0))
    else
      let v := s.freeVal 128
      let s := s.drawn.modSec fun x => { x with svpNonce := some (v, s.tb.clk.cycles), calls := x.calls + 1 }
      s.relPush (.message 0x04 (0 :: (List.range 7).map (nonceWord v))))

/-- OPEN (R768). -/
def execOpenSession (words : List Word) (s : State) : Host.Outcome State Fault Refusal :=
  if words.length ≠ 42 then .next s
  else
    .next (s.svpMessage fun s =>
      let r := (s.statementFail s.sec.svpLock (s.nonceHeld s.sec.svpNonce) 0x47A63 0 0 words (words.drop 16)).getD 0
      let s := s.modSec fun x => { x with svpNonce := none, svpLock := x.svpLock.after r s.tb.clk.cycles }
      let s := if r = 4 then s.authFailed else s
      let s := if r = 0 then
          ((s.modWdn fun w => { w with session := true }).modUpd fun x => { x with sbuf := [] }).updateLog 8 0 0x300 .svp 0
        else s.updateLog 10 r 0x300 .svp 0
      s.relPush (.message 0x06 [BitVec.ofNat 20 r]))

/-- Octets packed into words as R359 packs them: string bit k is bit k mod 20 of word k / 20. -/
def octetsOf (ws : List Word) (n : Nat) : List Octet :=
  let x := ws.foldr (fun w acc => acc * 2 ^ 20 + w.toNat) 0
  (List.range n).map fun j => BitVec.ofNat 8 (x / 2 ^ (8 * j))

/-- DATA (R769). -/
def execDataMessage (words : List Word) (s : State) : Host.Outcome State Fault Refusal :=
  .next (s.svpMessage fun s =>
    let off := fldN (words.getD 0 0) 0 12
    let count := fldN (words.getD 1 0) 0 13
    if !s.wdn.session ∨ 4096 < off + count ∨ count = 0 ∨ 2048 < count ∨ words.length ≠ 2 + ceilDiv (8 * count) 20 then s
    else s.modUpd fun x => { x with sbuf := memWriteRun 0 x.sbuf off (octetsOf (words.drop 2) count) })

/-- CLOSE (R770). -/
def execCloseSession (s : State) : Host.Outcome State Fault Refusal := .next (s.svpMessage (·.closeSession))

/-- A USB bus reset or a detach (19 R722): responses not yet sent are dropped. -/
def execUsbBusReset (s : State) : Host.Outcome State Fault Refusal :=
  let kept (e : REntry) : Bool := match e with
    | .response .svp _ => false
    | .message _ _ => false
    | _ => true
  .next (s.closeSession.modWdn fun w => { w with svpConf := false, relq := w.relq.filter kept, late := w.late.filter kept })

/-- 300 s without a message (R770). -/
def execSessionTimeout (s : State) : Host.Outcome State Fault Refusal :=
  .next (if s.wdn.session && s.wardenRuns then s.whenAt (s.upd.sessLast + msCycles 300000) (·.closeSession) else s)

/-- The port is attached and configured by its USB host, unless a fuse disables it (19 R718, R723); its island is 53. -/
def execServicePortAttach (s : State) : Host.Outcome State Fault Refusal :=
  .next (if s.flash.svpOff ∨ !s.islandOn 53 ∨ s.pwr.held.isSome ∨ s.pwr.off then s else s.modWdn fun w => { w with svpConf := true })

end Sys2Proof.Machine
end

