-- ==== Sys2Proof/Machine/Warden.lean ====
section
/-! DEFINITION. Management restarts and MGMT_DOWN (19 R684-R704, 06 R274-R279). -/

namespace Sys2Proof.Machine

/-! The release queue and the journal. -/

/-- A discarded entry that the firmware makes again once it has resumed, as the command it belongs to resumes and completes (19
R700; log 31). TIME_STEP records are made again from the step queue (02 R54). -/
def REntry.again : REntry → Bool
  | .write _ _ => false
  | .consume _ => false
  | .log t _ _ _ _ => t != 2
  | .mark => false
  | _ => true

/-- One journal entry undone. Core I/O words that hold state of other units than the vectors are APAGE and CKPT_LIMIT. -/
def Wdn.undo (w : Wdn) (j : JEntry) : Wdn :=
  match j with
  | .ram a old => { w with ram := memWrite 0 w.ram a.toNat old }
  | .cause c a => { w with eng := { w.eng with vec := { w.eng.vec with xcause := c, xaddr := a } } }
  | .pend v => { w with eng := { w.eng with vec := w.eng.vec.pend v.val } }
  | .io a old =>
    let i := a.toNat - 0xF0000
    let vec (f : Vectors → Vectors) : Wdn := { w with eng := { w.eng with vec := f w.eng.vec } }
    if i = 0 then vec fun v => { v with vbase := old }
    else if i = 1 then vec fun v => { v with ien := (fld v.ien 20 12 ++ old : BitVec 32) }
    else if i = 2 then vec fun v => { v with ien := (fld old 0 12 ++ fld v.ien 0 20 : BitVec 32) }
    else if 8 ≤ i ∧ i < 0x18 then vec fun v => { v with lsrc := vset v.lsrc (ix 16 (i - 8)) (fld old 0 6) }
    else if i = 0x1D then vec fun v => { v with xbase := old }
    else if i = 0x20 then { w with apage := fld old 0 4 }
    else if i = 0x22 then { w with limit := fld old 0 7 }
    else w

/-- The journal rolled back, newest entry first; its list holds the newest first (19, step table). -/
def Wdn.rollBack (w : Wdn) : Wdn := { w.journal.foldl Wdn.undo w with journal := [] }

/-! MGMT_DOWN (R702-R704). -/

/-- The down record in retention RAM (R703). -/
def downWords (cause : BitVec 4) (t : BitVec 80) (count : BitVec 8) : List Word :=
  [0x47A50, cause.setWidth 20, word80 t 0, word80 t 1, word80 t 2, word80 t 3, count.setWidth 20]

/-- Frames queued at the Warden port are freed (R704). -/
def State.freeWardenPort (s : State) : State :=
  let s := (List.finRange 8).foldl (fun s t => (s.lnd.queue[portQ 7 t]).foldl (fun s id => s.leave (portQ 7 t) id) s) s
  (s.modLnd fun l => { l with toWarden := none }).reap

/-- The Warden goes down (R702-R704, 21 R770). -/
def State.mgmtDown (cause : BitVec 4) (s : State) : State :=
  let s := s.losing .warden fun s => s.modWdn fun w => { w with mode := .down, why := none }
  let s := s.raise evMgmtDown
  let s := s.modPwr fun p => { p with faultN := true }
  let s := s.stageBroken
  let s := s.modWdn fun w =>
    { w with ram := memWriteRun 0 w.ram 0x1FFF0 (downWords cause s.time w.restart.count), relq := (splitMark w.relq).1, late := [] }
  let s := (s.freeHolds.abandonFrame .warden).freeWardenPort
  s.closeSession

/-! Management restarts (R685, R686, R696-R701). -/

/-- A restart begins (19, step table, t = 0). The third counting restart within 1,000 ms is MGMT_DOWN (R698). -/
def State.restart (cause : BitVec 4) (group : BitVec 6) (s : State) : State :=
  if s.wdn.mode ≠ .run then s
  else
    let now := s.tb.clk.cycles
    let recent := s.wdn.restart.recent.filter fun k => decide (now < k + msCycles 1000)
    let s : State := { s with hw := s.hw.map (·.dropDbg) }
    let s := s.modWdn fun w =>
      { w with eng := w.eng.still,
               restart := { w.restart with recent := now :: recent }, why := some (cause, group) }
    if 2 ≤ recent.length then (s.modWdn Wdn.rollBack).mgmtDown cause
    else
      let s := s.modWdn fun w => { w.rollBack with mode := .restart }
      let s := s.stageInterrupted
      s.modWdn fun w =>
        let (ahead, behind) := splitMark w.relq
        { w with relq := ahead, late := (behind ++ w.late).filter (·.again) }

/-- The engine at the instruction after the last CKPT (06 R276). -/
def Wdn.restored (w : Wdn) : Wdn :=
  let c := w.ckpt[w.done]
  { w with eng := { w.eng.still with core := { Core.reset with w := c.w, pc := c.next, fl := c.fl, ie := c.ie, lvl := c.lvl } } }

def execComparatorFlag (g : Fin 48) (s : State) : Host.Outcome State Fault Refusal :=
  .next (if s.wardenRuns then (s.raise evLockstepMismatch).restart 1 (BitVec.ofNat 6 g.val) else s)

def execWardenRamEcc (_addr : BitVec 17) (fixable : Bool) (s : State) : Host.Outcome State Fault Refusal :=
  .next (if s.pwr.held.isSome ∨ s.pwr.off then s
    else if fixable then s.raise evMemEccFix
    else (s.raise evMemEccFail).restart 4 0)

/-- The Warden has executed LIMIT ms, at 250,000 cycles each, since its last CKPT (R696). -/
def execCkptLimitExpiry (s : State) : Host.Outcome State Fault Refusal :=
  .next (if s.wardenRuns && s.wdn.ageOn && decide (250000 * s.wdn.limit.toNat ≤ s.wdn.age) then s.restart 5 0 else s)

/-- The Warden resumes: what its commands in execution had queued behind the mark is queued again, then come the TIME_STEP records
not yet released (02 R54) and MGMT_RESTART, WDN.RESTART and its log record (R697, R699-R701). -/
def State.resumed (s : State) : State :=
  let (cause, group) := s.wdn.why.getD (0, 0)
  let s := s.modWdn fun w =>
    { w.restored.pump with
      mode := .run, stPass := true, age := 0, why := none,
      restart := { w.restart with count := satInc w.restart.count, cause := cause,
                                  group := if cause = 1 then group else w.restart.group } }
  let s := s.stageResumed.logSteps.raise evMgmtRestart
  let k := s.tb.stroke.count
  s.logRec 3 cause.toNat [s.wdn.restart.count.setWidth 20, group.setWidth 20, fld k 0 20, fld k 20 20]

/-- MANAGEMENT_RESTART_RESUME: a comparator test, a code digest or a journal that fails is MGMT_DOWN (R699). -/
def execManagementRestartResume (test : Option (Fin 48)) (digestOk journalOk : Bool) (s : State) : Host.Outcome State Fault Refusal :=
  if s.wdn.mode ≠ .restart ∨ s.pwr.held.isSome ∨ s.pwr.off then .next s
  else
    let cause := (s.wdn.why.map (·.1)).getD 0
    match test with
    | some g => .next ((s.modWdn fun w => { w with stPass := false, stGroup := BitVec.ofNat 6 g.val }).mgmtDown cause)
    | none => .next (if digestOk && journalOk then s.resumed else s.mgmtDown cause)

end Sys2Proof.Machine
end

