-- ==== Sys2Proof/Machine/StrokeEnd.lean ====
section
/-! DEFINITION. Phases of a stroke (02 R38, R39), what a stroke's end performs first (R58) and step 1 of a boundary
(03 R106, R107, R123). -/

namespace Sys2Proof.Machine

/-- A phase begins: local source 5, 6 or 7 of every Hewer (05, LSRC table). -/
def State.beginPhase (p : Fin 3) (s : State) : State :=
  (s.modTb fun t => { t with stroke := { t.stroke with phases := vset t.stroke.phases p true } }).lsrcAll (ix 16 (5 + p.val))

/-- Core cycles of stroke-relative time at which a phase begins. -/
def Layout.phaseCycle (L : Layout) (p : Fin 3) : Nat := 4 * (L.phaseAt p).toNat

def execPhaseStart (p : Fin 3) (s : State) : Host.Outcome State Fault Refusal :=
  let k := s.tb.stroke.cyc0 + s.lo.phaseCycle p
  .next (if s.tb.stroke.running && !s.tb.stroke.phases[p] && s.beforeEnd k then (s.runToCycle k).beginPhase p else s)

/-- A number put into a rising list without repeats. -/
def insertUp (x : Nat) : List Nat → List Nat
  | [] => [x]
  | y :: ys => if x < y then x :: y :: ys else if x = y then y :: ys else y :: insertUp x ys

/-- Every phase boundary and settle point not yet reached, in stroke-relative order (R58); of a phase boundary and a settle point
at one time, the phase boundary first (DESIGN CHOICE, log 161). -/
def State.catchUp (s : State) : State :=
  let ps := (List.finRange 3).filter fun p => !s.tb.stroke.phases[p]
  let gs := s.unsettled
  let L := s.lo
  let times := gs.foldl (fun ts r => insertUp (4 * L.settleAt r) ts) (ps.foldl (fun ts p => insertUp (L.phaseCycle p) ts) [])
  times.foldl (fun s t =>
    let s := (ps.filter fun p => L.phaseCycle p == t).foldl (fun s p => s.beginPhase p) s
    match gs.filter fun r => 4 * L.settleAt r == t with
    | [] => s
    | rs => s.settle rs 0) s

/-- An activity overruns (R106): its SBU bit, its counter, BUDGET_OVERRUN. -/
def State.overrunAct (a : ActId) (s : State) : State :=
  let c := s.sbu.cnt[a].ovr
  let s := (s.modAct a fun x => { x with overrun := true }).modSbu fun b => { b with cnt := vmod b.cnt a fun x => { x with ovr := satInc x.ovr } }
  (s.satEvent c 1).raise evBudgetOverrun

/-- A Hewer in these states raises no BUDGET_OVERRUN (05 R213). -/
def HewerState.idle (st : HewerState) : Bool :=
  st == .halted || st == .faulted || st == .loading || st == .stopped || st == .absent

/-- Activity `a` is an engine or flight that owes a YIELD at the stroke's end (R106, R107, R123; 05 R213; 15 R573). -/
def State.owesYield (s : State) (a : ActId) : Bool :=
  s.lo.present a.val && s.lo.yieldReq a.val &&
    (if a.val < 16 then !s.sbu.act[a].yielded && !(s.hw[(ix 16 a.val)].st).idle
     else if a.val < 20 then !s.flightYielded (ix 4 (a.val - 16))
     else a.val == 29 && !s.sbu.act[a].yielded && s.wdn.mode != .restart)

/-- Step 1 of R20. -/
def State.overruns (s : State) : State :=
  (List.finRange 64).foldl (fun t a => if s.owesYield a then t.overrunAct a else t) s

/-- The running stroke ends: time reaches the boundary, what was not reached is performed, and step 1 follows; no stroke ends
at the boundary that begins the first one (R868). -/
def State.endStroke (s : State) : State :=
  match s.tb.stroke.ends with
  | none => s
  | some e =>
    let s := s.runTo e
    if s.tb.stroke.running then s.catchUp.billStalls.overruns else s

end Sys2Proof.Machine
end

