-- ==== Sys2Proof/Machine/Power.lean ====
section
/-! DEFINITION. Supply, clocks, C, W and D resets, start-up, power states, the sensor hub and the controlled stop (22; 19
R692-R694, R705, R706). -/

namespace Sys2Proof.Machine

/-! Resets that hold the whole device (R813-R815). -/

/-- Slots found RECEIVING become INVALID (21 R767); the log goes on from the larger of the highest valid SEQ plus 1 and the
high-water mark plus 4,096 (19 R709). -/
def Flash.afterReset (f : Flash) : Flash :=
  let top := f.log.foldl (fun m e => if recordOk e.2 then max m (recordSeq e.2 + 1) else m) 0
  { f with slots := f.slots.map fun e => if e.2.st = .receiving then (e.1, { e.2 with st := .invalid }) else e,
           seq := BitVec.ofNat 40 (max top (f.hwm.toNat + 4096)), wraps := 0 }

/-- What the AON island, the retention RAM, flash and the strap keep; every other item takes its reset value (R815). -/
def State.kept (k : ResetKind) (s : State) : State :=
  let r := { State.reset with pending := s.pending, flash := s.flash, free := s.free, rd := s.rd, sent := s.sent }
  let p := { Pwr.reset with cause := s.pwr.cause, rail := s.pwr.rail, held := some k, off := s.pwr.off, deep := s.pwr.deep,
                            clockHold := s.pwr.clockHold }
  let r := { r with pins := { r.pins with unfed := s.pins.unfed } }
  if k = .C then { r with pwr := p }
  else
    let p := { p with wakeCause := s.pwr.wakeCause, alarm := s.pwr.alarm, alarmOn := s.pwr.alarmOn, stops := s.pwr.stops,
                      wakeCfg := if k = .D then s.pwr.wakeCfg else 1 }
    { r with
      pwr := p,
      tb := { r.tb with clk := { r.tb.clk with aon := s.tb.clk.aon, aonSub := s.tb.clk.aonSub }.fromAon },
      wdn := { r.wdn with ram := memClear s.wdn.ram 0 0x1C000, ckpt := s.wdn.ckpt, done := s.wdn.done },
      host := { r.host with hsel := s.host.hsel } }

/-- A C, W or D reset is taken (R813, R814): the whole device is held until its release. -/
def State.deviceReset (k : ResetKind) (cause rail : BitVec 4) (s : State) : State :=
  let s := s.kept k
  { s with flash := s.flash.afterReset, pwr := { s.pwr with cause := cause, rail := rail } }

/-- A W or D reset has no effect while a C reset holds the device (R813). -/
def State.lesserReset (k : ResetKind) (cause : BitVec 4) (s : State) : State :=
  if s.pwr.off ∨ s.pwr.held = some .C then s else s.deviceReset k cause 0

/-- VIN rises through 4.4 V: the device leaves Off and starts; the recorded cause stays that of the reset (R795, R814). -/
def execPowerOn (s : State) : Host.Outcome State Fault Refusal :=
  .next (if s.pwr.held = some .C ∧ (!s.pwr.off ∨ s.pwr.cause = 1 ∨ s.pwr.cause = 2) then
      let s := s.deviceReset .C s.pwr.cause s.pwr.rail
      s.modPwr fun p => { p with off := false }
    else s)

/-- The device is Off until its way out: VIN through 4.4 V, or a recovery. -/
def State.goOff (cause : BitVec 4) (s : State) : State :=
  if s.pwr.off then s else (s.deviceReset .C cause 0).modPwr fun p => { p with off := true, deep := false, clockHold := false }

def execBrownout (s : State) : Host.Outcome State Fault Refusal := .next (s.goOff 2)
def execOvervoltage (s : State) : Host.Outcome State Fault Refusal := .next (s.goOff 4)
def execThermalTrip (s : State) : Host.Outcome State Fault Refusal := .next (s.goOff 5)

/-- The device leaves Off, with its C reset still to be released. -/
def State.backFrom (cause : BitVec 4) (s : State) : State :=
  if s.pwr.off ∧ s.pwr.cause = cause then s.modPwr fun p => { p with off := false } else s

def execOvervoltageRecovery (s : State) : Host.Outcome State Fault Refusal := .next (s.backFrom 4)
def execThermalTripRecovery (s : State) : Host.Outcome State Fault Refusal := .next (s.backFrom 5)

/-- RAIL_RESET (R792): rails 0 to 7. In Off the rails are down. -/
def execRailReset (r : Fin 8) (s : State) : Host.Outcome State Fault Refusal :=
  .next (if s.pwr.off then s
    else (s.deviceReset .C 3 (BitVec.ofNat 4 r.val)).modPwr fun p => { p with deep := false, clockHold := false })

/-- CLOCK_HOLD (R796). -/
def execClockHold (s : State) : Host.Outcome State Fault Refusal :=
  .next (if s.pwr.off ∨ s.pwr.held = some .C then s
    else (s.deviceReset .W 8 0).modPwr fun p => { p with clockHold := true, deep := false })

def execClockHoldRelease (s : State) : Host.Outcome State Fault Refusal :=
  .next (s.modPwr fun p => { p with clockHold := false })

/-- A low on RESET_N (R812): ignored below 200 ns, a W reset from 1 µs on; between, the manual leaves it open (log 5). -/
def execResetN (ns : Nat) (s : State) : Host.Outcome State Fault Refusal :=
  let go (s : State) : State := (s.lesserReset .W 6).modPwr fun p => { p with deep := false }
  .next (if ns < 200 then s
    else if 1000 ≤ ns then go s
    else if s.freeVal 1 = 1 then go s.drawn else s.drawn)

/-- 10 µs after a SYSTEM_RESET's response is released (19 R717). -/
def execSystemResetTimer (s : State) : Host.Outcome State Fault Refusal :=
  match s.pwr.resetAt with
  | none => .next s
  | some k => .next (s.whenAt k (·.lesserReset .W 7))

/-! Release and start-up (R816-R818; 19 R692-R694). -/

/-- Islands powered when a reset is released: those always claimed or marked, and the strapped host interface and the service
port, which R156 needs. -/
def startIslands (hsel : BitVec 2) : BitVec 56 :=
  let m := setBit bootIslands 53 true
  if hsel = 0 then setBit m 51 true else if hsel = 3 then m else setBit m 52 true

/-- RESET_RELEASE: `test` is the comparator group that fails to flag, if any; `aonAgo` the nominal core cycles that the AON
timekeeper has counted since the reset. -/
def State.startFrom (k : ResetKind) (hsel : BitVec 2) (test : Option (Fin 48)) (aonAgo : Nat) (s : State) : State :=
  let s := s.kept k
  let h := if k = .D then s.host.hsel else hsel
  let s := s.modClk fun c => if k = .C then c else (c.aonRun aonAgo).fromAon
  let s := s.modHost fun x => { x with hsel := h, resetting := h != 3, linkWait := h == 0 }
  let s := s.modPwr fun p => { p with held := none, islOn := startIslands h }
  match test with
  | some g => s.selfTestFailed g
  | none => (s.modWdn fun w => { w with stPass := true }).modPwr fun p => { p with faultN := false }

def execResetRelease (hsel : BitVec 2) (test : Option (Fin 48)) (aonAgo : Nat) (s : State) : Host.Outcome State Fault Refusal :=
  match s.pwr.held with
  | none => .next s
  | some k => .next (if s.pwr.off ∨ s.pwr.deep ∨ s.pwr.clockHold then s else s.startFrom k hsel test aonAgo)

/-- The down record found at a start is logged and cleared (19 R703). -/
def State.logDown (s : State) : State :=
  let w (i : Nat) : Word := memRead 0 s.wdn.ram (0x1FFF0 + i)
  if w 0 = 0x47A50 then
    (s.logRec 4 (w 1).toNat [w 2, w 3, w 4, w 5, w 6]).modWdn fun x => x.setRam 0x1FFF0 0
  else s

/-- The Warden vectors of an event that the shipped firmware sets (24 R863, column W). -/
def shippedVectors (e : Nat) : BitVec 32 :=
  if 123 ≤ e ∧ e ≤ 125 then 1
  else if e = 2 ∨ e = 3 ∨ (120 ≤ e ∧ e ≤ 122) then 2
  else if (16 ≤ e ∧ e ≤ 31) ∨ e = 38 then 4
  else if e = 14 ∨ e = 15 then 8
  else if e = 117 ∨ e = 118 then 16
  else if e = 112 then 32
  else 0

/-- The firmware sets them before it reads its first command, and no other part of a route (24 R863; log 52). -/
def State.shippedRoutes (s : State) : State :=
  s.modEvt fun x => { x with route := Vector.ofFn fun e => { x.route[e] with wdn := shippedVectors e.val } }

/-- The ROM has loaded the confirmed slot's image (19 R694, 21 R788); an image that it refuses leaves it in BOOT. -/
def execRomLoadComplete (s : State) : Host.Outcome State Fault Refusal :=
  if s.wdn.mode ≠ .boot ∨ !s.powered then .next s
  else
    let c := s.flash.fwConfirmed
    let (image, s) := s.romLoad c
    match image with
    | some x => .next (s.modWdn (·.start c x)).shippedRoutes.logDown.logSteps
    | none => .next s

/-! Clocks (R797, R798). -/

/-- SENSORS record (19 R706, R707). -/
def Sensors.temps (x : Sensors) : List Int := x.temp.toList.map (·.toInt)
def Sensors.high (x : Sensors) : Int := x.temps.foldl max (-2048)
def Sensors.low (x : Sensors) : Int := x.temps.foldl min 2047
def Sensors.faults (x : Sensors) : BitVec 12 := (List.finRange 12).foldl (fun m i => setBit m i.val x.rail[i].fault) 0

def State.sensorsLog (ev : Nat) (s : State) : State :=
  let x := s.wdn.sens
  let s := s.modWdn fun w => { w with sens := { w.sens with logged := s.tb.clk.cycles } }
  s.logRec 9 ev [BitVec.ofInt 20 x.high, BitVec.ofInt 20 x.low, x.vin.setWidth 20, x.iin.setWidth 20, x.faults.setWidth 20,
    fld x.clk 0 20, BitVec.ofNat 20 (x.temps.findIdx (· == x.high))]

/-- CLOCK_FAULT and its record. -/
def State.clockFault (s : State) : State := (s.raise evClockFault).sensorsLog 125

def State.clkOk (i : Nat) (b : Bool) (s : State) : State :=
  s.modWdn fun w => { w with sens := { w.sens with clkOk := setBit w.sens.clkOk i b } }

/-- PLL_B_UNLOCK (R797). -/
def execPllBUnlock (s : State) : Host.Outcome State Fault Refusal :=
  if !s.powered ∨ !s.pwr.pllB then .next s
  else
    let s := ((s.modPwr fun p => { p with pllB := false }).clkOk 1 false).clockFault
    let s := (List.finRange 6).foldl (fun s p => s.linkRestart p) s
    .next ((List.finRange 4).foldl (fun s c => s.modCan c fun x => { x with joined := false }) s)

/-- PLL_B_LOCK (R797): the links' procedures start again; CAN takes part after R521's recessive bits. -/
def execPllBLock (s : State) : Host.Outcome State Fault Refusal :=
  if !s.powered ∨ s.pwr.pllB then .next s
  else
    let s := (s.modPwr fun p => { p with pllB := true }).clkOk 1 true
    .next ((List.finRange 6).foldl (fun s p => s.linkRestart p) s)

/-- PCIE_REFCLK_LOSS (R798). -/
def execPcieRefclkLoss (s : State) : Host.Outcome State Fault Refusal :=
  if !s.powered then .next s
  else
    let s := (s.clkOk 3 false).clockFault
    .next (if s.host.hsel = 0 then
      s.hostReset.modHost fun h => { h with linkWait := true, linkUp := false, linkSpeed := 0, linkWidth := 0 } else s)

/-! Power states (R804-R811). -/

/-- A request to enter Drowse or Deep is refused with BUSY (R804). -/
def State.restBusy (s : State) : Bool :=
  s.tb.sched[(0 : Fin 16)].st == .pending || s.tb.sched[(1 : Fin 16)].st == .pending || s.lay.staging.isSome || s.upd.cur.isSome
    || s.upd.trial.isSome || s.pwr.stop || s.pwr.cur != .run

def State.stateResult (r : BitVec 3) (s : State) : State := s.modPwr fun p => { p with stateRes := p.stateRes.put r }

/-- PWR.STATE_REQ.REQ (R804, R805, R811). -/
def State.restRequest (deep : Bool) (s : State) : State :=
  if s.restBusy then s.stateResult 1
  else if deep && fld s.pwr.wakeCfg 0 2 == 0 then s.stateResult 2
  else s.modPwr fun p => { p with req := some deep, cur := .entering }

def execDrowseRequest (a : Agent) (s : State) : Host.Outcome State Fault Refusal :=
  let s := s.paid a
  .next (if s.reachesAon a then s.restRequest false else s)

def execDeepRequest (a : Agent) (s : State) : Host.Outcome State Fault Refusal :=
  let s := s.paid a
  .next (if s.reachesAon a then s.restRequest true else s)

/-- A wake source becomes active: it cancels a request not yet in effect, or begins the wake; every source active in that cycle
is recorded (R810, R811; 22, Corners). -/
def State.wakeBy (k : Nat) (s : State) : State :=
  let woken (p : Pwr) : Pwr := { p with wakeCause := setBit 0 k true, wakeCyc := some s.tb.clk.cycles }
  if s.pwr.stop then s
  else if s.pwr.cur = .entering then (s.modPwr fun p => { woken p with req := none, cur := .run }).stateResult 3
  else if s.pwr.cur = .drowse ∧ !s.pwr.waking then s.modPwr fun p => { woken p with waking := true }
  else if s.pwr.wakeCyc = some s.tb.clk.cycles then s.modPwr fun p => { p with wakeCause := setBit p.wakeCause k true }
  else s

def execWakeRequest (a : Agent) (s : State) : Host.Outcome State Fault Refusal :=
  let s := s.paid a
  .next (if s.reachesAon a then s.wakeBy 4 else s)

/-- No stroke runs from here on. -/
def State.haltStrokes (s : State) : State :=
  s.modTb fun t => { t with stroke := { t.stroke with running := false, ends := none } }

/-- Every Hewer becomes unavailable (18 R660, R661). -/
def State.toDrowse (s : State) : State :=
  let s := s.haltStrokes
  let t := s.modPwr fun p => { p with cur := .drowse, req := none, waking := false }
  let t := (List.finRange 16).foldl (fun t n => if s.available (.hewer n) then t.abortTowards (.hewer n) else t) t
  t.stateResult 0

/-- Deep: every island but 0 and the retention RAM is off until a wake releases a D reset (R809). -/
def State.toDeep (s : State) : State :=
  (s.deviceReset .D s.pwr.cause s.pwr.rail).modPwr fun p => { p with deep := true, islOn := 1 }

/-- The accepted request takes effect at the next boundary: step 1 of R20 only (R805). -/
def State.enterRest (s : State) : State :=
  match s.pwr.req with
  | none => s
  | some deep =>
    let s := s.endStroke
    if deep then s.toDeep else s.toDrowse

def execDrowseEntry (s : State) : Host.Outcome State Fault Refusal :=
  .next (if s.powered && s.pwr.req == some false && !s.pwr.stop then s.enterRest else s)

def execDeepEntry (s : State) : Host.Outcome State Fault Refusal :=
  .next (if s.powered && s.pwr.req == some true && !s.pwr.stop then s.enterRest else s)

/-- A wake from Deep: the D reset's cause is DEEP_EXIT (R809, R814). -/
def State.leaveDeep (k : Nat) (s : State) : State :=
  s.modPwr fun p => { p with deep := false, wakeCause := setBit 0 k true, cause := 10, rail := 0 }

/-- The island of the strapped host interface. -/
def State.hostIsland (s : State) : Option (Fin 56) :=
  if s.host.hsel = 0 then some 51 else if s.host.hsel = 3 then none else some 52

/-- A falling edge on WAKE_N (R803, R810). -/
def execWakeN (s : State) : Host.Outcome State Fault Refusal :=
  if s.pwr.deep then .next (if bit s.pwr.wakeCfg 0 then s.leaveDeep 0 else s)
  else if !s.powered then .next s
  else
    let s := match s.hostIsland with
      | some i => if s.islandOn i.val then s else s.islandUp i
      | none => s
    .next (if bit s.pwr.wakeCfg 0 then s.wakeBy 0 else s)

/-- AON seconds, bits 39:0. -/
def Clock.aonSeconds (c : Clock) : Nat := c.aon / 32768 % 2 ^ 40
/-- Nominal core cycles until the AON seconds reach `k`. -/
def Clock.aonCyclesTo (c : Clock) (k : Nat) : Nat :=
  ceilDiv ((k * 32768 - c.aon % (2 ^ 40 * 32768)) * 1953125 - c.aonSub) 128

/-- AON seconds reach PWR.ALARM (R810). -/
def execAlarmWake (s : State) : Host.Outcome State Fault Refusal :=
  let c := s.tb.clk
  let k := s.pwr.alarm.toNat
  if !s.pwr.alarmOn ∨ !bit s.pwr.wakeCfg 1 ∨ k < c.aonSeconds then .next s
  else if s.pwr.deep then
    .next ((s.modTb fun t => { t with clk := c.aonRun (c.aonCyclesTo k) }).leaveDeep 1)
  else if !s.powered then .next s
  else .next (s.whenAt (c.cycles + c.aonCyclesTo k) (·.wakeBy 1))

/-- The host access is to the SYS, EVT or PWR block, which Drowse serves (R807). -/
def servedInDrowse (off : Nat) : Bool :=
  decide (off < 0x1000) || (decide (0x4000 ≤ off) && decide (off < 0x8000)) || (decide (0x34000 ≤ off) && decide (off < 0x38000))

/-- A host access in Drowse to unified address `off` (R807). -/
def execHostWake (off : Nat) (s : State) : Host.Outcome State Fault Refusal :=
  .next (if s.hostLets && s.pwr.cur == .drowse && bit s.pwr.wakeCfg 2 && !servedInDrowse off then s.wakeBy 2 else s)

/-- Energy on a port whose link is down (R810). -/
def execEnergyWake (p : Fin 4) (s : State) : Host.Outcome State Fault Refusal :=
  .next (if s.powered && bit s.pwr.wakeCfg 3 && !s.eth.port[(ix 6 p.val : Fin 6)].link.up then s.wakeBy 3 else s)

/-- The wake completes: strokes resume at the next grid point, with steps 2 to 6 (R808). -/
def execDrowseWakeComplete (s : State) : Host.Outcome State Fault Refusal :=
  if !(s.powered && s.pwr.cur == .drowse && s.pwr.waking) then .next s
  else
    let s := s.modPwr fun p => { p with cur := .run, waking := false }
    .next (if s.lay.active.isSome && !s.pwr.stop then
      s.modTb fun t => { t with stroke := { t.stroke with ends := some (s.lo.gridFrom s.qns) } } else s)

/-! The sensor hub (19 R705, 22 R790-R793, R819-R823). -/

/-- Nominal value of a rail in mV; a VIO rail's is the nearer of 1.8 V and 3.3 V (R790). -/
def railNominal (i : Nat) (mv : Nat) : Nat :=
  match i with
  | 0 => 3300
  | 1 => 800
  | 2 => 900
  | 3 => 800
  | 4 => 1800
  | 5 => 2500
  | 6 => 900
  | 7 => 900
  | _ => if mv ≤ 2550 then 1800 else 3300

/-- The rail lies in its warn band, ±5 % (R790). -/
def inWarn (i mv : Nat) : Bool :=
  let n := railNominal i mv
  decide (20 * ((mv : Int) - n).natAbs ≤ n)

/-- Rails 8 to 11 feed the banks A to D, whose balls are high-impedance below 1.0 V (23 R830). -/
def Pins.feed (i : Nat) (mv : BitVec 13) (p : Pins) : Pins :=
  if 8 ≤ i then { p with unfed := setBit p.unfed (i - 8) (decide (mv.toNat < 1000)) } else p

/-- A rail's sample (R791). -/
def State.railSample (i : Fin 12) (mv : BitVec 13) (s : State) : State :=
  let r := s.wdn.sens.rail[i]
  let now := s.tb.clk.cycles
  let good := inWarn i.val mv.toNat
  let since := if good then some (r.good.getD now) else none
  let healed := match since with
    | some k => decide (k + msCycles 1 ≤ now)
    | none => false
  let fault := if good then r.fault && !healed else true
  let s := s.modWdn fun w => { w with sens := { w.sens with rail := vset w.sens.rail i { fault := fault, mv := mv, good := since } } }
  let s := { s with pins := s.pins.feed i.val mv }
  if !good && !r.fault then (s.raise evRailFault).sensorsLog 124 else s

/-- A VIN sample (R793). -/
def State.vinSample (mv : BitVec 16) (s : State) : State :=
  let low := 10 * s.pwr.vinLow.toNat
  let below := decide (mv.toNat < low)
  let s := s.modWdn fun w => { w with sens := { w.sens with vin := mv } }
  let s := s.modPwr fun p => { p with below := below }
  if below ∧ !s.pwr.lowSeen then
    ((s.modPwr fun p => { p with lowSeen := true, dips := satInc p.dips }).raise evVinLow).sensorsLog 120
  else if s.pwr.lowSeen ∧ low + 200 < mv.toNat then (s.modPwr fun p => { p with lowSeen := false }).raise evVinOk
  else s

/-- The controlled stop begins (R820, t = 0). -/
def State.beginStop (s : State) : State :=
  let s := s.raise evTempCrit
  let s := s.modPwr fun p =>
    { p with stop := true, stopCyc := s.tb.clk.cycles, halted := false, stops := satInc p.stops, faultN := true, req := none,
             cur := if p.cur = .entering then .run else p.cur }
  let cancel (n : Fin 16) (s : State) : State := s.modSched n fun e => { e with st := .aborted, reason := .cancelled }
  let s := if s.tb.sched[(0 : Fin 16)].st = .pending then
      ((cancel 0 s).countAbort 3 |>.modUpd fun x => { x with lay := none }).raise evChangeoverAbort else s
  let s := if s.tb.sched[(1 : Fin 16)].st = .pending then (cancel 1 s).modUpd fun x => { x with fw := none } else s
  s.sensorsLog 123

/-- A temperature sample (R819-R823). -/
def State.tempSample (i : Fin 8) (v : BitVec 12) (s : State) : State :=
  let s := s.modWdn fun w => { w with sens := { w.sens with temp := vset w.sens.temp i v } }
  let high := s.wdn.sens.high
  let hot := decide (1000 ≤ v.toInt)
  let twice := hot && bit s.pwr.crit i.val
  let s := s.modPwr fun p =>
    { p with crit := setBit p.crit i.val hot, peak := if p.peak.toInt < high then BitVec.ofInt 12 high else p.peak,
             highArmed := p.highArmed || decide (high < 8 * ((p.high.toNat : Int) - 5)) }
  if 1080 ≤ v.toInt then s.goOff 5
  else
    let s := if s.pwr.highArmed ∧ 8 * (s.pwr.high.toNat : Int) ≤ high then
        ((s.modPwr fun p => { p with highArmed := false }).raise evTempHigh).sensorsLog 122 else s
    let s := if twice ∧ !s.pwr.stop then s.beginStop else s
    if s.pwr.stop ∧ s.pwr.autoResume ∧ high ≤ 8 * (s.pwr.resume.toNat : Int) then s.lesserReset .W 9
    else if i = 7 then s.wsrc 10 else s

/-- SENSOR_SAMPLE (19 R705, R706). -/
def State.sample (v : Sample) (s : State) : State :=
  let x := fun (f : Sensors → Sensors) => s.modWdn fun w => { w with sens := f w.sens }
  let s := match v with
    | .temp i v => s.tempSample i v
    | .vin mv => s.vinSample mv
    | .iin ma => x fun q => { q with iin := ma }
    | .rail i mv => s.railSample i mv
    | .clocks ok => x fun q => { q with clkOk := ok }
    | .crystal ppm => x fun q => { q with ppm := ppm }
  if s.wardenRuns ∧ s.wdn.sens.logged + msCycles 10000 ≤ s.tb.clk.cycles then s.sensorsLog 0 else s

def execSensorSample (v : Sample) (s : State) : Host.Outcome State Fault Refusal :=
  .next (if s.powered then s.sample v else s)

/-! The controlled stop's halt (R820). -/

/-- Pins at their FALLBACK levels. -/
def Pins.fallBack (p : Pins) : Pins := { p with use := Vector.replicate 96 .fallback }

/-- A frame in transmission is stomped and ends. -/
def State.stompOut (p : Fin 6) (s : State) : State :=
  if (s.eth.port[p].tx).isNone then s
  else match execEgressFrameEnd p (s.stompTx p) with
    | .next t => t
    | _ => s

/-- Islands that a controlled stop switches off: 4-29 and 32-50 (R820). -/
def stopIslands : List (Fin 56) := (List.finRange 56).filter fun i => (4 ≤ i.val && i.val ≤ 29) || (32 ≤ i.val && i.val ≤ 50)

/-- Core cycle of the halt if no boundary comes first (R820). -/
def State.stopCycle (s : State) : Nat := if s.pwr.cur = .drowse then s.tb.clk.cycles else s.pwr.stopCyc + msCycles 1

/-- The halt itself (R820). -/
def State.haltAll (s : State) : State :=
  let s := s.haltStrokes
  let s : State := { s with pins := s.pins.fallBack }
  let s := (List.finRange 6).foldl (fun s p => s.stompOut p) s
  let s := (List.finRange 4).foldl (fun s c => s.modCan c fun x => { x with tx := none }) s
  let s := stopIslands.foldl (fun s i => if s.islandOn i.val then s.islandDown i else s) s
  s.modPwr fun p => { p with halted := true }

/-- A controlled stop waits for its halt. -/
def State.stopping (s : State) : Bool := s.powered && s.pwr.stop && !s.pwr.halted

/-- The halt: at the next boundary, with step 1 of R20 only, or 1 ms after TEMP_CRIT, whichever is first (R820). -/
def execControlledStopHalt (s : State) : Host.Outcome State Fault Refusal :=
  .next (if s.stopping then
      (if s.beforeEnd s.stopCycle ∨ s.tb.stroke.ends.isNone then s.runToCycle s.stopCycle else s.endStroke).haltAll
    else s)

end Sys2Proof.Machine
end

