-- ==== Sys2Proof/Machine/WindowRead.lean ====
section
/-! DEFINITION. The registers of Window A as an agent reads them (24 R859; the Registers sections of 03, 04, 05, 08, 10-13 and
17-22). An offset that names no register reads zero (00 R13). -/

namespace Sys2Proof.Machine

/-! The SYS block (17). -/

def mgmtCode : WdnMode → BitVec 2
  | .restart => 1
  | .down => 2
  | _ => 0

/-- No boot slot yielded an admitted layout (04 R156). -/
def State.noLayout (s : State) : Bool := s.lay.active.isNone && s.lay.usedFallback

/-- SYS.DMA_c, by offset from the channel's base. -/
def Dma.read (d : Dma) (off : Nat) : BitVec 32 :=
  match off with
  | 0x00 => bitAt d.en 31 ||| bitAt d.dir 30 ||| at32 d.vec 16 ||| at32 d.ring 0
  | 0x04 => fld d.base 0 32 &&& 0xFFFFFFF0
  | 0x08 => fld d.base 32 32
  | 0x0C => at32 d.tail 0
  | 0x10 => at32 d.head 0
  | 0x14 => bitAt d.halt 1 ||| bitAt d.busy 0
  | 0x18 => satWord d.done
  | _ => 0

/-- An MSI-X table entry (PCIe: address, upper address, data, vector control with the mask in bit 0). -/
def Msix.read (m : Msix) (off : Nat) : BitVec 32 :=
  match off with
  | 0x0 => fld m.addr 0 32
  | 0x4 => fld m.addr 32 32
  | 0x8 => m.data
  | _ => bitAt m.mask 0

def State.sysRead (off : Nat) (s : State) : BitVec 32 :=
  let h := s.host
  match off with
  | 0x000 => 0x64200
  | 0x004 => at32 h.hsel 0
  | 0x008 => bitAt h.ready 8 ||| at32 (mgmtCode s.wdn.mode) 4 ||| bitAt s.noLayout 1 ||| bitAt s.tb.stroke.running 0
  | 0x010 => at32 h.page 0
  | 0x014 => at32 h.errCount 24 ||| at32 h.errLast 0
  | 0x018 => 0x64200000 ||| at32 s.flash.vid 0
  | 0x01C => bitAt h.linkUp 4 ||| at32 h.linkSpeed 2 ||| at32 h.linkWidth 0
  | 0xA00 => h.pba
  | _ =>
    if 0x100 ≤ off ∧ off < 0x200 then h.dma[(ix 8 ((off - 0x100) / 0x20))].read (off % 0x20)
    else if 0x800 ≤ off ∧ off < 0xA00 then h.msix[(ix 32 ((off - 0x800) / 0x10))].read (off % 0x10)
    else 0

/-! The SBU block (03). -/

/-- Sixteen activities' bits from activity 16·k on. -/
def actBits (k : Nat) (f : ActId → Bool) : BitVec 32 :=
  (List.range 16).foldl (fun v i => setBit v i (f (ix 64 (16 * k + i)))) 0

/-- KIND of an activity; reserved IDs have none. -/
def actKind (a : Nat) : Option (BitVec 2) :=
  if a < 16 ∨ a = 29 then some 0
  else if a < 20 then some 1
  else if a = 28 then some 3
  else if a < 38 then some 2
  else none

/-- EG_LEFT: sign and magnitude in whole nanoseconds. -/
def egWord (x : Int) : BitVec 32 := bitAt (decide (x < 0)) 31 ||| at32 (satNat 28 (x.natAbs / 5)) 0

def ActCounters.read (c : ActCounters) (off : Nat) : BitVec 32 :=
  match off with
  | 0x0 => satWord c.park
  | 0x4 => satWord c.ovr
  | 0x8 => satWord c.wait
  | _ => bitAt (isSat c.held || isSat c.overCyc) 31 ||| at32 c.held 20 ||| at32 c.overCyc 0

def State.sbuRead (off : Nat) (s : State) : BitVec 32 × State :=
  let b := s.sbu
  let L := s.lo
  let plain (v : BitVec 32) : BitVec 32 × State := (v, s)
  match off with
  | 0x004 => plain (bitAt b.admission.pass 31 ||| at32 b.admission.code 12 ||| at32 b.admission.res 8 ||| at32 b.admission.index 0)
  | 0x008 => plain (at32 (satNat 28 b.poolLoft) 0)
  | 0x00C => plain (at32 (satNat 28 b.poolGal) 0)
  | 0x010 => plain (at32 L.slackMinLoft 0)
  | 0x014 => plain (at32 L.slackMinGal 0)
  | 0x018 => plain (at32 b.use.lastOver 20 ||| at32 b.use.lastBeats 0)
  | 0x100 => plain (at32 b.egPort 8 ||| at32 b.egAct 0)
  | 0x104 => plain (at32 (L.egBudget b.egAct.toNat b.egPort.toNat) 0)
  | 0x108 => plain (egWord (s.egLeft (ix 64 b.egAct.toNat) b.egPort.toNat))
  | _ =>
    if 0x030 ≤ off ∧ off < 0x040 then plain (actBits ((off - 0x030) / 4) fun a => b.act[a].parked)
    else if 0x040 ≤ off ∧ off < 0x050 then plain (actBits ((off - 0x040) / 4) fun a => b.act[a].overrun)
    else if 0x050 ≤ off ∧ off < 0x060 then plain (actBits ((off - 0x050) / 4) fun a => L.present a.val)
    else if 0x400 ≤ off ∧ off < 0x800 then plain (b.cnt[(ix 64 ((off - 0x400) / 0x10))].read (off % 0x10))
    else if 0x800 ≤ off ∧ off < 0x1000 then
      let a : ActId := ix 64 ((off - 0x800) / 0x20)
      let x := b.act[a]
      match off % 0x20 with
      | 0x00 => match actKind a.val with
        | some k => plain (bitAt (L.yieldReq a.val) 31 ||| at32 k 29 ||| at32 (L.slackCap a.val) 0)
        | none => (at32 (s.freeVal 2) 29, s.drawn)
      | 0x04 => plain (at32 (L.compute a.val) 0)
      | 0x08 => plain (at32 (L.loft a.val) 0)
      | 0x0C => plain (at32 (L.gallery a.val) 0)
      | 0x10 => plain (at32 (L.dma a.val) 0)
      | 0x14 => plain (at32 (L.events a.val) 0)
      | 0x18 => plain (at32 (satNat 28 x.cpu) 0)
      | _ => plain (at32 (satNat 14 x.gal) 14 ||| at32 (satNat 14 x.loft) 0)
    else plain 0

/-! The LAY block (04). -/

def planeCode : PlaneState → BitVec 2
  | .empty => 0
  | .writing => 1
  | .valid => 2
  | .invalid => 3

def planCode : PlanMode → BitVec 3
  | .absent => 0
  | .carry => 1
  | .warm => 2
  | .cold => 3
  | .start => 4
  | .stop => 5
  | .change => 6

/-- Offset of LAY in Window A. -/
def layBase : Nat := 0x3000

/-- DIGEST_m of a plane: a read of word 0 latches words 1 to 12. -/
def State.digestRead (r base m : Nat) (d : BitVec 256) (s : State) : BitVec 32 × State :=
  if m = 0 then (at32 (pack256 d 0) 0, s.latchRun r (base + 4) ((List.range 12).map fun k => at32 (pack256 d (k + 1)) 0))
  else (s.latched r (base + 4 * m), s)

def State.layRead (r off : Nat) (s : State) : BitVec 32 × State :=
  let l := s.lay
  let plain (v : BitVec 32) : BitVec 32 × State := (v, s)
  match off with
  | 0x000 => plain (at32 s.lo.id 0)
  | 0x004 => plain (at32 s.lo.rev 0)
  | 0x008 => plain (at32 (l.shadow.getD Layout.blank).id 0)
  | 0x00C => plain (at32 (l.shadow.getD Layout.blank).rev 0)
  | 0x010 => plain (at32 l.slot 8 ||| bitAt l.checking 4 ||| at32 (planeCode l.st) 0)
  | 0x014 => plain (at32 l.code 20 ||| at32 l.word 0)
  | 0x018 => (lo20 l.chgStroke, s.latch r (layBase + 0x01C) (hi20 l.chgStroke))
  | 0x01C => plain (s.latched r (layBase + 0x01C))
  | 0x020 => plain (satWord l.chgCnt)
  | 0x024 => plain (at32 l.abortCnt 20 ||| at32 l.abortReason 0)
  | 0x028 => plain (bitAt s.plans.hinge.active 0)
  | 0x02C => plain (bitAt l.usedFallback 8 ||| at32 s.flash.fallback 4 ||| at32 s.flash.bootSlot 0)
  | 0x030 => plain (at32 l.reapplyCnt 20 ||| at32 l.reapplyIsl 0)
  | _ =>
    if 0x040 ≤ off ∧ off < 0x080 then
      let n : Fin 16 := ix 16 ((off - 0x040) / 4)
      let p := s.plans.hewer[n]
      plain (at32 p.pause 12 ||| bitAt p.ready 8 ||| bitAt s.hw[n].bank 4 ||| at32 (planCode p.mode) 0)
    else if 0x080 ≤ off ∧ off < 0x090 then plain (at32 (planCode s.plans.flight[(ix 4 ((off - 0x080) / 4))]) 0)
    else if 0x100 ≤ off ∧ off < 0x134 then s.digestRead r (layBase + 0x100) ((off - 0x100) / 4) s.lo.digest
    else if 0x140 ≤ off ∧ off < 0x174 then
      s.digestRead r (layBase + 0x140) ((off - 0x140) / 4) (l.shadow.getD Layout.blank).digest
    else plain 0

/-! The HWC block of a Hewer (05, 08). -/

def hewerCode : HewerState → BitVec 3
  | .absent => 0
  | .running => 1
  | .yielded => 2
  | .parked => 3
  | .halted => 4
  | .faulted => 5
  | .loading => 6
  | .stopped => 7

/-- The head frame's verdict is outstanding. -/
def State.frameGreen (s : State) (n : Fin 16) : Bool :=
  match s.rxHead n with
  | some f => f.verdict.isNone
  | none => false

/-- N Z C V G in bits 4:0. -/
def Flags.bits (f : Flags) : BitVec 5 := bool 1 f.n ++ bool 1 f.z ++ bool 1 f.c ++ bool 1 f.v ++ bool 1 f.g

/-- The Hewer debug registers are open: scope bit 0 unlocked and, to the host, the Hewer's island not claimed (20 R736, R744). -/
def State.debugOpen (s : State) (a : Agent) (n : Fin 16) : Bool := bit s.sec.scope 0 && !(a == .host && s.claimed (4 + n.val))

/-- A semaphore's state word (05). -/
def Sem.word (x : Sem) : Word := (bool 1 x.held ++ bool 1 x.orphan ++ 0#13 ++ x.owner : BitVec 20)

/-- Offset `off` of the HWC block of Hewer `n`; the reading agent sees debug registers only as R736 lets it. -/
def State.hwcRead (a : Agent) (n : Fin 16) (off : Nat) (s : State) : BitVec 32 :=
  let h := s.hw[n]
  let g := h.regs
  let L := s.lo
  let package (f : Package → Word) : BitVec 32 := match s.flash.packageFor L n.val with
    | some p => if L.present n.val then at32 (f p) 0 else 0
    | none => 0
  let open_ := s.debugOpen a n
  let shown : Bool := open_ && h.st == .halted
  match off with
  | 0x004 => at32 g.result 16 ||| at32 (BitVec.ofNat 5 h.cq.length) 8 ||| bitAt (s.frameGreen n) 5 ||| bitAt h.bank 4
      ||| at32 (hewerCode h.st) 0
  | 0x008 => bitAt g.faultAct 0
  | 0x00C => at32 g.faultCnt 24 ||| at32 g.faultCause 20 ||| at32 g.faultPc 0
  | 0x014 => package (·.persId)
  | 0x018 => package (·.version)
  | 0x01C => package (·.entry)
  | 0x020 => at32 (BitVec.ofNat 20 (L.loftBase n.val)) 0
  | 0x024 => at32 (BitVec.ofNat 20 (L.loftSize n.val)) 0
  | 0x028 => at32 (fld (L.word 10 n.val 18) 4 3) 8 ||| at32 (fld (L.word 10 n.val 18) 0 4) 4 ||| bitAt (L.tapOut n.val) 1
      ||| bitAt (L.tapIn n.val) 0
  | 0x02C => at32 (L.word 10 n.val 16) 0
  | 0x030 => at32 (fld (L.word 10 n.val 17) 0 12) 0
  | 0x040 => satWord g.accCnt
  | 0x044 => satWord g.semCnt
  | 0x048 => satWord g.cqCommit
  | 0x04C => satWord g.cqDiscard
  | 0x050 => satWord g.cqStall
  | 0x054 => bitAt (isSat g.glStomp || isSat g.glDrop) 31 ||| at32 g.glStomp 10 ||| at32 g.glDrop 0
  | 0x0C0 => if shown then at32 h.eng.core.pc 0 else 0
  | 0x0C4 => if shown then at32 h.eng.core.fl.bits 0 else 0
  | 0x0C8 => at32 g.dbgAddr 0
  | 0x0CC =>
    let w := h.word g.dbgAddr.toNat
    if open_ then bitAt w.green 20 ||| at32 w.val 0 else 0
  | _ =>
    if 0x080 ≤ off ∧ off < 0x0C0 then (if shown then at32 h.eng.core.w[(ix 16 ((off - 0x080) / 4))] 0 else 0)
    else if 0x300 ≤ off ∧ off < 0x400 then
      at32 s.sem[(ix 64 ((off - 0x300) / 4))].word 0
    else 0

/-! The ETH blocks (11). -/

/-- The result register's word: VALID, REPEAT and data. -/
def ResultReg.word {w : Nat} (x : ResultReg w) : BitVec 32 := x.top ||| at32 x.shown 0

/-- SAT bits of a Tally: counters 32·h to 32·h + 31. -/
def Tally.satBits (t : Tally) (h : Nat) : BitVec 32 :=
  (List.range 32).foldl (fun v i => setBit v i (isSat t.live[(ix 64 (32 * h + i))])) 0

/-- A counter of up to 40 bits in a pair of words at `base`: a read of LO latches HI. -/
def State.pairRead (r base : Nat) (hi : Bool) (v : BitVec 40) (s : State) : BitVec 32 × State :=
  if hi then (s.latched r (base + 4), s) else (lo20 v, s.latch r (base + 4) (hi20 v))

/-- The block of port `p`, by offset from its base. -/
def State.portRead (r : Nat) (p : Fin 6) (off : Nat) (s : State) : BitVec 32 × State :=
  let e := s.eth.port[p]
  let k := e.link
  let base := 0x10000 + 0x1000 * p.val
  let plain (v : BitVec 32) : BitVec 32 × State := (v, s)
  match off with
  | 0x000 => plain (s.lo.mode p.val)
  | 0x004 => plain (at32 k.changes 24 ||| bitAt k.noHcd 8 ||| bitAt e.freeze.isSome 7 ||| bitAt k.anDone 6 ||| bitAt k.mdix 5
      ||| bitAt k.full 4 ||| at32 k.speed 1 ||| bitAt k.up 0)
  | 0x00C => plain (at32 e.thr 0)
  | 0x010 =>
    let d := e.diagRes.shown
    (e.diagRes.top ||| at32 (fld d 18 6) 24 ||| at32 (fld d 0 18) 0, s.modPort p fun e => { e with diagRes := e.diagRes.consume })
  | 0x018 => plain (at32 e.txAdj 16 ||| at32 e.rxAdj 0)
  | 0x7F0 => plain (e.tally.satBits 0)
  | 0x7F4 => plain (e.tally.satBits 1)
  | _ =>
    if 0x800 ≤ off ∧ off < 0xA00 then
      s.pairRead r (base + off / 8 * 8) (off % 8 == 4) e.tally.live[(ix 64 ((off - 0x800) / 8))]
    else if 0xA00 ≤ off ∧ off < 0xC00 then
      s.pairRead r (base + off / 8 * 8) (off % 8 == 4) e.tally.snap[(ix 64 ((off - 0xA00) / 8))]
    else plain 0

/-- The shared registers, by offset from 0x1_0000. -/
def State.ethShared (off : Nat) (s : State) : BitVec 32 × State :=
  let x := s.eth
  let plain (v : BitVec 32) : BitVec 32 × State := (v, s)
  match off with
  | 0xF00 => plain (at32 x.snapStroke 0)
  | 0xF10 => plain (at32 x.mdio.refused 24 ||| bitAt x.mdio.preSup 8 ||| at32 x.mdio.div 0)
  | 0xF1C => (x.mdio.res.word, s.modEth fun e => { e with mdio := { e.mdio with res := e.mdio.res.consume } })
  | 0xF20 => plain (satWord x.buckSends)
  | 0xF24 => plain (satWord x.buckSegs)
  | 0xF28 => plain (satWord x.buckErr ||| at32 x.buckReason 24)
  | _ => plain 0

/-! The LND block (12). -/

/-- A learning-table entry's words (LT_ENTRY_0-3). -/
def ltWord (e : Option LtEntry) (j : Nat) : BitVec 32 :=
  match e with
  | none => 0
  | some e =>
    let octet (i : Nat) : BitVec 8 := fld e.mac (8 * (5 - i)) 8
    if j < 3 then at32 (octet (2 * j)) 0 ||| at32 (octet (2 * j + 1)) 8
    else bitAt true 31 ||| bitAt e.static 30 ||| bitAt e.hit 29 ||| at32 e.ports 12 ||| at32 e.vid 0

/-- Classes of port `p` that are open now. -/
def State.openClasses (s : State) (p : Fin 6) : BitVec 8 :=
  (List.range 8).foldl (fun v t => setBit v t (s.classOpen p t)) 0

/-- Offset of LND in Window A. -/
def lndBase : Nat := 0x18000

def State.lndRead (r off : Nat) (s : State) : BitVec 32 × State :=
  let l := s.lnd
  let L := s.lo
  let plain (v : BitVec 32) : BitVec 32 × State := (v, s)
  let entry := l.lt l.ltSel.toNat
  match off with
  | 0x0000 => plain (at32 (BitVec.ofNat 14 l.descFree) 16 ||| at32 (BitVec.ofNat 15 s.freeCells) 0)
  | 0x0004 => plain (at32 l.low 0)
  | 0x0008 => plain (at32 l.min 0)
  | 0x000C => plain (at32 (BitVec.ofNat 10 L.age) 0)
  | 0x0010 => plain (at32 L.mirror 0)
  | 0x0014 => plain (at32 L.pcpMap 0)
  | 0x1100 => plain (bitAt l.flush 30)
  | 0x1104 => plain (at32 l.ltSel 0)
  | 0x1108 => (ltWord entry 0, s.latchRun r (lndBase + 0x110C) ((List.range 3).map fun j => ltWord entry (j + 1)))
  | 0x110C => plain (s.latched r (lndBase + 0x110C))
  | 0x1110 => plain (s.latched r (lndBase + 0x1110))
  | 0x1114 => plain (s.latched r (lndBase + 0x1114))
  | 0x3400 => plain (l.tally.satBits 0)
  | 0x3404 => plain (l.tally.satBits 1)
  | _ =>
    if 0x100 ≤ off ∧ off < 0x180 then
      let p := (off - 0x100) / 0x10
      match off % 0x10 with
      | 0x0 => plain (at32 (L.portCfg p &&& 0x7C000) 0)
      | 0x4 => plain (at32 (L.vlan p) 0)
      | 0x8 => plain (at32 (fld (L.word 2 0 (24 + p)) 0 16) 0)
      | _ => plain 0
    else if 0x200 ≤ off ∧ off < 0x240 then plain (at32 (fld (L.tap ((off - 0x200) / 4)) 0 10) 0)
    else if 0x400 ≤ off ∧ off < 0x900 then
      let q : Fin 80 := ix 80 ((off - 0x400) / 0x10)
      match off % 0x10 with
      | 0x0 => plain (at32 (BitVec.ofNat 4 (L.alpha q.val)) 16 ||| at32 (BitVec.ofNat 14 (L.reserve q.val)) 0)
      | 0x4 => plain (bitAt (L.strict q.val) 19 ||| at32 (BitVec.ofNat 12 (L.quantum q.val)) 0)
      | 0x8 => plain (at32 (BitVec.ofNat 14 l.queue[q].length) 16 ||| at32 (BitVec.ofNat 15 (s.qLen q)) 0)
      | _ => plain (if q.val < 64 then at32 (satNat 20 l.deficit[(ix 64 q.val)]) 0 else 0)
    else if 0x1000 ≤ off ∧ off < 0x1060 then
      let p : Fin 6 := ix 6 ((off - 0x1000) / 0x10)
      match off % 0x10 with
      | 0x0 => plain (at32 (BitVec.ofNat 12 (L.guard p.val)) 8 ||| at32 (BitVec.ofNat 8 (L.gateM p.val)) 0)
      | 0x4 => plain (at32 l.entry[p] 8 ||| at32 (s.openClasses p) 0)
      | _ => plain 0
    else if 0x2000 ≤ off ∧ off < 0x2400 then
      match memRead none l.frer ((off - 0x2000) / 4) with
      | some x => plain (bitAt true 31 ||| at32 x.h 0)
      | none => plain 0
    else if 0x3000 ≤ off ∧ off < 0x3200 then
      s.pairRead r (lndBase + off / 8 * 8) (off % 8 == 4) l.tally.live[(ix 64 ((off - 0x3000) / 8))]
    else if 0x3200 ≤ off ∧ off < 0x3400 then
      s.pairRead r (lndBase + off / 8 * 8) (off % 8 == 4) l.tally.snap[(ix 64 ((off - 0x3200) / 8))]
    else plain 0

/-! The GRD block (13). -/

/-- Words of the selected Offcut entry from OFC_ENTRY_0 on; `now` in core cycles. -/
def ofcWord (now : Nat) (e : Option OfcEntry) (j : Nat) : BitVec 32 :=
  match e with
  | none => 0
  | some e =>
    match j with
    | 0 => bitAt true 31 ||| bitAt e.last 30 ||| bitAt e.key.v6 29 ||| bitAt e.rule.isSome 28 ||| at32 (e.rule.getD 0) 16
        ||| at32 e.key.proto 0
    | 1 => e.key.ident
    | 2 => at32 (satNat 12 ((e.until_ - now) / 4000)) 0
    | _ => if j < 7 then fld e.key.src (32 * (6 - j)) 32 else fld e.key.dst (32 * (10 - j)) 32

/-- Offset of GRD in Window A. -/
def grdBase : Nat := 0x1C000

def State.grdRead (r off : Nat) (s : State) : BitVec 32 × State :=
  let g := s.grd
  let L := s.lo
  let plain (v : BitVec 32) : BitVec 32 × State := (v, s)
  match off with
  | 0x000 => plain (at32 (BitVec.ofNat 8 L.nnode) 10 ||| at32 (BitVec.ofNat 10 L.depth) 0)
  | 0x004 => plain (at32 (BitVec.ofNat 12 L.nrule) 0)
  | 0x008 => plain (at32 L.ofcCfg 0)
  | 0x00C => plain (bitAt g.bank 0)
  | 0x010 => plain (bitAt g.plane 16 ||| at32 g.index 0)
  | 0x014 =>
    let (w, s) := s.tableRead
    (at32 w 0, s)
  | 0x01C => plain (at32 (BitVec.ofNat 7 (g.ofc.toList.countP (·.isSome))) 8 ||| at32 (BitVec.ofNat 4 g.pend.length) 0)
  | 0x020 => plain (at32 g.sel 0)
  | 0x024 =>
    let e := g.ofc[(ix 64 g.sel.toNat)]
    let now := s.tb.clk.cycles
    (ofcWord now e 0, s.latchRun r (grdBase + 0x028) ((List.range 10).map fun j => ofcWord now e (j + 1)))
  | _ =>
    if 0x028 ≤ off ∧ off < 0x050 then plain (s.latched r (grdBase + off))
    else if 0x100 ≤ off ∧ off < 0x124 then plain (satWord g.cnt[(ix 9 ((off - 0x100) / 4))])
    else plain 0

/-! The GAL block (10). -/

/-- HELD and BROKEN bits of the lease slots. -/
def Gallery.leaseBits (g : Gallery) (f : Lease → Bool) : BitVec 16 :=
  (List.finRange 16).foldl (fun v i => setBit v i.val (f g.lease[i])) 0

def State.galRegs (off : Nat) (s : State) : BitVec 32 :=
  let g := s.gal
  let L := s.lo
  match off with
  | 0x014 => at32 g.swapRes 0
  | 0x084 => at32 (g.leaseBits (·.broken)) 16 ||| at32 (g.leaseBits (·.held)) 0
  | 0x090 => at32 g.forCount 22 ||| at32 g.forAgent 17 ||| at32 g.forPage 0
  | 0x094 => at32 g.eccFail 24 ||| at32 g.eccFix 12 ||| at32 g.eccFrame 0
  | _ =>
    if off < 0x010 then fld g.settled (8 * off) 32
    else if 0x040 ≤ off ∧ off < 0x080 then at32 g.lease[(ix 16 ((off - 0x040) / 4))].grp 0
    else if 0x1000 ≤ off ∧ off < 0x1800 then
      let k := (off - 0x1000) / 0x10
      let x := g.grp[(ix 128 k)]
      let ws := L.grpWords k
      match off % 0x10 with
      | 0x0 => at32 (ws.getD 0 0) 0
      | 0x4 => at32 (fld (ws.getD 2 0) 0 10) 20 ||| at32 (ws.getD 1 0) 0
      | 0x8 => match L.grp k with
        | some r => at32 (BitVec.ofNat 24 (L.settleAt r)) 0
        | none => 0
      | _ => bitAt x.stop 23 ||| bitAt x.req 22 ||| at32 x.deferred 20 ||| at32 x.stroke 0
    else 0

/-! The PWR block (22). -/

def powerCode : PowerState → BitVec 2
  | .run => 0
  | .drowse => 1
  | .entering => 2

def State.pwrRead (off : Nat) (s : State) : BitVec 32 × State :=
  let p := s.pwr
  let plain (v : BitVec 32) : BitVec 32 × State := (v, s)
  match off with
  | 0x000 => plain (bitAt p.stop 8 ||| at32 (powerCode p.cur) 0)
  | 0x008 => (p.stateRes.word, s.modPwr fun p => { p with stateRes := p.stateRes.consume })
  | 0x00C => plain (at32 p.wakeCfg 0)
  | 0x010 => plain (at32 p.wakeCause 0)
  | 0x014 => plain (lo20 p.alarm)
  | 0x018 => plain (hi20 p.alarm)
  | 0x01C => plain (at32 p.rail 4 ||| at32 p.cause 0)
  | 0x020 => plain (at32 p.vinLow 0)
  | 0x024 => plain (bitAt p.below 31 ||| at32 p.dips 0)
  | 0x028 => plain (bitAt p.autoResume 24 ||| at32 p.resume 8 ||| at32 p.high 0)
  | 0x02C => plain (at32 p.stops 20 ||| at32 p.peak 0)
  | 0x044 =>
    let d := p.islRes.shown
    (p.islRes.top ||| at32 (fld d 6 3) 16 ||| at32 (fld d 0 6) 0, s.modPwr fun p => { p with islRes := p.islRes.consume })
  | 0x050 => plain (at32 (fld p.islOn 0 20) 0)
  | 0x054 => plain (at32 (fld p.islOn 20 20) 0)
  | 0x058 => plain (at32 (fld p.islOn 40 16) 0)
  | _ => plain 0

/-! The WDN block (19, 21). -/

def modeCode : WdnMode → BitVec 3
  | .boot => 0
  | .run => 1
  | .restart => 2
  | .down => 3
  | .held => 4

/-- A command is being checked, from its arrival to its answer; one of the service port counts where `svp` says so. -/
def State.checking (s : State) (svp : Bool) (code : Nat) : Bool :=
  ((List.range 4).any fun h =>
    let c := s.chu.chan[(ix 168 h)]
    c.st == .full && fldN c.slot[(0 : Fin 16)] 0 12 == code) ||
  (s.wdn.relq ++ s.wdn.late).any fun e => match e with
    | .response (.ctx _) (w :: _) => fldN w 0 12 == code
    | .response .svp (w :: _) => svp && fldN w 0 12 == code
    | _ => false

/-- The staging buffer is locked while an UPDATE_BLOCK of a host context is checked and copied: from its arrival to its answer
(21 R761). -/
def State.updateLock (s : State) : Bool := s.checking false 0x021

/-- Seconds to a trial's deadline, cut to the field. -/
def State.trialRemain (s : State) : BitVec 12 :=
  match s.upd.trial with
  | some t => match t.deadline with
    | some k => satNat 12 ((k - s.tb.clk.cycles) / msCycles 1000)
    | none => 0
  | none => 0

def slotCode : SlotState → BitVec 3
  | .empty => 0
  | .receiving => 1
  | .valid => 2
  | .invalid => 3

/-- WDN.UPDATE to SLOT_ID and the staging buffer, by offset from 0x3_8000. -/
def State.updRead (off : Nat) (s : State) : BitVec 32 :=
  let u := s.upd
  let f := s.flash
  let ty := fldN u.slotSel 8 2
  let k := fldN u.slotSel 0 7
  match off with
  | 0x140 => bitAt s.updateLock 31 ||| (match u.cur with
      | none => at32 (7 : BitVec 3) 28
      | some c => at32 (BitVec.ofNat 3 (srcCode c.src)) 28 ||| at32 c.type 24 ||| at32 c.slot 16 ||| at32 (satNat 8 (ones c.bitmap)) 8 ||| 1)
  | 0x144 => bitAt u.trial.isSome 31 ||| bitAt u.reverted 30 ||| (match u.trial with
      | some t => at32 t.act.type 24 ||| at32 t.act.slot 16
      | none => 0) ||| at32 s.trialRemain 0
  | 0x148 => at32 (u.slotSel &&& 0x37F) 0
  | 0x14C =>
    if f.noSlot ty k then 0
    else bitAt (s.slotInUse ty k) 23 ||| at32 (slotCode (f.slot ty k).st) 20 ||| at32 (f.slotVersion ty k) 0
  | 0x150 => if f.noSlot ty k then 0 else at32 (f.slotIdent ty k) 0
  | _ =>
    if 0x1000 ≤ off ∧ off < 0x2000 then
      let o (i : Nat) : Octet := memRead 0 u.ubuf (off - 0x1000 + i)
      o 3 ++ o 2 ++ o 1 ++ o 0
    else 0

/-- The sensor registers, by offset from 0x3_8000. -/
def Sensors.read (x : Sensors) (off : Nat) : BitVec 32 :=
  match off with
  | 0x060 => at32 x.vin 0
  | 0x064 => at32 x.iin 0
  | 0x0C0 => x.clk
  | _ =>
    if off < 0x060 then at32 x.temp[(ix 8 ((off - 0x040) / 4))] 0
    else if 0x080 ≤ off ∧ off < 0x0B0 then
      let r := x.rail[(ix 12 ((off - 0x080) / 4))]
      bitAt r.fault 15 ||| at32 r.mv 0
    else 0

/-- RESTART (WDN.RESTART). -/
def Restart.word (r : Restart) : BitVec 32 := at32 r.count 24 ||| at32 r.cause 20 ||| at32 r.group 0

def State.wdnRead (r off : Nat) (s : State) : BitVec 32 × State :=
  let w := s.wdn
  let plain (v : BitVec 32) : BitVec 32 × State := (v, s)
  match off with
  | 0x000 => plain (at32 (modeCode w.mode) 16 ||| bitAt w.slot 8)
  | 0x004 => plain w.restart.word
  | 0x008 => plain (bitAt w.stPass 31 ||| at32 w.stGroup 0)
  | 0x00C => plain (at32 w.jPeak 16 ||| at32 (satNat 12 w.level) 0)
  | 0x010 => plain (at32 w.relPeak 16 ||| at32 (satNat 7 (relLevel w.relq)) 0)
  | 0x014 => plain (at32 w.limit 24 ||| at32 (satNat 20 (w.age / 250)) 0)
  | 0x018 => (lo20 s.flash.seq, s.latch r 0x3801C (hi20 s.flash.seq))
  | 0x01C => plain (s.latched r 0x3801C)
  | 0x020 => plain (at32 s.flash.wraps 24 ||| at32 w.logSector 0)
  | 0x100 => plain (bitAt w.session 2 ||| bitAt w.svpConf 1 ||| bitAt s.flash.svpOff 0)
  | _ =>
    if 0x040 ≤ off ∧ off < 0x0C4 then
      (if s.islandOn 55 then plain (w.sens.read off) else (s.freeVal 32 &&& sensorBits off, s.drawn))
    else plain (s.updRead off)

/-! The SEC block (20). -/

def trngCode : TrngState → BitVec 2
  | .startup => 0
  | .ok => 1
  | .fail => 2
  | .dead => 3

/-- The RNG_OUT or ATT_OUT word: STATUS in bits 29:28. -/
def statusWord {w : Nat} (x : ResultReg w) (status : BitVec 2) : BitVec 32 :=
  x.top ||| (if x.valid || x.rep then at32 status 28 else 0)

/-- ATT_SIG_m. -/
def State.sigWord (s : State) (m : Nat) : BitVec 32 :=
  let half : BitVec 256 := if m < 13 then fld s.sec.attLatch 256 256 else fld s.sec.attLatch 0 256
  at32 (pack256 half (m % 13)) 0

/-- The SEC block. The manual gives offset +0x300 both to ATT_SIG_16 and to AUTH: which of the two a read shows is an open
value (log 40). -/
def State.secRead (r off : Nat) (s : State) : BitVec 32 × State :=
  let x := s.sec
  let f := s.flash
  let plain (v : BitVec 32) : BitVec 32 × State := (v, s)
  match off with
  | 0x000 => plain (at32 f.revoked 4 ||| at32 f.present 0)
  | 0x004 => plain (at32 f.pkDisabled 16 ||| at32 f.pkeys 0)
  | 0x008 => plain (bitAt f.svpOff 1 ||| bitAt f.debugOff 0)
  | 0x00C => plain (at32 x.scope 0)
  | 0x010 => (lo20 f.uid, s.latch r 0x3C014 (hi20 f.uid))
  | 0x014 => plain (s.latched r 0x3C014)
  | 0x220 => plain (at32 x.denyCount 24 ||| at32 x.denyReason 8 ||| at32 x.denyIsland 0)
  | 0x244 =>
    (statusWord x.host.res x.host.status, s.modSec fun x =>
      { x with hostData := if x.host.res.valid then x.host.res.data else x.hostData, host := { x.host with res := x.host.res.consume } })
  | 0x260 => plain (at32 x.fails 20 ||| at32 (trngCode x.trng) 16 ||| bitAt x.lastApt 8 ||| at32 x.run 0)
  | 0x264 => plain (at32 x.reseeds 0)
  | 0x284 =>
    (statusWord x.attRes x.attRes.shown, s.modSec fun x =>
      { x with attLatch := if x.attRes.valid then x.attSig else x.attLatch, attRes := x.attRes.consume })
  | 0x300 =>
    if s.freeVal 1 = 1 then (at32 x.authFails 24 ||| at32 x.lock.run 0, s.drawn) else (s.sigWord 16, s.drawn)
  | _ =>
    if 0x020 ≤ off ∧ off < 0x054 then s.digestRead r 0x3C020 ((off - 0x020) / 4) f.idX
    else if 0x060 ≤ off ∧ off < 0x094 then s.digestRead r 0x3C060 ((off - 0x060) / 4) f.idY
    else if 0x100 ≤ off ∧ off < 0x140 then plain (at32 x.auth[(ix 16 ((off - 0x100) / 4))] 0)
    else if 0x140 ≤ off ∧ off < 0x1A8 then plain (at32 x.sig[(ix 26 ((off - 0x140) / 4))] 0)
    else if 0x1C0 ≤ off ∧ off < 0x1DC then plain (at32 (nonceWord x.nonceReg ((off - 0x1C0) / 4)) 0)
    else if 0x200 ≤ off ∧ off < 0x20C then plain (at32 (fld x.claim (5 * (off - 0x200)) 20) 0)
    else if 0x210 ≤ off ∧ off < 0x21C then plain (at32 (fld x.wclaim (5 * (off - 0x210)) 20) 0)
    else if 0x248 ≤ off ∧ off < 0x258 then plain (fld x.hostData (8 * (off - 0x248)) 32)
    else if 0x2C0 ≤ off ∧ off < 0x328 then plain (s.sigWord ((off - 0x2C0) / 4))
    else plain 0

/-! Window A as a whole. -/

/-- The blocks the host reaches in Drowse (22 R807). -/
def alwaysOn (off : Nat) : Bool := servedInDrowse off

/-- The island that holds the register at `off`, where a P reset of a switchable island touches it. None holds the registers that the ports
share at 0x1_0F00 to 0x1_0F2C: the manual names none for them (DESIGN CHOICE, log 174). -/
def regIsland (off : Nat) : Option Nat :=
  if 0x1000 ≤ off ∧ off < 0x2000 then some 54
  else if 0xC000 ≤ off ∧ off < 0x10000 then (if 0x300 ≤ off % 0x400 then some 20 else some (4 + (off - 0xC000) / 0x400))
  else if 0x10F00 ≤ off ∧ off < 0x11000 then none
  else if 0x10000 ≤ off ∧ off < 0x16000 then some (40 + (off - 0x10000) / 0x1000)
  else if 0x18000 ≤ off ∧ off < 0x1C000 then some 28
  else if 0x1C000 ≤ off ∧ off < 0x20000 then some 29
  else if 0x20000 ≤ off ∧ off < 0x28000 then some (48 + (off - 0x20000) / 0x4000)
  else if 0x28000 ≤ off ∧ off < 0x28800 then some (32 + (off - 0x28000) / 0x200)
  else if 0x29000 ≤ off ∧ off < 0x29400 then some (32 + (off - 0x29000) / 0x100)
  else if 0x2C000 ≤ off ∧ off < 0x30000 then some 50
  else none

/-- A read by agent `a` reaches the unit of the register. -/
def State.hearsReg (a : Agent) (off : Nat) (s : State) : Bool :=
  (if alwaysOn off then s.reachesAon a else s.reaches a) && match regIsland off with
    | some i => s.islandOn i
    | none => true

/-- The register at Window A offset `off`, whose unit hears the read. -/
def State.regRead (a : Agent) (off : Nat) (s : State) : BitVec 32 × State :=
  let r := readerOf a
  let plain (v : BitVec 32) : BitVec 32 × State := (v, s)
  if off < 0x1000 then plain (s.sysRead off)
  else if off < 0x2000 then s.timeRead a (off - 0x1000)
  else if off < 0x3000 then s.sbuRead (off - 0x2000)
  else if off < 0x4000 then s.layRead r (off - 0x3000)
  else if off < 0x8000 then plain (s.evtRead (off - 0x4000))
  else if off < 0xC000 then plain (s.ctxRead (ix 4 ((off - 0x8000) / 0x1000)) (off % 0x1000))
  else if off < 0x10000 then plain (s.hwcRead a (ix 16 ((off - 0xC000) / 0x400)) (off % 0x400))
  else if 0x10F00 ≤ off ∧ off < 0x11000 then s.ethShared (off - 0x10000)
  else if off < 0x16000 then s.portRead r (ix 6 ((off - 0x10000) / 0x1000)) (off % 0x1000)
  else if off < 0x18000 then plain 0
  else if off < 0x1C000 then s.lndRead r (off - 0x18000)
  else if off < 0x20000 then s.grdRead r (off - 0x1C000)
  else if off < 0x28000 then
    let c : Fin 4 := ix 4 ((off - 0x20000) / 0x2000)
    s.canRead r (0x20000 + 0x2000 * c.val) c (off % 0x2000)
  else if off < 0x2C000 then s.trdRead a (off - 0x28000)
  else if off < 0x2CC00 then s.twbRead a (ix 3 ((off - 0x2C000) / 0x400)) (off % 0x400)
  else if off < 0x30000 then plain 0
  else if off < 0x34000 then plain (s.galRegs (off - 0x30000))
  else if off < 0x38000 then s.pwrRead (off - 0x34000)
  else if off < 0x3C000 then s.wdnRead r (off - 0x38000)
  else if off < 0x40000 then s.secRead r (off - 0x3C000)
  else plain 0

/-- A whole-register read of Window A by the host or the Warden. -/
def State.readA (a : Agent) (off : Nat) (s : State) : BitVec 32 × State :=
  if s.hearsReg a off then s.regRead a (off / 4 * 4) else if s.awake || a == .host then s.silentAt a off else (0, s)

end Sys2Proof.Machine
end

