-- ==== Sys2Proof/Machine/EngineMem.lean ====
section
/-! DEFINITION. What a Hewer's loads and stores reach (05, address view and I/O tables; 08, commit queue; 07 R306; 03 R108,
R109, R120): which access faults, which stalls, what it costs, and what it does. -/

namespace Sys2Proof.Machine

/-- How a part of an instruction ends: a value and the state after it; an exception; a wait, with the beats already charged and
the list head held; or, on the Warden, a management restart. -/
inductive Ran (α : Type)
  | ok (v : α) (s : State)
  | trap (cause : BitVec 4) (detail : Word) (s : State)
  | stall (k : StallKind) (paid : Nat) (head : Option Nat) (s : State)
  | restart (cause : BitVec 4) (s : State)

/-- The next part, when this one ends well. -/
def Ran.bind {α β : Type} (x : Ran α) (f : α → State → Ran β) : Ran β :=
  match x with
  | .ok v s => f v s
  | .trap c d s => .trap c d s
  | .stall k p h s => .stall k p h s
  | .restart c s => .restart c s

/-- Beats charged, and a list head held, before a wait of this part. -/
def Ran.after {α : Type} (paid : Nat) (head : Option Nat) : Ran α → Ran α
  | .stall k p _ s => .stall k (paid + p) head s
  | x => x

/-- One word access: a load, or a store of a value with its tag. -/
structure Acc where
  addr : Word
  val  : Option TWord
  deriving DecidableEq, Repr

def Acc.load (a : Word) : Acc := { addr := a, val := none }
def Acc.store (a : Word) (v : TWord) : Acc := { addr := a, val := some v }
def Acc.writes (a : Acc) : Bool := a.val.isSome

/-- A region of the Hewer's view (05, address view). -/
inductive HewerPlace
  | mem (a : Nat)
  | loft (w : Nat)
  | gal (w : Nat)
  | rx (i : Nat)
  | tx (i : Nat)
  | io (i : Nat)
  | none
  deriving DecidableEq, Repr

def hewerPlace (a : Word) : HewerPlace :=
  let n := a.toNat
  if n < 0x8000 then .mem n
  else if n < 0x88000 then .loft (n - 0x8000)
  else if n < 0xC8000 then .gal (n - 0x88000)
  else if n < 0xCA000 then .rx (n - 0xC8000)
  else if n < 0xCC000 then .tx (n - 0xCA000)
  else if n < 0xE0000 then .none
  else .io (n - 0xE0000)

/-- Latency of an access (05 R189). -/
def HewerPlace.latency : HewerPlace → Nat
  | .mem _ => 0
  | .loft _ => 3
  | .gal _ => 5
  | _ => 4

/-! Which words exist (05, HIO and I/O tables; 06 R281; 09; 18; 20). -/

/-- The HIO word `i` has a name. -/
def hioNamed (i : Nat) : Bool :=
  decide (i ≤ 4) || (decide (8 ≤ i) && decide (i ≤ 0x22)) || (decide (0x24 ≤ i) && decide (i ≤ 0x2C)) || i == 0x30 || i == 0x31

/-- The HIO word `i` may be written. -/
def hioWrites (i : Nat) : Bool :=
  decide (i ≤ 4) || (decide (8 ≤ i) && decide (i ≤ 0x18)) || i == 0x1D || i == 0x20 || i == 0x24 || i == 0x25 || i == 0x30

/-- Word `i` (from 0x800) of the Chute area exists, and may be written. -/
def chuteWord (i : Nat) (write : Bool) : Bool :=
  decide (i % 0x100 / 0x20 ≤ 4) && decide (i % 0x20 ≤ 16) && (!write || decide (i < 0x900) || i % 0x20 == 16)

/-- An I/O access that Hewer `n` may make (R190). -/
def ioAllowed (L : Layout) (n : Fin 16) (i : Nat) (write : Bool) : Bool :=
  if i < 0x40 then (if write then hioWrites i else hioNamed i)
  else if 0x400 ≤ i ∧ i < 0x440 then !write
  else if 0x440 ≤ i ∧ i < 0x480 then true
  else if 0x800 ≤ i ∧ i < 0xA00 then chuteWord i write
  else match hewerWin i with
    | some w => w.assigned L n
    | none => false

/-- A Loft word that Hewer `n` may write (R195). -/
def loftAllowed (L : Layout) (n : Fin 16) (w : Nat) : Bool :=
  (decide (L.loftBase n.val ≤ w) && decide (w < L.loftBase n.val + L.loftSize n.val)) ||
    (decide (0x78000 ≤ w) && L.hasCan n.val ((w - 0x78000) / 0x2000))

/-- An access of Hewer `n` faults (R186, R190, R195, R206). -/
def State.hewerDenied (s : State) (n : Fin 16) (a : Acc) : Bool :=
  let L := s.lo
  match hewerPlace a.addr with
  | .mem k => !(decide (k < 0x4000) || L.bothBanks n.val)
  | .loft w => a.writes && !loftAllowed L n w
  | .gal _ => false
  | .rx i => !L.tapIn n.val || (match a.val with
      | some _ => i != 0x1808
      | none => decide (0x1808 < i))
  | .tx i => !L.tapOut n.val || (match a.val with
      | some v => match s.txWrite (.hewer n) i v.val v.green with
        | .fault => true
        | _ => false
      | none => decide (6 < i))
  | .io i => !ioAllowed L n i a.writes
  | .none => true

/-- A store of this class passes the commit queue (R210, R241, 08 R317). -/
def queuedClass (a : Word) : Bool :=
  match hewerPlace a with
  | .loft _ => true
  | .gal _ => true
  | .io i => i == 0x18 || (decide (0x800 ≤ i) && decide (i < 0xA00)) || (hewerWin i).isSome
  | _ => false

/-- The store enters the commit queue: the queue holds an entry, or the write is green (R210, R241, R242). -/
def Hewer.queues (h : Hewer) (a : Acc) : Bool :=
  match a.val with
  | some v => queuedClass a.addr && (!h.cq.isEmpty || v.green || h.eng.core.ctlG)
  | none => false

/-- The newest queued write of an address (R212). -/
def Hewer.queued (h : Hewer) (a : Word) : Option CqEntry := h.cq.reverse.find? fun e => e.addr == a

/-- The Loft word is one of the two words of a list head that an engine holds (07 R306). -/
def State.loftHeld (s : State) (w : Nat) : Bool :=
  (List.finRange 16).any fun n => match s.hw[n].eng.stall with
    | some x => match x.head with
      | some h => h == w || h + 1 == w
      | none => false
    | none => false

/-- What an access waits for (05 R198, R202-R204, R209; 07 R306). -/
def State.hewerWait (s : State) (n : Fin 16) (a : Acc) : Option StallKind :=
  match hewerPlace a.addr, a.val with
  | .loft w, _ => if s.loftHeld w then some .listHold else none
  | .rx i, none => match s.rxRead (.hewer n) i with
    | .stall k => some k
    | _ => none
  | .rx i, some _ => match s.rxWrite (.hewer n) i with
    | .stall k => some k
    | _ => none
  | .tx i, some v => match s.txWrite (.hewer n) i v.val (v.green || s.hw[n].eng.core.ctlG) with
    | .stall k => some k
    | _ => none
  | .io i, some _ => if 0x440 ≤ i ∧ i < 0x480 ∧ !s.hw[n].cq.isEmpty then some .relDrain else none
  | _, _ => none

/-- Queue entries that an instruction's stores need. A pair store needs both where the first will find an entry (06 R247). -/
def Hewer.roomFor (h : Hewer) (as : List Acc) : Nat :=
  if as.any h.queues then as.countP fun a => a.writes && queuedClass a.addr && (h.queues a || !h.cq.isEmpty || as.any h.queues)
  else 0

/-- The stores find the queue full (08 R322). -/
def Hewer.cqFull (h : Hewer) (as : List Acc) : Bool := decide (0 < h.roomFor as) && decide (16 < h.cq.length + h.roomFor as)

/-- What an access is charged for (03, Resources; 05 R212; 08). -/
def State.hewerBeat (s : State) (n : Fin 16) (a : Acc) : Option BeatKind :=
  let fwd := !a.writes && (s.hw[n].queued a.addr).isSome
  match hewerPlace a.addr with
  | .loft _ => if fwd then none else some .loft
  | .gal _ => if fwd then none else some .gal
  | .io i => if 0x400 ≤ i ∧ i < 0x480 then some .loft else none
  | _ => none

/-! Paying. -/

def State.modCore (e : EngineId) (f : Core → Core) (s : State) : State := s.modEng e fun x => { x with core := f x.core }
def State.modVec (e : EngineId) (f : Vectors → Vectors) (s : State) : State := s.modEng e fun x => { x with vec := f x.vec }

/-- One beat of a running instruction: one that an earlier stroke has been charged counts (03 R109). -/
def State.engBeat (e : EngineId) (k : BeatKind) (s : State) : BeatResult :=
  if 0 < (s.eng e).paid then ⟨true, .none, s.modEng e fun x => { x with paid := x.paid - 1 }⟩ else s.beat (engAct e) k

/-- The beats of an instruction's accesses; a wait for the slack pool keeps those already paid. -/
def State.payBeats (e : EngineId) : Nat → List (Option BeatKind) → State → Ran (List BeatSource)
  | _, [], s => .ok [] s
  | n, none :: ks, s => (State.payBeats e n ks s).bind fun bs s => .ok (.none :: bs) s
  | n, some k :: ks, s =>
    let r := s.engBeat e k
    if r.granted then (State.payBeats e (n + 1) ks r.st).bind fun bs s => .ok (r.src :: bs) s
    else .stall .slack n none r.st

/-- A store has found the queue full: counted, COMMIT_STALL once in the stroke (08 R322). -/
def State.commitStall (n : Fin 16) (s : State) : State :=
  let c := s.hw[n].regs.cqStall
  let s := (s.modRegs n fun r => { r with cqStall := satInc r.cqStall }).satEvent c 1
  if s.hw[n].stallRaised then s else (s.modHw n fun h => { h with stallRaised := true }).raise evCommitStall

/-- An instruction's accesses on a Hewer, before any has an effect: faults first, then waits, then beats. -/
def State.hewerPrep (n : Fin 16) (as : List Acc) (s : State) : Ran (List BeatSource) :=
  match as.find? (s.hewerDenied n) with
  | some a => .trap 2 a.addr s
  | none =>
    match as.findSome? (s.hewerWait n) with
    | some k => .stall k 0 none s
    | none =>
      if s.hw[n].cqFull as then .stall .store 0 none (s.commitStall n)
      else State.payBeats (.hewer n) 0 (as.map (s.hewerBeat n)) s

/-! Loads. -/

/-- The status of event 20·k + i in bit i (18, ESTAT). -/
def State.estat (s : State) (k : Nat) : Word := fld s.evt.status (20 * k) 20

/-- Stroke-relative time in 8 ns units. -/
def State.strokeRel (s : State) : BitVec 24 := satNat 24 (s.strokeCyc / 4)

/-- PVC_DATA: a body word of the selected table, and INDEX moves on (09 R373, R374). -/
def State.pvcData (n : Fin 16) (s : State) : Word × State :=
  let h := s.hw[n].hio
  (s.lo.pvcWord h.pvcTable.toNat h.pvcIndex.toNat, s.modHio n fun h => { h with pvcIndex := h.pvcIndex + 1 })

/-- TD of coding table `t`, 0 when it is absent (09 R352, PVC_TD). -/
def Layout.pvcTd (L : Layout) (t : Nat) : Word :=
  if (L.sect 9 t).isSome then pack256 (sha256 (octets3 (L.body 9 t))) 0 else 0

/-- An RNG_OUT word (20). -/
def RngPort.out (p : RngPort 16) : Word :=
  (bool 1 p.res.valid ++ bool 1 (!p.res.valid && p.res.rep) ++ (if p.res.valid || p.res.rep then p.status else 0) ++ p.res.shown : BitVec 20)

def RngPort.consume {w : Nat} (p : RngPort w) : RngPort w := { p with res := p.res.consume }

/-- Vector words that a Hewer and the Warden share the layout of (05, HIO table; 06 R281). -/
def Vectors.show (v : Vectors) (i : Nat) : Word :=
  match i with
  | 0 => v.vbase
  | 1 => fld v.ien 0 20
  | 2 => (fld v.ien 20 12).setWidth 20
  | 3 => fld v.ipend 0 20
  | 4 => (fld v.ipend 20 12).setWidth 20
  | 0x1D => v.xbase
  | 0x1E => v.xcause.setWidth 20
  | 0x1F => v.xaddr
  | _ => if 8 ≤ i ∧ i < 0x18 then (v.lsrc[(ix 16 (i - 8))]).setWidth 20 else 0

/-- A write of such a word. -/
def Vectors.put (v : Vectors) (i : Nat) (x : Word) : Vectors :=
  match i with
  | 0 => { v with vbase := x &&& 0xFFFE0 }
  | 1 => { v with ien := (fld v.ien 20 12 ++ x : BitVec 32) }
  | 2 => { v with ien := (fld x 0 12 ++ fld v.ien 0 20 : BitVec 32) }
  | 3 => { v with ipend := v.ipend &&& ~~~(x.setWidth 32) }
  | 4 => { v with ipend := v.ipend &&& ~~~((fld x 0 12 ++ 0#20 : BitVec 32)) }
  | 0x1D => { v with xbase := x }
  | _ => if 8 ≤ i ∧ i < 0x18 then { v with lsrc := vset v.lsrc (ix 16 (i - 8)) (fld x 0 6) } else v

/-- A Hewer's own control word read. -/
def State.hioRead (n : Fin 16) (i : Nat) (s : State) : Word × State :=
  let h := s.hw[n]
  let plain (w : Word) : Word × State := (w, s)
  match i with
  | 0x19 => (fld s.strokeRel 0 20, s.modHio n fun h => { h with relHi := fld s.strokeRel 20 4 })
  | 0x1A => plain (h.hio.relHi.setWidth 20)
  | 0x1B => plain ((0#11 ++ bool 1 (s.frameGreen n) ++ 0#3 ++ BitVec.ofNat 5 h.cq.length : BitVec 20))
  | 0x1C => plain ((0#14 ++ bool 1 (s.lo.bothBanks n.val) ++ bool 1 h.bank ++ BitVec.ofNat 4 n.val : BitVec 20))
  | 0x20 => plain ((h.hio.pvcTable ++ 0#6 ++ h.hio.pvcIndex : BitVec 20))
  | 0x21 => s.pvcData n
  | 0x22 => plain (s.lo.pvcTd h.hio.pvcTable.toNat)
  | 0x24 => plain (h.hio.esel.setWidth 20)
  | 0x25 => plain ((s.evt.route[(ix 128 h.hio.esel.toNat)].hewers[n]).setWidth 20)
  | 0x31 => (s.sec.hewer[n].out, s.modSec fun x => { x with hewer := vmod x.hewer n (·.consume) })
  | _ => if 0x26 ≤ i ∧ i ≤ 0x2C then plain (s.estat (i - 0x26)) else plain (h.eng.vec.show i)

/-- A word of a Hewer's Chute area read (18, Hewer view). -/
def State.hewerChuteRead (n : Fin 16) (i : Nat) (s : State) : Word :=
  let k := i % 0x100 / 0x20
  let r := i % 0x20
  if i < 0x900 then
    (if r = 16 then s.chuteOutWord (hewerOut n k) else s.chu.chan[(hewerOut n k)].slot[(ix 16 r)])
  else if r = 16 then s.chuteInWord (hewerIn n k)
  else s.chuteIn (hewerIn n k) (ix 16 r)

/-- An I/O word read. -/
def State.hewerIoRead (n : Fin 16) (i : Nat) (s : State) : Word × State :=
  if i < 0x40 then s.hioRead n i
  else if 0x400 ≤ i ∧ i < 0x440 then s.semTake (BitVec.ofNat 5 n.val) (ix 64 (i - 0x400))
  else if 0x440 ≤ i ∧ i < 0x480 then (0, s)
  else if 0x800 ≤ i ∧ i < 0xA00 then (s.hewerChuteRead n i, s)
  else match hewerWin i with
    | some w => s.winRead n w
    | none => (0, s)

/-- A load's value with its tag (06 R239, 05 R212), its preconditions met. -/
def State.hewerLoad (n : Fin 16) (a : Word) (s : State) : TWord × State :=
  let plain (p : Word × State) : TWord × State := (TWord.plain p.1, p.2)
  let forwarded (f : State → Word × State) : TWord × State :=
    match s.hw[n].queued a with
    | some e => ({ val := e.val, green := e.green }, s)
    | none => plain (f s)
  match hewerPlace a with
  | .mem k => (s.hw[n].word k, s)
  | .loft w => forwarded (·.loftRead w)
  | .gal w => forwarded (·.galRead (BitVec.ofNat 5 n.val) w)
  | .rx i => match s.rxRead (.hewer n) i with
    | .ok v s => (v, s)
    | _ => (TWord.zero, s)
  | .tx i => match s.txRead (.hewer n) i with
    | .ok v s => (v, s)
    | _ => (TWord.zero, s)
  | .io i => plain (s.hewerIoRead n i)
  | .none => (TWord.zero, s)

/-! Stores. -/

/-- An own control word, or a semaphore release, written: not through the commit queue. -/
def State.hioWrite (n : Fin 16) (i : Nat) (v : Word) (s : State) : State :=
  if 0x440 ≤ i ∧ i < 0x480 then s.semRelease (BitVec.ofNat 5 n.val) (ix 64 (i - 0x440))
  else match i with
    | 0x20 => s.modHio n fun h => { h with pvcTable := fld v 16 4, pvcIndex := fld v 0 10 }
    | 0x24 => s.modHio n fun h => { h with esel := fld v 0 7 }
    | 0x25 => s.routeWrite (.hewer n) (ix 128 s.hw[n].hio.esel.toNat) .hewer (v.setWidth 32)
    | 0x30 => s.rngRequest (.hewer n)
    | _ => s.modVec (.hewer n) fun x => x.put i v

/-- A write of the queued classes takes effect now or enters the commit queue (R210, R241; 08 R319). -/
def State.sharedStore (n : Fin 16) (a : Word) (v : TWord) (src : BeatSource) (s : State) : State :=
  let h := s.hw[n]
  let e : CqEntry :=
    { addr := a, val := v.val, green := v.green || h.eng.core.ctlG, commit := !(v.green || h.eng.core.ctlG) && h.cq.all (·.commit),
      src := src, stroke := s.tb.stroke.count }
  if h.queues (Acc.store a v) then s.modHw n fun h => { h with cq := h.cq ++ [e] } else s.commitEntry n e

/-- A store, its preconditions met (06 R241). -/
def State.hewerStore (n : Fin 16) (a : Word) (v : TWord) (src : BeatSource) (s : State) : State :=
  if queuedClass a then s.sharedStore n a v src
  else match hewerPlace a with
    | .mem k => s.modHw n fun h => { h.setLocal k v with unseen := h.unseen ++ [(k, h.word k)] }
    | .rx i => match s.rxWrite (.hewer n) i with
      | .ok _ s => s
      | _ => s
    | .tx i => match s.txWrite (.hewer n) i v.val (v.green || s.hw[n].eng.core.ctlG) with
      | .ok _ s => s
      | _ => s
    | .io i => s.hioWrite n i v.val
    | _ => s

end Sys2Proof.Machine
end

