-- ==== Sys2Proof/Machine/WardenMem.lean ====
section
/-! DEFINITION. What the Warden's loads and stores reach (19, address view and Warden I/O; R687-R690; 06 R277-R280; 20 RNG_REQ),
and the accesses of either engine. -/

namespace Sys2Proof.Machine

/-- A region of the Warden's view (19, address view). -/
inductive WardenPlace
  | ram (a : Nat)
  | rom (a : Nat)
  | loft (w : Nat)
  | gal (w : Nat)
  | io (i : Nat)
  | page (k : Nat)
  | none
  deriving DecidableEq, Repr

def wardenPlace (a : Word) : WardenPlace :=
  let n := a.toNat
  if n < 0x20000 then .ram n
  else if n < 0x28000 then .rom (n - 0x20000)
  else if n < 0x30000 then .none
  else if n < 0xB0000 then .loft (n - 0x30000)
  else if n < 0xF0000 then .gal (n - 0xB0000)
  else if n < 0xF8000 then .io (n - 0xF0000)
  else .page (n - 0xF8000)

/-- Latency of an access: that of the same place in a Hewer's view (05 R189). -/
def WardenPlace.latency : WardenPlace → Nat
  | .ram _ => 0
  | .rom _ => 0
  | .loft _ => 3
  | .gal _ => 5
  | _ => 4

/-- A word of the Warden port: of the ingress window, or of the egress window that begins inside it (19, Warden I/O; log 32). -/
inductive PortWord
  | rx (i : Nat)
  | tx (i : Nat)
  deriving DecidableEq, Repr

def wardenPort (i : Nat) : Option PortWord :=
  if 0x3000 ≤ i ∧ i ≤ 0x3006 then some (.tx (i - 0x3000))
  else if 0x2000 ≤ i ∧ i ≤ 0x3808 then some (.rx (i - 0x2000))
  else none

/-- The Warden I/O word `i` has a name (19, Warden I/O). -/
def wardenNamed (i : Nat) : Bool :=
  decide (i ≤ 4) || (decide (8 ≤ i) && decide (i ≤ 0x18)) || (decide (0x1D ≤ i) && decide (i ≤ 0x22)) ||
    (decide (0x26 ≤ i) && decide (i ≤ 0x32)) || i == 0x40 || i == 0x41 || (decide (0x400 ≤ i) && decide (i < 0x480)) ||
    (decide (0x1000 ≤ i) && decide (i < 0x1280) && decide (i % 0x20 ≤ 16)) ||
    (decide (0x1400 ≤ i) && decide (i < 0x1680) && decide ((i - 0x1400) % 0x20 ≤ 16)) || (wardenPort i).isSome ||
    i == 0x4000 || i == 0x4001 || (decide (0x4010 ≤ i) && decide (i ≤ 0x4021))

/-- A Warden I/O word whose write is journalled (19, "core"). -/
def wardenCore (i : Nat) : Bool :=
  decide (i ≤ 4) || (decide (8 ≤ i) && decide (i < 0x18)) || i == 0x1D || i == 0x20 || i == 0x22

/-- A Warden I/O word whose write enters the release queue (R688; STEPQ_POP and RNG_REQ: log 33). -/
def wardenQueues (i : Nat) : Bool :=
  i == 0x18 || i == 0x26 || i == 0x31 || i == 0x40 || (decide (0x440 ≤ i) && decide (i < 0x480)) ||
    (decide (0x1000 ≤ i) && decide (i < 0x1680)) || (wardenPort i).isSome || i == 0x4000 || i == 0x4001 ||
    (decide (0x4010 ≤ i) && decide (i ≤ 0x4020))

/-- A Window A register whose read consumes (17 R649, FIFO pops). -/
def consumesReg (off : Nat) : Bool :=
  off == 0x1090 || off == 0x10A0 || (decide (0x10000 ≤ off) && decide (off < 0x16000) && off % 0x1000 == 0x010) || off == 0x10F1C ||
    (decide (0x28000 ≤ off) && decide (off < 0x28800) && off % 0x40 == 4) ||
    (decide (0x2C000 ≤ off) && decide (off < 0x2CC00) && [0x28, 0x30, 0x34, 0x44].contains (off % 0x400)) ||
    off == 0x34008 || off == 0x34044 || off == 0x3C244 || off == 0x3C284

/-- Offset of word `k` of the Window A page (19, APAGE). -/
def Wdn.pageOff (w : Wdn) (k : Nat) : Nat := 0x20000 * fldN w.apage 0 3 + 4 * k

/-- The page presents bits 31:20. -/
def Wdn.high (w : Wdn) : Bool := bit w.apage 3

/-- What a write, or a consuming read, of a word of the outside is queued as (R688, R689). -/
def Wdn.target (w : Wdn) (a : Word) : WTarget :=
  match wardenPlace a with
  | .page k => if w.high then .high (w.pageOff k) else .reg (w.pageOff k)
  | _ => .word a

/-- The Loft word lies in the region of a present Hewer (R687). -/
def Layout.regionOf (L : Layout) (w : Nat) : Bool :=
  (List.range 16).any fun n => L.present n && decide (L.loftBase n ≤ w) && decide (w < L.loftBase n + L.loftSize n)

/-- An access of the Warden faults (R687). -/
def State.wardenDenied (s : State) (a : Acc) : Bool :=
  match wardenPlace a.addr with
  | .ram k => a.writes && decide (k < s.wdn.codeWords)
  | .rom _ => a.writes
  | .loft w => a.writes && s.lo.regionOf w
  | .gal _ => false
  | .io i => !wardenNamed i || (!a.writes && decide (0x400 ≤ i) && decide (i < 0x440))
  | .page _ => false
  | .none => true

/-- The access joins the release queue: a write to the outside, or a consuming read (R688, R689). -/
def Wdn.leaves (w : Wdn) (a : Acc) : Bool :=
  match wardenPlace a.addr with
  | .loft _ => a.writes
  | .gal _ => a.writes
  | .io i => if a.writes then wardenQueues i else i == 0x41 || i == 0x3006
  | .page k => a.writes || (!w.high && consumesReg (w.pageOff k))
  | _ => false

/-- Journal entries of a store (R688). -/
def Wdn.entries (w : Wdn) (a : Acc) : Nat :=
  match a.val, wardenPlace a.addr with
  | some _, .ram _ => 1
  | some v, .io i =>
    if i = 3 then ones ((v.val.setWidth 32) &&& w.eng.vec.ipend)
    else if i = 4 then ones ((fld v.val 0 12 ++ 0#20 : BitVec 32) &&& w.eng.vec.ipend)
    else if wardenCore i then 1 else 0
  | _, _ => 0

/-- A Warden load that the list hold keeps waiting (07 R306). -/
def State.wardenWait (s : State) (a : Acc) : Option StallKind :=
  match wardenPlace a.addr, a.val with
  | .loft w, none => if s.loftHeld w then some .listHold else none
  | .io i, none => match wardenPort i with
    | some (.rx j) => match s.rxRead .warden j with
      | .stall k => some k
      | _ => none
    | _ => none
  | _, _ => none

/-- What an access of the Warden is charged for as it executes: writes are charged at their release (R690). -/
def wardenBeat (a : Acc) : Option BeatKind :=
  match wardenPlace a.addr with
  | .loft _ => if a.writes then none else some .loft
  | .gal _ => if a.writes then none else some .gal
  | _ => none

/-- The Warden's accesses of one instruction, before any has an effect: ACCESS, JOURNAL, the journal's end, RELEASE_FULL, waits and
beats, in that order (06 R262, R277-R280). -/
def State.wardenPrep (as : List Acc) (s : State) : Ran (List BeatSource) :=
  let w := s.wdn
  let n := (as.map w.entries).sum
  let level := w.level
  let out := as.filter w.leaves
  match as.find? s.wardenDenied with
  | some a => .trap 2 a.addr s
  | none =>
    if level < 2016 ∧ 2016 ≤ level + n then .trap 4 (BitVec.ofNat 20 level) s
    else if 2048 < level + n ∧ 0 < n then .restart 3 s
    else match out with
      | a :: _ =>
        if 64 < relLevel w.relq + out.length then .trap 5 a.addr s
        else match as.findSome? s.wardenWait with
          | some k => .stall k 0 none s
          | none => State.payBeats .warden 0 (as.map wardenBeat) s
      | [] => match as.findSome? s.wardenWait with
        | some k => .stall k 0 none s
        | none => State.payBeats .warden 0 (as.map wardenBeat) s

/-! Loads. -/

/-- The state as the device would have it, had the queued consumptions of `t` already taken effect (R689). -/
def State.consumed (t : WTarget) (f : State → State) (s : State) : State :=
  (s.wdn.relq.countP fun e => e == REntry.consume t).repeat f s

/-- A consuming read: the value at once, the consumption queued; what the read latches it latches at once (R646, R689). -/
def State.consuming (t : WTarget) (f : State → BitVec 32 × State) (s : State) : BitVec 32 × State :=
  let (v, u) := f (s.consumed t fun s => (f s).2)
  (v, ({ s with free := u.free, host := { s.host with shadow := u.host.shadow } } : State).relStore (.consume t))

/-- RNG_OUT of the Warden read (20). -/
def State.wardenRng (s : State) : BitVec 32 × State :=
  (s.sec.wdn.out.setWidth 32, s.modSec fun x => { x with wdn := x.wdn.consume })

/-- Reader of the Warden's latches of bits 31:20, and of its held writes of them (05 R191). -/
def highReader : Nat := 18
def heldReader : Nat := 19

/-- A word of the Window A page read (R689, 05 R191). -/
def State.pageRead (off : Nat) (s : State) : BitVec 32 × State :=
  if s.wdn.high then (s.latched highReader off, s)
  else
    let read (s : State) : BitVec 32 × State := s.readA .warden off
    let (v, s) := if consumesReg off then s.consuming (.reg off) read else read s
    (fld v 0 20 |>.setWidth 32, s.latch highReader off (at32 (fld v 20 12) 0))

/-- Step-queue head: four old and four new time words (02 R53). -/
def State.stepqWord (s : State) (j : Nat) : Word :=
  match s.tb.regs.stepq with
  | [] => 0
  | e :: _ => if j < 4 then word80 e.1 j else word80 e.2 (j - 4)

/-- HBELL: bit n is set while channel 152 + n is FULL. -/
def State.hbell (s : State) : BitVec 20 :=
  (List.range 16).foldl (fun v n => setBit v n (s.chu.chan[(ix 168 (152 + n))].st == .full)) 0

/-- Word `r` of an outgoing, and of an incoming, channel of the Warden read (18). -/
def State.wardenOutRead (s : State) (c : Fin 168) (r : Nat) : Word :=
  if r = 16 then s.chuteOutWord c else s.chu.chan[c].slot[(ix 16 r)]
def State.wardenInRead (s : State) (c : Fin 168) (r : Nat) : Word := if r = 16 then s.chuteInWord c else s.chuteIn c (ix 16 r)

/-- A word of the Warden's Chutes read. -/
def State.wardenChuteRead (s : State) (i : Nat) : Word :=
  if i < 0x1400 then s.wardenOutRead (wardenOut ((i - 0x1000) / 0x20)) (i % 0x20)
  else s.wardenInRead (wardenIn ((i - 0x1400) / 0x20)) ((i - 0x1400) % 0x20)

/-- A Warden I/O word read. -/
def State.wardenIoRead (i : Nat) (s : State) : Word × State :=
  let plain (w : Word) : Word × State := (w, s)
  match i with
  | 0x18 => plain 0
  | 0x20 => plain (s.wdn.apage.setWidth 20)
  | 0x21 => plain (fld s.wdn.restart.word 0 20)
  | 0x22 => plain (s.wdn.limit.setWidth 20)
  | 0x27 => plain (BitVec.ofNat 20 s.tb.regs.stepq.length)
  | 0x30 => plain s.hbell
  | 0x32 => plain (s.wdn.swapRes.setWidth 20)
  | 0x41 =>
    let (v, s) := s.consuming (.word 0xF0041) (·.wardenRng)
    (fld v 0 20, s)
  | 0x3006 =>
    let read (s : State) : BitVec 32 × State := match s.txRead .warden 6 with
      | .ok v s => (v.val.setWidth 32, s)
      | _ => (0, s)
    let (v, s) := s.consuming (.word 0xF3006) read
    (fld v 0 20, s)
  | 0x4021 => plain ((bool 20 s.wdn.fcmd.isSome) ||| (bool 20 s.wdn.flocked <<< 1) ||| (bool 20 s.wdn.ferror <<< 2))
  | _ =>
    if i < 0x18 ∨ (0x1D ≤ i ∧ i < 0x20) then plain (s.wdn.eng.vec.show i)
    else if 0x28 ≤ i ∧ i < 0x30 then plain (s.stepqWord (i - 0x28))
    else if 0x1000 ≤ i ∧ i < 0x1680 then plain (s.wardenChuteRead i)
    else match wardenPort i with
      | some (.rx j) => match s.rxRead .warden j with
        | .ok v s => (v.val, s)
        | _ => (0, s)
      | some (.tx j) => match s.txRead .warden j with
        | .ok v s => (v.val, s)
        | _ => (0, s)
      | none => plain 0

/-- A load of the Warden, its preconditions met; its tags are always 0 (06 R245). -/
def State.wardenLoad (a : Word) (s : State) : TWord × State :=
  let plain (p : Word × State) : TWord × State := (TWord.plain p.1, p.2)
  match wardenPlace a with
  | .ram k => plain (memRead 0 s.wdn.ram k, s)
  | .rom k => plain (Config.romWord k, s)
  | .loft w => plain (s.loftRead w)
  | .gal w => plain (s.galRead 16 w)
  | .io i => plain (s.wardenIoRead i)
  | .page k =>
    let (v, s) := s.pageRead (s.wdn.pageOff k)
    (TWord.plain (fld v 0 20), s)
  | .none => (TWord.zero, s)

/-! Stores. -/

/-- Pending bits cleared, one entry each (R688). -/
def Wdn.clearPend (m : BitVec 32) (w : Wdn) : Wdn :=
  (List.finRange 32).foldl (fun w v =>
    if bit m v.val && bit w.eng.vec.ipend v.val then
      { w.record (.pend v) with eng := { w.eng with vec := { w.eng.vec with ipend := setBit w.eng.vec.ipend v.val false } } }
    else w) w

/-- CKPT_LIMIT as stored: 0 as 1; the manual gives no result above 100 (log 34). -/
def State.limitStored (v : Word) (s : State) : BitVec 7 × State :=
  let x : BitVec 7 := fld v 0 7
  if x = 0 then (1, s) else if x.toNat ≤ 100 then (x, s) else (s.freeVal 7, s.drawn)

/-- A "core" word written, with its entry. -/
def State.coreWrite (i : Nat) (v : Word) (s : State) : State :=
  let a : Word := BitVec.ofNat 20 (0xF0000 + i)
  let rec_ (old : Word) (w : Wdn) : Wdn := w.record (.io a old)
  match i with
  | 3 => s.modWdn (·.clearPend (v.setWidth 32))
  | 4 => s.modWdn (·.clearPend (fld v 0 12 ++ 0#20 : BitVec 32))
  | 0x20 => s.modWdn fun w => { rec_ (w.apage.setWidth 20) w with apage := fld v 0 4 }
  | 0x22 =>
    let (x, s) := s.limitStored v
    s.modWdn fun w => { rec_ (w.limit.setWidth 20) w with limit := x }
  | _ => s.modWdn fun w => let u := rec_ (w.eng.vec.show i) w; { u with eng := { u.eng with vec := u.eng.vec.put i v } }

/-- A store of the Warden, its preconditions met (R688). -/
def State.wardenStore (a v : Word) (s : State) : State :=
  match wardenPlace a with
  | .ram k => s.modWdn (·.setRam k v)
  | .io i => if wardenCore i then s.coreWrite i v else if wardenQueues i then s.relStore (.write (.word a) v) else s
  | .loft _ => s.relStore (.write (s.wdn.target a) v)
  | .gal _ => s.relStore (.write (s.wdn.target a) v)
  | .page _ => s.relStore (.write (s.wdn.target a) v)
  | _ => s

/-! Either engine. -/

/-- Latency of the place that an address names (05 R189). -/
def latencyOf (e : EngineId) (a : Word) : Nat :=
  match e with
  | .hewer _ => (hewerPlace a).latency
  | .warden => (wardenPlace a).latency

/-- The address lies in a bank of the Loft or the Gallery, for which others contend (05 R189). -/
def isBanked (e : EngineId) (a : Word) : Bool := latencyOf e a == 3 || latencyOf e a == 5

/-- Cycles that an access adds to its instruction: the latency, and the contention of a bank (05 R189, 07 R282). -/
def State.accessCycles (s : State) (e : EngineId) (a : Word) : Nat :=
  latencyOf e a + if isBanked e a then Config.contention s.tb.clk.cycles (engAct e).val a.toNat else 0

/-- The address lies in the engine's own local memory or RAM: no added latency, and the block rate of 07 R298. -/
def isLocal (e : EngineId) (a : Word) : Bool := latencyOf e a == 0

def State.prep (e : EngineId) (as : List Acc) (s : State) : Ran (List BeatSource) :=
  match e with
  | .hewer n => s.hewerPrep n as
  | .warden => s.wardenPrep as

def State.load (e : EngineId) (a : Word) (s : State) : TWord × State :=
  match e with
  | .hewer n => s.hewerLoad n a
  | .warden => s.wardenLoad a

def State.store (e : EngineId) (a : Word) (v : TWord) (src : BeatSource) (s : State) : State :=
  match e with
  | .hewer n => s.hewerStore n a v src
  | .warden => s.wardenStore a v.val

end Sys2Proof.Machine
end

