-- ==== Sys2Proof/Machine/AhfCore.lean ====
section
/-! DEFINITION. How an Ahneafin engine executes (06, Behaviour; 03 R91, R100; 05 States, R224): when it may, instruction fetch,
interrupt entry, exception entry, and what the end of an instruction does. -/

namespace Sys2Proof.Machine

/-- An instruction that ends well: where execution goes (none: the next instruction), its cycles, and whether it is a block
instruction that still has words to do. -/
structure Done where
  pc    : Option Word
  cyc   : Nat
  block : Bool

/-- An instruction: its words, whether its operands are legal (06 R254, 07 R285), and its operation. -/
structure Ahf where
  enc   : Enc
  legal : Bool
  body  : State → Ran Done

/-- The operation ends after `cyc` cycles, at the next instruction. -/
def finish (cyc : Nat) (s : State) : Ran Done := .ok ⟨none, cyc, false⟩ s

/-! When an engine executes. -/

/-- The engine executes instructions (05, States; 03 R105): a yielded one only in a handler. -/
def State.executes (s : State) (e : EngineId) : Bool :=
  match e with
  | .hewer n => (s.hw[n].st == .running || (s.hw[n].st == .yielded && decide (s.hw[n].eng.core.lvl.toNat < 32))) && s.unitOn (4 + n.val)
  | .warden => s.wardenRuns && !s.sbu.act[actWarden].parked && !(s.wdn.eng.core.mark && decide (32 ≤ s.wdn.eng.core.lvl.toNat))

/-- It takes vectors, yielded too (05, States). -/
def State.listens (s : State) (e : EngineId) : Bool :=
  match e with
  | .hewer n => s.hw[n].executing && s.unitOn (4 + n.val)
  | .warden => s.wardenRuns && !s.sbu.act[actWarden].parked

/-- The engine is a Hewer in HALTED: what it executes, STEP executes (05 R218). -/
def State.stepped (s : State) (e : EngineId) : Bool :=
  match e with
  | .hewer n => s.hw[n].st == .halted
  | .warden => false

/-- Compute is left: without it the engine parks first (03 R100). -/
def State.hasCompute (s : State) (e : EngineId) : Bool :=
  !s.tb.stroke.running || decide (0 < s.sbu.act[(engAct e)].cpu) || s.stepped e

/-- The pending, enabled vector of highest priority below L (06 R256, 05). -/
def Eng.dueAny (x : Eng) : Option (Fin 32) :=
  (List.finRange 32).find? fun v => bit x.vec.ipend v.val && bit x.vec.ien v.val && decide (v.val < x.core.lvl.toNat)

/-- The vector that the next interrupt point takes (06 R256). -/
def Eng.due (x : Eng) : Option (Fin 32) := if x.core.ie then x.dueAny else none

/-- The next instruction may be executed: no vector comes before it, and none is stalled. -/
def State.ready (s : State) (e : EngineId) : Bool :=
  s.executes e && s.hasCompute e && (s.eng e).stall.isNone && (s.eng e).due.isNone

/-- Compute charged to an engine (03 R91; none in HALTED, 05 R213); the Warden's executed cycles count towards CKPT_LIMIT
(19 R696). -/
def State.charge (e : EngineId) (k : Nat) (s : State) : State :=
  match e with
  | .hewer n => if s.hw[n].st == .halted then s else s.compute (actHewer n) k
  | .warden => (s.compute actWarden k).modWdn fun w => { w with age := w.age + k }

/-! Fetch (06 R248, R249; 19 R687). -/

/-- A word that may not be fetched. -/
def State.noFetch (s : State) (e : EngineId) (a : Word) : Bool :=
  match e with
  | .hewer n =>
    let k := a.toNat
    if k < 0x4000 ∨ (k < 0x8000 ∧ s.lo.bothBanks n.val) then (s.hw[n].fetchWord k).green else true
  | .warden => !(decide (a.toNat < s.wdn.codeWords) || (decide (0x20000 ≤ a.toNat) && decide (a.toNat < 0x28000)))

/-- The word whose fetch faults. -/
def State.fetchFault (s : State) (e : EngineId) (long : Bool) : Option Word :=
  let pc := (s.eng e).core.pc
  if s.noFetch e pc then some pc else if long && s.noFetch e (pc + 1) then some (pc + 1) else none

/-! Entry to a vector or an exception (06 R257, R262). -/

/-- The status word of a frame (06, status bits). -/
def Core.status (c : Core) (exc : Bool) : Word :=
  (0#6 ++ bool 1 c.ie ++ bool 1 exc ++ bool 1 c.mark ++ c.lvl ++ bool 1 c.fl.n ++ bool 1 c.fl.z ++ bool 1 c.fl.c ++ bool 1 c.fl.v
    ++ bool 1 c.fl.g : BitVec 20)

/-- A word that entries may push to: the local memory the image owns; RAM outside the code region (06 R264, R265). -/
def State.pushable (s : State) (e : EngineId) (a : Word) : Bool :=
  match e with
  | .hewer n => decide (a.toNat < 0x4000) || (decide (a.toNat < 0x8000) && s.lo.bothBanks n.val)
  | .warden => decide (a.toNat < 0x20000) && decide (s.wdn.codeWords ≤ a.toNat)

def State.pushWord (e : EngineId) (a : Word) (v : TWord) (s : State) : State :=
  match e with
  | .hewer n => s.modHw n (·.setLocal a.toNat v)
  | .warden => s.modWdn (·.setRam a.toNat v.val)

/-- Steps 1 to 3 of an entry (06 R257); none when a push faults. -/
def State.pushFrame (e : EngineId) (ret : Word) (exc : Bool) (s : State) : Option State :=
  let c := (s.eng e).core
  let sp := c.w[14] - 2
  if s.pushable e sp && s.pushable e (sp + 1) then
    let s := s.pushWord e sp { val := ret, green := false }
    let s := s.pushWord e (sp + 1) { val := c.status exc, green := c.fl.g }
    some (s.modCore e fun c => { c with w := vset c.w 14 sp })
  else none

/-- What `k` journal entries of an entry meet: none, the JOURNAL exception before them (06 R277), or a restart in their place (06
R279). A Hewer has no journal. -/
inductive JournalTest | room | trap | full
  deriving DecidableEq, Repr

def State.journalTest (e : EngineId) (k : Nat) (s : State) : JournalTest :=
  match e with
  | .hewer _ => .room
  | .warden =>
    let level := s.wdn.level
    if 2048 < level + k then .full else if level < 2016 ∧ 2016 ≤ level + k then .trap else .room

/-- An exception that cannot be entered: a fault, or a management restart (06 R264, R265). -/
def State.engFault (e : EngineId) (cause : BitVec 4) (s : State) : State :=
  match e with
  | .hewer n => s.hewerFault n cause
  | .warden => s.restart 2 0

/-- XCAUSE and XADDR (06 R262); the journal keeps the Warden's for a rollback. -/
def State.setCause (e : EngineId) (cause : BitVec 4) (detail : Word) (s : State) : State :=
  let s : State := match e with
    | .warden => s.modWdn fun w => w.record (.cause w.eng.vec.xcause w.eng.vec.xaddr)
    | .hewer _ => s
  s.modVec e fun v => { v with xcause := cause, xaddr := detail }

/-- The entry of an exception (06 R262-R265). -/
def State.enterExc (e : EngineId) (cause : BitVec 4) (detail : Word) (s : State) : State :=
  let s := s.modEng e (·.still)
  let x := s.eng e
  if x.vec.xbase = 0 then s.engFault e 1
  else match s.pushFrame e (if cause = 3 then x.core.pc + 1 else x.core.pc) true with
    | none => s.engFault e 2
    | some s => ((s.setCause e cause detail).modCore e fun c => { c with pc := x.vec.xbase }).charge e 8

/-- An exception is taken; HWC.ACC_CNT counts access faults (05). Where its two pushes would take the journal to 2,016, JOURNAL comes
before it (06 R277), where they would exceed 2,048, a restart (06 R279). -/
def State.exception (e : EngineId) (cause : BitVec 4) (detail : Word) (s : State) : State :=
  let s : State := match e with
    | .hewer n => if cause = 2 then s.accCount n else s
    | .warden => s
  match s.journalTest e 2 with
  | .full => s.restart 3 0
  | .trap => if cause = 4 then s.enterExc e cause detail else s.enterExc e 4 (BitVec.ofNat 20 s.wdn.level)
  | .room => s.enterExc e cause detail

/-- A vector's pending bit is cleared; the Warden's clear is journalled (06 R257, 19 R688). -/
def State.takePend (e : EngineId) (v : Fin 32) (s : State) : State :=
  match e with
  | .hewer n => s.modHw n fun h => { h with eng := { h.eng with vec := { h.eng.vec with ipend := setBit h.eng.vec.ipend v.val false } } }
  | .warden => s.modWdn (·.clearPend (1#32 <<< v.val))

/-- Vector `v` is taken: a stalled instruction is abandoned, a WAIT is complete (06 R257, R268; 07 R309). -/
def State.takeVector (e : EngineId) (v : Fin 32) (s : State) : State :=
  let s := s.billStall e
  let waited : Bool := match (s.eng e).stall with
    | some x => x.kind == .wait
    | none => false
  let s := s.modEng e (·.still)
  let x := s.eng e
  match s.pushFrame e (if waited then x.core.pc + 1 else x.core.pc) false with
  | none => s.engFault e 2
  | some s =>
    let s := (s.takePend e v).modCore e fun c => { c with lvl := BitVec.ofNat 6 v.val, pc := x.vec.vbase + BitVec.ofNat 20 (2 * v.val) }
    s.charge e (if waited then 9 else 8)

/-- Vector `v` is due: it is taken, unless its three journal entries are more than the journal takes (06 R277, R279). -/
def State.interrupt (e : EngineId) (v : Fin 32) (s : State) : State :=
  match s.journalTest e 3 with
  | .full => s.restart 3 0
  | .trap => (s.modEng e (·.still)).enterExc e 4 (BitVec.ofNat 20 s.wdn.level)
  | .room => s.takeVector e v

def execInterruptEntry (e : EngineId) (v : Fin 32) (s : State) : Host.Outcome State Fault Refusal :=
  .next (if s.listens e && s.hasCompute e && !(s.eng e).slackWait && (s.eng e).due == some v then s.interrupt e v else s)

/-- Causes an engine has (06, exception table). -/
def causeOf (e : EngineId) (cause : BitVec 4) : Bool :=
  decide (1 ≤ cause.toNat) && decide (cause.toNat ≤ (match e with
    | .hewer _ => 3
    | .warden => 5))

def execExceptionEntry (e : EngineId) (cause : BitVec 4) (detail : Word) (s : State) : Host.Outcome State Fault Refusal :=
  .next (if s.executes e && s.hasCompute e && (s.eng e).stall.isNone && causeOf e cause then s.exception e cause detail else s)

/-! Instructions. -/

/-- What the end of an operation of instruction `i` does: PC and cycles, an exception, a stall, or a management restart. -/
def Ran.settle (e : EngineId) (i : Instr) (len : Word) (r : Ran Done) : State :=
  match r with
  | .ok d s =>
    (s.modEng e fun x => { x with core := { x.core with pc := d.pc.getD (x.core.pc + len) }, block := d.block, paid := 0, tries := 0 }).charge e d.cyc
  | .trap c detail s => s.exception e c detail
  | .stall k p h s => s.modEng e fun x => { x with stall := some ⟨k, i, p, h⟩, paid := 0, since := s.tb.clk.cycles }
  | .restart c s => s.restart c 0

/-- An instruction has been fetched: later fetches see the stores made before it (06 R250). -/
def State.fetched (e : EngineId) (s : State) : State :=
  match e with
  | .hewer n => s.modHw n fun h => { h with unseen := [] }
  | .warden => s

/-- The instruction at the PC is executed: fetched, checked, then its operation (06 R248, R249, R254). -/
def State.runBody (e : EngineId) (i : Instr) (x : Ahf) (s : State) : State :=
  match s.fetchFault e x.enc.long with
  | some a => s.exception e 2 a
  | none =>
    let s := s.fetched e
    if x.legal then (x.body s).settle e i (if x.enc.long then 2 else 1) else s.exception e 1 x.enc.first

/-- An engine that may executes the instruction. -/
def State.runAhf (e : EngineId) (i : Instr) (x : Ahf) (s : State) : State := if s.ready e then s.runBody e i x else s

/-! Parts of operations. -/

/-- A register operation: it changes the core alone. -/
def regBody (e : EngineId) (cyc : Nat) (f : Core → Core) (s : State) : Ran Done := finish cyc (s.modCore e f)

/-- One load: its preconditions, then its value (06 R239). -/
def loadOne (e : EngineId) (a : Word) (s : State) : Ran TWord :=
  (s.prep e [Acc.load a]).bind fun _ s =>
    let (v, s) := s.load e a
    .ok v s

/-- One store. -/
def storeOne (e : EngineId) (a : Word) (v : TWord) (s : State) : Ran Unit :=
  (s.prep e [Acc.store a v]).bind fun bs s => .ok () (s.store e a v (bs.headD .none))

/-- A pair load: both words are reachable before either is read (06 R247). -/
def loadTwo (e : EngineId) (a : Word) (s : State) : Ran (TWord × TWord) :=
  (s.prep e [Acc.load a, Acc.load (a + 1)]).bind fun _ s =>
    let (v, s) := s.load e a
    let (u, s) := s.load e (a + 1)
    .ok (v, u) s

/-- A pair store: both or neither (06 R247). -/
def storeTwo (e : EngineId) (a : Word) (v u : TWord) (s : State) : Ran Unit :=
  (s.prep e [Acc.store a v, Acc.store (a + 1) u]).bind fun bs s =>
    .ok () ((s.store e a v (bs.headD .none)).store e (a + 1) u ((bs.drop 1).headD .none))

end Sys2Proof.Machine
end

