-- ==== Sys2Proof/Machine/AhfArith.lean ====
section
/-! DEFINITION. Ahneafin: arithmetic and logic (07 R288). Each instruction has its words, its legal operands and its operation
(`ahf…`), which the command runs on the engine it names (`exec…`). -/

namespace Sys2Proof.Machine

/-! Shapes. -/

/-- A two-register operation on the core. -/
def ahfS2 (e : EngineId) (op : BitVec 8) (cyc : Nat) (rd rs : Fin 16) (f : Core → Core) : Ahf := ⟨encS2 op rd rs, true, regBody e cyc f⟩

/-- A small-immediate operation, with the condition on its immediate. -/
def ahfSI (e : EngineId) (op : BitVec 4) (ok : Bool) (f : SI) (g : Core → Core) : Ahf := ⟨encSI op f, ok, regBody e 1 g⟩

/-- A 20-bit immediate operation. -/
def ahfLI (e : EngineId) (op : BitVec 8) (ok : Bool) (f : LI) (g : Core → Core) : Ahf := ⟨encLI op f, ok, regBody e 2 g⟩

/-- A long three-register operation. -/
def ahfL3 (e : EngineId) (op : BitVec 8) (cyc : Nat) (ok : Bool) (f : L3) (g : Core → Core) : Ahf := ⟨encL3 op f, ok, regBody e cyc g⟩

/-- rd ← an operation of a and b, with new flags; the tag is the OR of the operands', with G where the flags are read (06 R240). -/
def binOp (flags : Bool) (f : R2) (g : Flags → Word → Word → Bool → Word × Flags) (c : Core) : Core :=
  let t := (c.reg f.a).green || (c.reg f.b).green || (flags && c.fl.g)
  let x := g c.fl (c.reg f.a).val (c.reg f.b).val t
  (c.put f.dst { val := x.1, green := t }).setFl x.2

/-- A shared S2 and L3 operation, in 1 or 2 cycles. -/
def ahfR2 (e : EngineId) (op : BitVec 8) (flags : Bool) (f : R2) (g : Flags → Word → Word → Bool → Word × Flags) : Ahf :=
  ⟨encR2 op f, f.legal, regBody e f.cyc (binOp flags f g)⟩

/-- rd ← v with N Z G. -/
def Core.logicTo (r : Fin 16) (v : Word) (g : Bool) (c : Core) : Core := (c.put r { val := v, green := g }).setFl (c.fl.logic v g)

/-- dd ← v with N Z G. -/
def Core.pairTo (r : Fin 16) (v : BitVec 40) (g : Bool) (c : Core) : Core := (c.putPair r v g).setFl (c.fl.logic v g)

/-! Instructions (R288). -/

/-- MOV rd, rs: rd ← rs. -/
def ahfMov (e : EngineId) (rd : Fin 16) (rs : Fin 16) : Ahf :=
  ahfS2 e 0x00 1 rd rs fun c => c.put rd (c.reg rs)

def execMov (e : EngineId) (rd : Fin 16) (rs : Fin 16) (s : State) : Host.Outcome State Fault Refusal :=
  .next (s.runAhf e (.mov e rd rs) (ahfMov e rd rs))

/-- MOVD dd, ds: dd ← ds. -/
def ahfMovd (e : EngineId) (rd : Fin 16) (rs : Fin 16) : Ahf :=
  ⟨encS2 0x1A rd rs, evenReg rd && evenReg rs, regBody e 1 fun c => c.putPair rd (c.pairVal rs) (c.pairTag rs)⟩

def execMovd (e : EngineId) (rd : Fin 16) (rs : Fin 16) (s : State) : Host.Outcome State Fault Refusal :=
  .next (s.runAhf e (.movd e rd rs) (ahfMovd e rd rs))

/-- MOVQ rd, #u8: rd ← IMM8, zero-extended. -/
def ahfMovq (e : EngineId) (f : SI) : Ahf :=
  ahfSI e 0 true f fun c => c.put f.rd (TWord.plain (f.imm.setWidth 20))

def execMovq (e : EngineId) (f : SI) (s : State) : Host.Outcome State Fault Refusal :=
  .next (s.runAhf e (.movq e f) (ahfMovq e f))

/-- MOVI rd, #i20: rd ← IMM20; RS is zero. -/
def ahfMovi (e : EngineId) (f : LI) : Ahf :=
  ahfLI e 0x10 (f.rs == 0) f fun c => c.put f.rd (TWord.plain f.imm)

def execMovi (e : EngineId) (f : LI) (s : State) : Host.Outcome State Fault Refusal :=
  .next (s.runAhf e (.movi e f) (ahfMovi e f))

/-- ADD: rd ← a + b. -/
def ahfAdd (e : EngineId) (f : R2) : Ahf :=
  ahfR2 e 0x01 false f fun _ a b g => let x := addC a b false; (x.1, Flags.arith x g)

def execAdd (e : EngineId) (f : R2) (s : State) : Host.Outcome State Fault Refusal :=
  .next (s.runAhf e (.add e f) (ahfAdd e f))

/-- ADC: rd ← a + b + C; its tag includes G. -/
def ahfAdc (e : EngineId) (f : R2) : Ahf :=
  ahfR2 e 0x02 true f fun fl a b g => let x := addC a b fl.c; (x.1, Flags.arith x g)

def execAdc (e : EngineId) (f : R2) (s : State) : Host.Outcome State Fault Refusal :=
  .next (s.runAhf e (.adc e f) (ahfAdc e f))

/-- SUB: rd ← a − b. -/
def ahfSub (e : EngineId) (f : R2) : Ahf :=
  ahfR2 e 0x03 false f fun _ a b g => let x := subC a b true; (x.1, Flags.arith x g)

def execSub (e : EngineId) (f : R2) (s : State) : Host.Outcome State Fault Refusal :=
  .next (s.runAhf e (.sub e f) (ahfSub e f))

/-- SBC: rd ← a − b − (1 − C); its tag includes G. -/
def ahfSbc (e : EngineId) (f : R2) : Ahf :=
  ahfR2 e 0x04 true f fun fl a b g => let x := subC a b fl.c; (x.1, Flags.arith x g)

def execSbc (e : EngineId) (f : R2) (s : State) : Host.Outcome State Fault Refusal :=
  .next (s.runAhf e (.sbc e f) (ahfSbc e f))

/-- CMP rd, rs: the flags of rd − rs. -/
def ahfCmp (e : EngineId) (rd : Fin 16) (rs : Fin 16) : Ahf :=
  ahfS2 e 0x05 1 rd rs fun c => c.setFl (Flags.arith (subC (c.reg rd).val (c.reg rs).val true) ((c.reg rd).green || (c.reg rs).green))

def execCmp (e : EngineId) (rd : Fin 16) (rs : Fin 16) (s : State) : Host.Outcome State Fault Refusal :=
  .next (s.runAhf e (.cmp e rd rs) (ahfCmp e rd rs))

/-- NEG rd, rs: rd ← 0 − rs. -/
def ahfNeg (e : EngineId) (rd : Fin 16) (rs : Fin 16) : Ahf :=
  ahfS2 e 0x0A 1 rd rs fun c =>
    let x := subC 0 (c.reg rs).val true
    (c.put rd { val := x.1, green := (c.reg rs).green }).setFl (Flags.arith x (c.reg rs).green)

def execNeg (e : EngineId) (rd : Fin 16) (rs : Fin 16) (s : State) : Host.Outcome State Fault Refusal :=
  .next (s.runAhf e (.neg e rd rs) (ahfNeg e rd rs))

/-- ADDI rd, rs, #i20: rd ← rs + IMM20. -/
def ahfAddi (e : EngineId) (f : LI) : Ahf :=
  ahfLI e 0x01 true f fun c =>
    let x := addC (c.reg f.rs).val f.imm false
    (c.put f.rd { val := x.1, green := (c.reg f.rs).green }).setFl (Flags.arith x (c.reg f.rs).green)

def execAddi (e : EngineId) (f : LI) (s : State) : Host.Outcome State Fault Refusal :=
  .next (s.runAhf e (.addi e f) (ahfAddi e f))

/-- ADDQ rd, #s8: rd ← rd + IMM8, sign-extended. -/
def ahfAddq (e : EngineId) (f : SI) : Ahf :=
  ahfSI e 1 true f fun c =>
    let x := addC (c.reg f.rd).val (f.imm.signExtend 20) false
    (c.put f.rd { val := x.1, green := (c.reg f.rd).green }).setFl (Flags.arith x (c.reg f.rd).green)

def execAddq (e : EngineId) (f : SI) (s : State) : Host.Outcome State Fault Refusal :=
  .next (s.runAhf e (.addq e f) (ahfAddq e f))

/-- CMPI rd, #i20: the flags of rd − IMM20; RS is zero. -/
def ahfCmpi (e : EngineId) (f : LI) : Ahf :=
  ahfLI e 0x05 (f.rs == 0) f fun c => c.setFl (Flags.arith (subC (c.reg f.rd).val f.imm true) (c.reg f.rd).green)

def execCmpi (e : EngineId) (f : LI) (s : State) : Host.Outcome State Fault Refusal :=
  .next (s.runAhf e (.cmpi e f) (ahfCmpi e f))

/-- CMPQ rd, #s8: the flags of rd − IMM8, sign-extended. -/
def ahfCmpq (e : EngineId) (f : SI) : Ahf :=
  ahfSI e 2 true f fun c => c.setFl (Flags.arith (subC (c.reg f.rd).val (f.imm.signExtend 20) true) (c.reg f.rd).green)

def execCmpq (e : EngineId) (f : SI) (s : State) : Host.Outcome State Fault Refusal :=
  .next (s.runAhf e (.cmpq e f) (ahfCmpq e f))

/-- AND: rd ← a and b. -/
def ahfAnd (e : EngineId) (f : R2) : Ahf :=
  ahfR2 e 0x06 false f fun fl a b g => (a &&& b, fl.logic (a &&& b) g)

def execAnd (e : EngineId) (f : R2) (s : State) : Host.Outcome State Fault Refusal :=
  .next (s.runAhf e (.and e f) (ahfAnd e f))

/-- OR: rd ← a or b. -/
def ahfOr (e : EngineId) (f : R2) : Ahf :=
  ahfR2 e 0x07 false f fun fl a b g => (a ||| b, fl.logic (a ||| b) g)

def execOr (e : EngineId) (f : R2) (s : State) : Host.Outcome State Fault Refusal :=
  .next (s.runAhf e (.or e f) (ahfOr e f))

/-- XOR: rd ← a xor b. -/
def ahfXor (e : EngineId) (f : R2) : Ahf :=
  ahfR2 e 0x08 false f fun fl a b g => (a ^^^ b, fl.logic (a ^^^ b) g)

def execXor (e : EngineId) (f : R2) (s : State) : Host.Outcome State Fault Refusal :=
  .next (s.runAhf e (.xor e f) (ahfXor e f))

/-- ANDI rd, rs, #i20: rd ← rs and IMM20. -/
def ahfAndi (e : EngineId) (f : LI) : Ahf :=
  ahfLI e 0x06 true f fun c => c.logicTo f.rd ((c.reg f.rs).val &&& f.imm) (c.reg f.rs).green

def execAndi (e : EngineId) (f : LI) (s : State) : Host.Outcome State Fault Refusal :=
  .next (s.runAhf e (.andi e f) (ahfAndi e f))

/-- ORI rd, rs, #i20: rd ← rs or IMM20. -/
def ahfOri (e : EngineId) (f : LI) : Ahf :=
  ahfLI e 0x07 true f fun c => c.logicTo f.rd ((c.reg f.rs).val ||| f.imm) (c.reg f.rs).green

def execOri (e : EngineId) (f : LI) (s : State) : Host.Outcome State Fault Refusal :=
  .next (s.runAhf e (.ori e f) (ahfOri e f))

/-- XORI rd, rs, #i20: rd ← rs xor IMM20. -/
def ahfXori (e : EngineId) (f : LI) : Ahf :=
  ahfLI e 0x08 true f fun c => c.logicTo f.rd ((c.reg f.rs).val ^^^ f.imm) (c.reg f.rs).green

def execXori (e : EngineId) (f : LI) (s : State) : Host.Outcome State Fault Refusal :=
  .next (s.runAhf e (.xori e f) (ahfXori e f))

/-- NOT rd, rs: rd ← ~rs. -/
def ahfNot (e : EngineId) (rd : Fin 16) (rs : Fin 16) : Ahf :=
  ahfS2 e 0x09 1 rd rs fun c => c.logicTo rd (~~~(c.reg rs).val) (c.reg rs).green

def execNot (e : EngineId) (rd : Fin 16) (rs : Fin 16) (s : State) : Host.Outcome State Fault Refusal :=
  .next (s.runAhf e (.not e rd rs) (ahfNot e rd rs))

/-- TST rd, rs: the flags of rd & rs. -/
def ahfTst (e : EngineId) (rd : Fin 16) (rs : Fin 16) : Ahf :=
  ahfS2 e 0x0B 1 rd rs fun c =>
    c.setFl (c.fl.logic ((c.reg rd).val &&& (c.reg rs).val) ((c.reg rd).green || (c.reg rs).green))

def execTst (e : EngineId) (rd : Fin 16) (rs : Fin 16) (s : State) : Host.Outcome State Fault Refusal :=
  .next (s.runAhf e (.tst e rd rs) (ahfTst e rd rs))

/-- TSTI rd, #i20: the flags of rd & IMM20; RS is zero. -/
def ahfTsti (e : EngineId) (f : LI) : Ahf :=
  ahfLI e 0x0B (f.rs == 0) f fun c => c.setFl (c.fl.logic ((c.reg f.rd).val &&& f.imm) (c.reg f.rd).green)

def execTsti (e : EngineId) (f : LI) (s : State) : Host.Outcome State Fault Refusal :=
  .next (s.runAhf e (.tsti e f) (ahfTsti e f))

/-- QADD: rd ← the signed saturation of a + b. -/
def ahfQadd (e : EngineId) (f : R2) : Ahf :=
  ahfR2 e 0x10 false f fun fl a b g => let x := satS (a.toInt + b.toInt); (x.1, fl.sat x.1 x.2 g)

def execQadd (e : EngineId) (f : R2) (s : State) : Host.Outcome State Fault Refusal :=
  .next (s.runAhf e (.qadd e f) (ahfQadd e f))

/-- QSUB: rd ← the signed saturation of a - b. -/
def ahfQsub (e : EngineId) (f : R2) : Ahf :=
  ahfR2 e 0x11 false f fun fl a b g => let x := satS (a.toInt - b.toInt); (x.1, fl.sat x.1 x.2 g)

def execQsub (e : EngineId) (f : R2) (s : State) : Host.Outcome State Fault Refusal :=
  .next (s.runAhf e (.qsub e f) (ahfQsub e f))

/-- QADDU: rd ← the unsigned saturation of a + b. -/
def ahfQaddu (e : EngineId) (f : R2) : Ahf :=
  ahfR2 e 0x12 false f fun fl a b g => let x := satU ((a.toNat : Int) + (b.toNat : Int)); (x.1, fl.sat x.1 x.2 g)

def execQaddu (e : EngineId) (f : R2) (s : State) : Host.Outcome State Fault Refusal :=
  .next (s.runAhf e (.qaddu e f) (ahfQaddu e f))

/-- QSUBU: rd ← the unsigned saturation of a - b. -/
def ahfQsubu (e : EngineId) (f : R2) : Ahf :=
  ahfR2 e 0x13 false f fun fl a b g => let x := satU ((a.toNat : Int) - (b.toNat : Int)); (x.1, fl.sat x.1 x.2 g)

def execQsubu (e : EngineId) (f : R2) (s : State) : Host.Outcome State Fault Refusal :=
  .next (s.runAhf e (.qsubu e f) (ahfQsubu e f))

/-- MUL: rd ← the low 20 bits of a × b, in 2 cycles in either form. -/
def ahfMul (e : EngineId) (f : R2) : Ahf :=
  ⟨encR2 0x14 f, f.legal, regBody e 2 (binOp false f fun fl a b g => (a * b, fl.logic (a * b) g))⟩

def execMul (e : EngineId) (f : R2) (s : State) : Host.Outcome State Fault Refusal :=
  .next (s.runAhf e (.mul e f) (ahfMul e f))

/-- MULU dd, rs, rt: dd ← rs × rt, unsigned, in 40 bits. -/
def ahfMulu (e : EngineId) (f : L3) : Ahf :=
  ahfL3 e 0x20 3 (f.z == 0 && f.aux == 0 && evenReg f.rd) f fun c =>
    c.pairTo f.rd (BitVec.ofNat 40 ((c.reg f.rs).val.toNat * (c.reg f.rt).val.toNat)) ((c.reg f.rs).green || (c.reg f.rt).green)

def execMulu (e : EngineId) (f : L3) (s : State) : Host.Outcome State Fault Refusal :=
  .next (s.runAhf e (.mulu e f) (ahfMulu e f))

/-- MULS dd, rs, rt: dd ← rs × rt, signed, in 40 bits. -/
def ahfMuls (e : EngineId) (f : L3) : Ahf :=
  ahfL3 e 0x21 3 (f.z == 0 && f.aux == 0 && evenReg f.rd) f fun c =>
    c.pairTo f.rd (BitVec.ofInt 40 ((c.reg f.rs).val.toInt * (c.reg f.rt).val.toInt)) ((c.reg f.rs).green || (c.reg f.rt).green)

def execMuls (e : EngineId) (f : L3) (s : State) : Host.Outcome State Fault Refusal :=
  .next (s.runAhf e (.muls e f) (ahfMuls e f))

/-- ADDD dd, ds, dt: dd ← ds + dt, in 40 bits. -/
def ahfAddd (e : EngineId) (f : L3) : Ahf :=
  ahfL3 e 0x22 2 (f.z == 0 && f.aux == 0 && evenReg f.rd && evenReg f.rs && evenReg f.rt) f fun c =>
    let x := addC (c.pairVal f.rs) (c.pairVal f.rt) false
    let g := c.pairTag f.rs || c.pairTag f.rt
    (c.putPair f.rd x.1 g).setFl (Flags.arith x g)

def execAddd (e : EngineId) (f : L3) (s : State) : Host.Outcome State Fault Refusal :=
  .next (s.runAhf e (.addd e f) (ahfAddd e f))

/-- SUBD dd, ds, dt: dd ← ds − dt, in 40 bits. -/
def ahfSubd (e : EngineId) (f : L3) : Ahf :=
  ahfL3 e 0x23 2 (f.z == 0 && f.aux == 0 && evenReg f.rd && evenReg f.rs && evenReg f.rt) f fun c =>
    let x := subC (c.pairVal f.rs) (c.pairVal f.rt) true
    let g := c.pairTag f.rs || c.pairTag f.rt
    (c.putPair f.rd x.1 g).setFl (Flags.arith x g)

def execSubd (e : EngineId) (f : L3) (s : State) : Host.Outcome State Fault Refusal :=
  .next (s.runAhf e (.subd e f) (ahfSubd e f))

end Sys2Proof.Machine
end

