-- ==== Sys2Proof/Machine/AhfBits.lean ====
section
/-! DEFINITION. Ahneafin: shifts, bits, octets and marks (07 R289, R290) and the CRC step (07 R294, R295). -/

namespace Sys2Proof.Machine

/-- The low n bits. -/
def lowBits (n : Nat) (w : Word) : Word := w &&& BitVec.ofNat 20 (2 ^ n - 1)

/-- The low n bits, sign-extended from bit n − 1. -/
def signLow (n : Nat) (w : Word) : Word := ((w <<< (20 - n)).sshiftRight (20 - n))

/-- The low n bits in reverse order. -/
def revLow (n : Nat) (w : Word) : Word := (List.range n).foldl (fun r i => setBit r i (bit w (n - 1 - i))) 0

/-- p and n of a field (R290). -/
def fieldOk (f : L3) : Bool :=
  decide (f.aux.toNat < 1024) && decide (f.pos ≤ 19) && decide (1 ≤ f.width) && decide (f.width ≤ 20) && decide (f.pos + f.width ≤ 20)

/-- An entry with a width alone in AUX, and RT zero. -/
def widthOnly (f : L3) : Bool :=
  f.rt == 0 && f.z == 0 && decide (f.aux.toNat < 32) && decide (1 ≤ f.width) && decide (f.width ≤ 20)

/-- rd ← v with Z G. -/
def Core.zgTo (r : Fin 16) (v : Word) (g : Bool) (c : Core) : Core := (c.put r { val := v, green := g }).setFl (c.fl.zg (v == 0) g)

/-! CRC. -/

/-- The polynomial pair (R294): reflected, width, polynomial. -/
def polyReflect (p : BitVec 40) : Bool := bit p 37
def polyWidth (p : BitVec 40) : Nat := fldN p 32 5 + 1
def polyMask (p : BitVec 40) : BitVec 32 := BitVec.ofNat 32 (2 ^ polyWidth p - 1)

/-- One bit of input. -/
def crcBit (p : BitVec 40) (acc : BitVec 32) (b : Bool) : BitVec 32 :=
  let m := polyMask p
  let poly := fld p 0 32 &&& m
  if polyReflect p then
    let f := bit acc 0 != b
    if f then (acc >>> 1) ^^^ poly else acc >>> 1
  else
    let f := bit acc (polyWidth p - 1) != b
    let a := (acc <<< 1) &&& m
    if f then a ^^^ poly else a

/-- k bits of `x` (R295). -/
def crcStep (p : BitVec 40) (k : Nat) (x : Word) (acc : BitVec 40) : BitVec 40 :=
  ((List.range k).foldl (fun a i => crcBit p a (bit x (if polyReflect p then i else k - 1 - i))) (fld acc 0 32 &&& polyMask p)).setWidth 40

/-- dA ← v with Z G. -/
def Core.crcTo (r : Fin 16) (v : BitVec 40) (g : Bool) (c : Core) : Core := (c.putPair r v g).setFl (c.fl.zg (v == 0) g)

/-! Instructions. -/

/-- SHL: rd ← a shifted by bits 4:0 of b (R289). -/
def ahfShl (e : EngineId) (f : R2) : Ahf :=
  ahfR2 e 0x0C false f fun fl a b g => let x := shlC a (fldN b 0 5) fl.c; (x.1, fl.shift x.1 x.2 g)

def execShl (e : EngineId) (f : R2) (s : State) : Host.Outcome State Fault Refusal :=
  .next (s.runAhf e (.shl e f) (ahfShl e f))

/-- SHR: rd ← a shifted by bits 4:0 of b (R289). -/
def ahfShr (e : EngineId) (f : R2) : Ahf :=
  ahfR2 e 0x0D false f fun fl a b g => let x := shrC a (fldN b 0 5) fl.c; (x.1, fl.shift x.1 x.2 g)

def execShr (e : EngineId) (f : R2) (s : State) : Host.Outcome State Fault Refusal :=
  .next (s.runAhf e (.shr e f) (ahfShr e f))

/-- ASR: rd ← a shifted by bits 4:0 of b (R289). -/
def ahfAsr (e : EngineId) (f : R2) : Ahf :=
  ahfR2 e 0x0E false f fun fl a b g => let x := asrC a (fldN b 0 5) fl.c; (x.1, fl.shift x.1 x.2 g)

def execAsr (e : EngineId) (f : R2) (s : State) : Host.Outcome State Fault Refusal :=
  .next (s.runAhf e (.asr e f) (ahfAsr e f))

/-- ROR: rd ← a shifted by bits 4:0 of b (R289). -/
def ahfRor (e : EngineId) (f : R2) : Ahf :=
  ahfR2 e 0x0F false f fun fl a b g => let x := rorC a (fldN b 0 5) fl.c; (x.1, fl.shift x.1 x.2 g)

def execRor (e : EngineId) (f : R2) (s : State) : Host.Outcome State Fault Refusal :=
  .next (s.runAhf e (.ror e f) (ahfRor e f))

/-- SHLQ rd, #s: rd ← rd shifted by IMM8, 0 to 20. -/
def ahfShlq (e : EngineId) (f : SI) : Ahf :=
  ahfSI e 3 (decide (f.imm.toNat ≤ 20)) f fun c =>
    let x := shlC (c.reg f.rd).val f.imm.toNat c.fl.c
    let g := (c.reg f.rd).green
    (c.put f.rd { val := x.1, green := g }).setFl (c.fl.shift x.1 x.2 g)

def execShlq (e : EngineId) (f : SI) (s : State) : Host.Outcome State Fault Refusal :=
  .next (s.runAhf e (.shlq e f) (ahfShlq e f))

/-- SHRQ rd, #s: rd ← rd shifted by IMM8, 0 to 20. -/
def ahfShrq (e : EngineId) (f : SI) : Ahf :=
  ahfSI e 4 (decide (f.imm.toNat ≤ 20)) f fun c =>
    let x := shrC (c.reg f.rd).val f.imm.toNat c.fl.c
    let g := (c.reg f.rd).green
    (c.put f.rd { val := x.1, green := g }).setFl (c.fl.shift x.1 x.2 g)

def execShrq (e : EngineId) (f : SI) (s : State) : Host.Outcome State Fault Refusal :=
  .next (s.runAhf e (.shrq e f) (ahfShrq e f))

/-- ASRQ rd, #s: rd ← rd shifted by IMM8, 0 to 20. -/
def ahfAsrq (e : EngineId) (f : SI) : Ahf :=
  ahfSI e 5 (decide (f.imm.toNat ≤ 20)) f fun c =>
    let x := asrC (c.reg f.rd).val f.imm.toNat c.fl.c
    let g := (c.reg f.rd).green
    (c.put f.rd { val := x.1, green := g }).setFl (c.fl.shift x.1 x.2 g)

def execAsrq (e : EngineId) (f : SI) (s : State) : Host.Outcome State Fault Refusal :=
  .next (s.runAhf e (.asrq e f) (ahfAsrq e f))

/-- PAR rd, rs: the XOR of the bits of rs. -/
def ahfPar (e : EngineId) (rd : Fin 16) (rs : Fin 16) : Ahf :=
  ahfS2 e 0x15 1 rd rs fun c => c.zgTo rd (BitVec.ofNat 20 (ones (c.reg rs).val % 2)) (c.reg rs).green

def execPar (e : EngineId) (rd : Fin 16) (rs : Fin 16) (s : State) : Host.Outcome State Fault Refusal :=
  .next (s.runAhf e (.par e rd rs) (ahfPar e rd rs))

/-- SWP rd, rs: the two octets exchanged, the marks kept. -/
def ahfSwp (e : EngineId) (rd : Fin 16) (rs : Fin 16) : Ahf :=
  ahfS2 e 0x16 1 rd rs fun c =>
    let b := c.reg rs
    c.put rd { val := (fld b.val 16 4 ++ fld b.val 0 8 ++ fld b.val 8 8 : BitVec 20), green := b.green }

def execSwp (e : EngineId) (rd : Fin 16) (rs : Fin 16) (s : State) : Host.Outcome State Fault Refusal :=
  .next (s.runAhf e (.swp e rd rs) (ahfSwp e rd rs))

/-- MKG rd, rs: the marks of rs in bits 3:0. -/
def ahfMkg (e : EngineId) (rd : Fin 16) (rs : Fin 16) : Ahf :=
  ahfS2 e 0x17 1 rd rs fun c => c.zgTo rd ((fld (c.reg rs).val 16 4).setWidth 20) (c.reg rs).green

def execMkg (e : EngineId) (rd : Fin 16) (rs : Fin 16) (s : State) : Host.Outcome State Fault Refusal :=
  .next (s.runAhf e (.mkg e rd rs) (ahfMkg e rd rs))

/-- MKS rd, rs: the marks of rd from rs bits 3:0. -/
def ahfMks (e : EngineId) (rd : Fin 16) (rs : Fin 16) : Ahf :=
  ahfS2 e 0x18 1 rd rs fun c =>
    c.put rd { val := (fld (c.reg rs).val 0 4 ++ fld (c.reg rd).val 0 16 : BitVec 20), green := (c.reg rd).green || (c.reg rs).green }

def execMks (e : EngineId) (rd : Fin 16) (rs : Fin 16) (s : State) : Host.Outcome State Fault Refusal :=
  .next (s.runAhf e (.mks e rd rs) (ahfMks e rd rs))

/-- MKC rd, rs: the marks cleared. -/
def ahfMkc (e : EngineId) (rd : Fin 16) (rs : Fin 16) : Ahf :=
  ahfS2 e 0x19 1 rd rs fun c => c.zgTo rd ((c.reg rs).val &&& 0xFFFF) (c.reg rs).green

def execMkc (e : EngineId) (rd : Fin 16) (rs : Fin 16) (s : State) : Host.Outcome State Fault Refusal :=
  .next (s.runAhf e (.mkc e rd rs) (ahfMkc e rd rs))

/-- MKO rd, #m: marks set; IMM8 bits 7:4 are zero. -/
def ahfMko (e : EngineId) (f : SI) : Ahf :=
  ahfSI e 6 (decide (f.imm.toNat < 16)) f fun c =>
    c.put f.rd { val := (c.reg f.rd).val ||| (fld f.imm 0 4 ++ 0#16 : BitVec 20), green := (c.reg f.rd).green }

def execMko (e : EngineId) (f : SI) (s : State) : Host.Outcome State Fault Refusal :=
  .next (s.runAhf e (.mko e f) (ahfMko e f))

/-- BTST rd, #k: Z ← 1 if bit k is 0. -/
def ahfBtst (e : EngineId) (f : SI) : Ahf :=
  ahfSI e 7 (decide (f.imm.toNat < 20)) f fun c => c.setFl (c.fl.zg (!bit (c.reg f.rd).val f.imm.toNat) (c.reg f.rd).green)

def execBtst (e : EngineId) (f : SI) (s : State) : Host.Outcome State Fault Refusal :=
  .next (s.runAhf e (.btst e f) (ahfBtst e f))

/-- BSET rd, #k: bit k ← 1. -/
def ahfBset (e : EngineId) (f : SI) : Ahf :=
  ahfSI e 8 (decide (f.imm.toNat < 20)) f fun c =>
    c.put f.rd { val := setBit (c.reg f.rd).val f.imm.toNat true, green := (c.reg f.rd).green }

def execBset (e : EngineId) (f : SI) (s : State) : Host.Outcome State Fault Refusal :=
  .next (s.runAhf e (.bset e f) (ahfBset e f))

/-- BCLR rd, #k: bit k ← 0. -/
def ahfBclr (e : EngineId) (f : SI) : Ahf :=
  ahfSI e 9 (decide (f.imm.toNat < 20)) f fun c =>
    c.put f.rd { val := setBit (c.reg f.rd).val f.imm.toNat false, green := (c.reg f.rd).green }

def execBclr (e : EngineId) (f : SI) (s : State) : Host.Outcome State Fault Refusal :=
  .next (s.runAhf e (.bclr e f) (ahfBclr e f))

/-- BREV rd, rs: the low n bits reversed. -/
def ahfBrev (e : EngineId) (f : L3) : Ahf :=
  ahfL3 e 0x24 2 (widthOnly f) f fun c => c.zgTo f.rd (revLow f.width (c.reg f.rs).val) (c.reg f.rs).green

def execBrev (e : EngineId) (f : L3) (s : State) : Host.Outcome State Fault Refusal :=
  .next (s.runAhf e (.brev e f) (ahfBrev e f))

/-- BFX rd, rs: a field extracted. -/
def ahfBfx (e : EngineId) (f : L3) : Ahf :=
  ahfL3 e 0x25 2 (f.rt == 0 && f.z == 0 && fieldOk f) f fun c =>
    c.zgTo f.rd (lowBits f.width ((c.reg f.rs).val >>> f.pos)) (c.reg f.rs).green

def execBfx (e : EngineId) (f : L3) (s : State) : Host.Outcome State Fault Refusal :=
  .next (s.runAhf e (.bfx e f) (ahfBfx e f))

/-- BFI rd, rs: a field inserted. -/
def ahfBfi (e : EngineId) (f : L3) : Ahf :=
  ahfL3 e 0x26 2 (f.rt == 0 && f.z == 0 && fieldOk f) f fun c =>
    let m := lowBits f.width (BitVec.allOnes 20) <<< f.pos
    c.put f.rd { val := ((c.reg f.rd).val &&& ~~~m) ||| (((c.reg f.rs).val <<< f.pos) &&& m), green := (c.reg f.rd).green || (c.reg f.rs).green }

def execBfi (e : EngineId) (f : L3) (s : State) : Host.Outcome State Fault Refusal :=
  .next (s.runAhf e (.bfi e f) (ahfBfi e f))

/-- SXT rd, rs: the low n bits, sign-extended. -/
def ahfSxt (e : EngineId) (f : L3) : Ahf :=
  ahfL3 e 0x27 2 (widthOnly f) f fun c => c.logicTo f.rd (signLow f.width (c.reg f.rs).val) (c.reg f.rs).green

def execSxt (e : EngineId) (f : L3) (s : State) : Host.Outcome State Fault Refusal :=
  .next (s.runAhf e (.sxt e f) (ahfSxt e f))

/-- CRC dA, rs, dP: k bits of rs into the accumulator (R294, R295). -/
def ahfCrc (e : EngineId) (f : L3) : Ahf :=
  ahfL3 e 0x30 2 (f.z == 0 && evenReg f.rd && evenReg f.rt && decide (f.aux.toNat < 32) && decide (1 ≤ f.width) && decide (f.width ≤ 20)) f fun c =>
    let g := c.pairTag f.rd || (c.reg f.rs).green || c.pairTag f.rt
    c.crcTo f.rd (crcStep (c.pairVal f.rt) f.width (c.reg f.rs).val (c.pairVal f.rd)) g

def execCrc (e : EngineId) (f : L3) (s : State) : Host.Outcome State Fault Refusal :=
  .next (s.runAhf e (.crc e f) (ahfCrc e f))

end Sys2Proof.Machine
end

