-- ==== Sys2Proof/Machine/AhfMem.lean ====
section
/-! DEFINITION. Ahneafin: memory and stack (07 R291), branches and selection (07 R292, R293). -/

namespace Sys2Proof.Machine

/-! Memory and stack. -/

/-- An operation on the core after an access at `a`. -/
def afterAccess {α : Type} (e : EngineId) (cyc : Nat) (a : Word) (x : Ran α) (f : α → Core → Core) : Ran Done :=
  x.bind fun v s => finish (cyc + s.accessCycles e a) (s.modCore e (f v))

/-- Effective address of a memory form (06 R253). -/
def State.eaOf (s : State) (e : EngineId) (f : MemForm) : Word := f.ea ((s.eng e).core.reg f.base).val

/-- LD rd, [ea]. -/
def ahfLd (e : EngineId) (f : MemForm) : Ahf :=
  ⟨encMem 0 f, true, fun s =>
    let a := s.eaOf e f
    afterAccess e (f.cyc 1) a (loadOne e a s) fun v c => c.put f.reg v⟩

def execLd (e : EngineId) (f : MemForm) (s : State) : Host.Outcome State Fault Refusal := .next (s.runAhf e (.ld e f) (ahfLd e f))

/-- ST rd, [ea]. -/
def ahfSt (e : EngineId) (f : MemForm) : Ahf :=
  ⟨encMem 1 f, true, fun s =>
    let a := s.eaOf e f
    afterAccess e (f.cyc 1) a (storeOne e a ((s.eng e).core.reg f.reg) s) fun _ c => c⟩

def execSt (e : EngineId) (f : MemForm) (s : State) : Host.Outcome State Fault Refusal := .next (s.runAhf e (.st e f) (ahfSt e f))

/-- LDD dd, [ea]: each word with its own tag. -/
def ahfLdd (e : EngineId) (f : MemForm) : Ahf :=
  ⟨encMem 2 f, evenReg f.reg, fun s =>
    let a := s.eaOf e f
    afterAccess e (f.cyc 2 + s.accessCycles e (a + 1)) a (loadTwo e a s) fun v c => (c.put f.reg v.1).put (highReg f.reg) v.2⟩

def execLdd (e : EngineId) (f : MemForm) (s : State) : Host.Outcome State Fault Refusal := .next (s.runAhf e (.ldd e f) (ahfLdd e f))

/-- STD dd, [ea]. -/
def ahfStd (e : EngineId) (f : MemForm) : Ahf :=
  ⟨encMem 3 f, evenReg f.reg, fun s =>
    let a := s.eaOf e f
    let c := (s.eng e).core
    afterAccess e (f.cyc 2 + s.accessCycles e (a + 1)) a (storeTwo e a (c.reg f.reg) (c.reg (highReg f.reg)) s) fun _ c => c⟩

def execStd (e : EngineId) (f : MemForm) (s : State) : Host.Outcome State Fault Refusal := .next (s.runAhf e (.std e f) (ahfStd e f))

/-- LEA rd, [ea]: no access; the tag of RB, or 0 when ABS is set. -/
def ahfLea (e : EngineId) (f : LM) : Ahf :=
  ⟨encLM 4 f, true, regBody e 2 fun c => c.put f.rd { val := f.ea (c.reg f.rb).val, green := !f.abs && (c.reg f.rb).green }⟩

def execLea (e : EngineId) (f : LM) (s : State) : Host.Outcome State Fault Refusal := .next (s.runAhf e (.lea e f) (ahfLea e f))

/-- The stack pointer written: it keeps its tag. -/
def Core.setSp (v : Word) (c : Core) : Core := { c with w := vset c.w 14 v }

/-- PUSH rs: rs is read before w14 changes (log 35). -/
def ahfPush (e : EngineId) (imm : BitVec 8) : Ahf :=
  ⟨encSS 0x10 imm, decide (imm.toNat < 16), fun s =>
    let c := (s.eng e).core
    let a := c.w[14] - 1
    afterAccess e 2 a (storeOne e a (c.reg (reg4 (fld imm 0 4))) s) fun _ c => c.setSp a⟩

def execPush (e : EngineId) (imm : BitVec 8) (s : State) : Host.Outcome State Fault Refusal := .next (s.runAhf e (.push e imm) (ahfPush e imm))

/-- POP rd: then w14 ← w14 + 1, also where rd is w14. -/
def ahfPop (e : EngineId) (imm : BitVec 8) : Ahf :=
  ⟨encSS 0x11 imm, decide (imm.toNat < 16), fun s =>
    let a := (s.eng e).core.w[14]
    afterAccess e 2 a (loadOne e a s) fun v c => let c := c.put (reg4 (fld imm 0 4)) v; c.setSp (c.w[14] + 1)⟩

def execPop (e : EngineId) (imm : BitVec 8) (s : State) : Host.Outcome State Fault Refusal := .next (s.runAhf e (.pop e imm) (ahfPop e imm))

/-! Branches and selection. -/

/-- A conditional transfer: the core after it, and where it goes; with its cycles not taken, and one more taken (R292, 06 R255). -/
def branchBody (e : EngineId) (cond : BitVec 4) (cyc : Nat) (f : Core → Core) (target : Core → Word) (s : State) : Ran Done :=
  let c := (s.eng e).core
  let s := s.modCore e (·.control (cond != 0 && c.fl.g))
  if c.fl.holds cond then .ok ⟨some (target c), cyc + 1, false⟩ (s.modCore e f) else finish cyc s

/-- Bcc off: from the next instruction (06 R253). -/
def ahfBcc (e : EngineId) (cond : BitVec 4) (off : BitVec 12) : Ahf :=
  ⟨encSB cond off, true, branchBody e cond 1 id fun c => c.pc + 1 + off.signExtend 20⟩

def execBcc (e : EngineId) (cond : BitVec 4) (off : BitVec 12) (s : State) : Host.Outcome State Fault Refusal :=
  .next (s.runAhf e (.bcc e cond off) (ahfBcc e cond off))

/-- w15 ← the next instruction's address, with tag 0 (06 R253). -/
def Core.link (c : Core) : Core := c.put 15 (TWord.plain (c.pc + 2))

/-- Jcc addr. -/
def ahfJcc (e : EngineId) (f : LB) : Ahf := ⟨encLB 0 f, f.z == 0, branchBody e f.cond 2 id fun _ => f.addr⟩

def execJcc (e : EngineId) (f : LB) (s : State) : Host.Outcome State Fault Refusal := .next (s.runAhf e (.jcc e f) (ahfJcc e f))

/-- CALLcc addr. -/
def ahfCallcc (e : EngineId) (f : LB) : Ahf := ⟨encLB 1 f, f.z == 0, branchBody e f.cond 2 (·.link) fun _ => f.addr⟩

def execCallcc (e : EngineId) (f : LB) (s : State) : Host.Outcome State Fault Refusal := .next (s.runAhf e (.callcc e f) (ahfCallcc e f))

/-- A transfer to a register: a green target sets CTL_GREEN whatever the condition (R293). -/
def jumpBody (e : EngineId) (cond : BitVec 4) (cyc : Nat) (r : Fin 16) (f : Core → Core) (s : State) : Ran Done :=
  branchBody e cond cyc f (fun c => (c.reg r).val) (s.modCore e fun c => c.control (c.reg r).green)

/-- JRcc rs: ADDR20 is zero (06 R253). -/
def ahfJrcc (e : EngineId) (f : LB) : Ahf := ⟨encLB 2 f, f.z == 0 && f.addr == 0, jumpBody e f.cond 2 f.rs id⟩

def execJrcc (e : EngineId) (f : LB) (s : State) : Host.Outcome State Fault Refusal := .next (s.runAhf e (.jrcc e f) (ahfJrcc e f))

/-- CALLRcc rs: the target is read before w15 is written (log 35). -/
def ahfCallrcc (e : EngineId) (f : LB) : Ahf := ⟨encLB 3 f, f.z == 0 && f.addr == 0, jumpBody e f.cond 2 f.rs (·.link)⟩

def execCallrcc (e : EngineId) (f : LB) (s : State) : Host.Outcome State Fault Refusal := .next (s.runAhf e (.callrcc e f) (ahfCallrcc e f))

/-- RET: PC ← w15, 3 cycles. -/
def ahfRet (e : EngineId) (imm : BitVec 8) : Ahf := ⟨encSS 0x07 imm, imm == 0, jumpBody e 0 2 15 id⟩

def execRet (e : EngineId) (imm : BitVec 8) (s : State) : Host.Outcome State Fault Refusal := .next (s.runAhf e (.ret e imm) (ahfRet e imm))

/-- CSEL rd, rs, rt: rs or rt by COND; a condition other than AL reads G (R292, 06 R242). -/
def Core.csel (f : L3) (c : Core) : Core :=
  let cond : BitVec 4 := fld f.aux 0 4
  let g := cond != 0 && c.fl.g
  let v := if c.fl.holds cond then (c.reg f.rs).val else (c.reg f.rt).val
  (c.put f.rd { val := v, green := (c.reg f.rs).green || (c.reg f.rt).green || g }).control g

def ahfCsel (e : EngineId) (f : L3) : Ahf := ⟨encL3 0x28 f, f.z == 0 && decide (f.aux.toNat < 16), regBody e 2 (·.csel f)⟩

def execCsel (e : EngineId) (f : L3) (s : State) : Host.Outcome State Fault Refusal := .next (s.runAhf e (.csel e f) (ahfCsel e f))

end Sys2Proof.Machine
end

