-- ==== Sys2Proof/Machine/AhfPvc.lean ====
section
/-! DEFINITION. Ahneafin: the process-value-coding assists (07 R301) and the fields of 09 (R347-R356). -/

namespace Sys2Proof.Machine

/-- Exact value of a word, signed or not. -/
def valueOf (signed : Bool) (w : Word) : Int := if signed then w.toInt else (w.toNat : Int)

/-- x / 2^q, rounded half to even. -/
def roundEven (x : Int) (q : Nat) : Int :=
  let m : Int := 2 ^ q
  let d := x.fdiv m
  let r := x - d * m
  if 2 * r < m then d else if m < 2 * r then d + 1 else if d % 2 = 0 then d else d + 1

/-- The code of a value, and whether it was clamped (R301, 09 R347, R348). -/
def quantize (signed : Bool) (q : Nat) (w : Word) : Int × Bool :=
  let c := roundEven (valueOf signed w) q
  let lo : Int := if signed then -(2 ^ (19 - q)) else 0
  let hi : Int := if signed then 2 ^ (19 - q) - 1 else 2 ^ (20 - q) - 1
  if c < lo then (lo, true) else if hi < c then (hi, true) else (c, false)

/-- A code in its 20 − q bits, the upper bits 0. -/
def codeWord (q : Nat) (c : Int) : Word := lowBits (20 - q) (BitVec.ofInt 20 c)

/-- The least n in 1 to 20 such that δ lies in −2^(n−1) to 2^(n−1) − 1 (R301). -/
def leastWidth (d : Word) : Nat :=
  ((List.range 20).find? fun k => decide (-(2 ^ k : Int) ≤ d.toInt) && decide (d.toInt < 2 ^ k)).getD 19 + 1

/-- |a − b| ≤ bound, computed exactly (R301, 09 R349). -/
def withinBand (signed : Bool) (a b : Word) (bound : Nat) : Bool := decide ((valueOf signed a - valueOf signed b).natAbs ≤ bound)

/-- q of an assist, with SIGNED; AUX bits 11:5 are zero, RT is zero. -/
def assistQ (f : L3) : Nat := fldN f.aux 0 4
def assistSigned (f : L3) : Bool := bit f.aux 4
def assistOk (f : L3) : Bool :=
  f.z == 0 && f.rt == 0 && decide (f.aux.toNat < 32) && decide (1 ≤ assistQ f) && decide (assistQ f ≤ 12)

/-- PQNT rd, rs. -/
def ahfPqnt (e : EngineId) (f : L3) : Ahf :=
  ahfL3 e 0x38 2 (assistOk f) f fun c =>
    let x := quantize (assistSigned f) (assistQ f) (c.reg f.rs).val
    let v := codeWord (assistQ f) x.1
    let g := (c.reg f.rs).green
    (c.put f.rd { val := v, green := g }).setFl { c.fl with n := bit v (19 - assistQ f), z := zero v, v := x.2, g := g }

def execPqnt (e : EngineId) (f : L3) (s : State) : Host.Outcome State Fault Refusal := .next (s.runAhf e (.pqnt e f) (ahfPqnt e f))

/-- PDEQ rd, rs: the sign extension lies above bit 19 of the product. -/
def ahfPdeq (e : EngineId) (f : L3) : Ahf :=
  ahfL3 e 0x39 2 (assistOk f) f fun c => c.logicTo f.rd ((c.reg f.rs).val <<< assistQ f) (c.reg f.rs).green

def execPdeq (e : EngineId) (f : L3) (s : State) : Host.Outcome State Fault Refusal := .next (s.runAhf e (.pdeq e f) (ahfPdeq e f))

/-- PDLT dd, rs, rt: δ and its least width. -/
def ahfPdlt (e : EngineId) (f : L3) : Ahf :=
  ahfL3 e 0x3A 2 (f.z == 0 && f.aux == 0 && evenReg f.rd) f fun c =>
    let d := (c.reg f.rs).val - (c.reg f.rt).val
    let g := (c.reg f.rs).green || (c.reg f.rt).green
    (c.putPair f.rd (BitVec.ofNat 20 (leastWidth d) ++ d) g).setFl (c.fl.logic d g)

def execPdlt (e : EngineId) (f : L3) (s : State) : Host.Outcome State Fault Refusal := .next (s.runAhf e (.pdlt e f) (ahfPdlt e f))

/-- PDBD rd, rs, #i20: Z ← the difference lies in the band. -/
def ahfPdbd (e : EngineId) (f : LI) : Ahf :=
  ahfLI e 0x11 true f fun c =>
    c.setFl (c.fl.zg (withinBand (bit f.imm 19) (c.reg f.rd).val (c.reg f.rs).val (fldN f.imm 0 19))
      ((c.reg f.rd).green || (c.reg f.rs).green))

def execPdbd (e : EngineId) (f : LI) (s : State) : Host.Outcome State Fault Refusal := .next (s.runAhf e (.pdbd e f) (ahfPdbd e f))

/-! Fields (09 R355, R356). -/

/-- A field: its bits as a number, its width, and the value the receiver will hold. -/
structure PvcField where
  bits : Nat
  wide : Nat
  held : Word
  deriving DecidableEq, Repr

/-- Descriptor fields (09, Coding tables). -/
def descMode (d : Word) : Nat := fldN d 17 3
def descSigned (d : Word) : Bool := bit d 16
def descQ (d : Word) : Nat := fldN d 12 4
def descD (d : Word) : Nat := fldN d 0 12

/-- A descriptor that BPVE raises ILLEGAL for (07 R870). -/
def descIllegal (d : Word) : Bool :=
  decide (5 ≤ descMode d) || ((descMode d == 2 || descMode d == 4) && (decide (descQ d < 1) || decide (12 < descQ d)))

/-- The field of a value under its descriptor (09 R350, R355, R356). -/
def pvcField (force : Bool) (d v last : Word) : PvcField :=
  let sg := descSigned d
  let q := descQ d
  match descMode d with
  | 0 => ⟨v.toNat, 20, v⟩
  | 1 =>
    let x := v - last
    let n := leastWidth x
    if n ≤ 15 then ⟨n + 16 * (x.toNat % 2 ^ n), 4 + n, v⟩ else ⟨16 * v.toNat, 24, v⟩
  | 2 =>
    let c := codeWord q (quantize sg q v).1
    ⟨c.toNat, 20 - q, c <<< q⟩
  | 3 => if !force && withinBand sg v last (descD d) then ⟨0, 1, last⟩ else ⟨1 + 2 * v.toNat, 21, v⟩
  | _ =>
    let c := codeWord q (quantize sg q v).1
    let u := c <<< q
    if !force && withinBand sg u last (descD d) then ⟨0, 1, last⟩ else ⟨1 + 2 * c.toNat, 21 - q, u⟩

end Sys2Proof.Machine
end

