-- ==== Sys2Proof/Machine/AhfBlock.lean ====
section
/-! DEFINITION. Ahneafin: the block instructions (06 R266-R270; 07 R296-R302, R870). -/

namespace Sys2Proof.Machine

/-! The common course. -/

/-- A block instruction: its count register, its start-up latency, its cycles for a word, one word's step, and the flags at
completion. -/
structure Block where
  count   : Fin 16
  latency : Nat
  rate    : State → Nat
  step    : State → Ran Unit
  flags   : Core → Core

/-- Words one after another, until the count is 0, `k` words have been done, or the engine must stop between two words: for a
vector, or for want of compute (06 R266, R267; 03 R100). A word's step that waits leaves CTL_GREEN as it was (06 R268). -/
def Block.words (b : Block) (e : EngineId) : Nat → State → Ran Done
  | 0, s =>
    if (s.eng e).core.w[b.count] = 0 then finish 0 (s.modCore e b.flags) else .ok ⟨some (s.eng e).core.pc, 0, true⟩ s
  | k + 1, s =>
    let c := (s.eng e).core
    if c.w[b.count] = 0 then finish 0 (s.modCore e b.flags)
    else if !s.hasCompute e || ((s.eng e).due.isSome && !s.stepped e) then .ok ⟨some c.pc, 0, true⟩ s
    else
      let rate := b.rate s
      match b.step (s.modCore e (·.control (c.reg b.count).green)) with
      | .stall k p h t => .stall k p h (t.modCore e fun x => { x with ctlG := c.ctlG })
      | r => r.bind fun _ s => b.words e k (s.charge e rate)

/-- A block instruction from where its registers stand: two start-up cycles and the latency, once per execution (07 R298). -/
def Block.run (b : Block) (e : EngineId) (k : Nat) (s : State) : Ran Done :=
  let s := if (s.eng e).block then s else (s.modEng e fun x => { x with block := true }).charge e (2 + b.latency)
  b.words e k s

/-- A pointer moves on, keeping its tag. -/
def Core.bump (r : Fin 16) (d : Word) (c : Core) : Core := { c with w := vset c.w r (c.w[r] + d) }

/-- Steps 3 and 4 of R266: pointers up, the count down. -/
def Core.progress (ptrs : List (Fin 16)) (count : Fin 16) (c : Core) : Core :=
  (ptrs.foldl (fun c r => c.bump r 1) c).bump count (-1)

/-- Latency of the places that registers point to; none when nothing is to be done. -/
def State.blockLatency (s : State) (e : EngineId) (count : Fin 16) (ptrs : List (Fin 16)) : Nat :=
  let c := (s.eng e).core
  if c.w[count] = 0 then 0 else (ptrs.map fun r => s.accessCycles e c.w[r]).sum

/-- Every memory operand lies in local memory. -/
def State.blockLocal (s : State) (e : EngineId) (ptrs : List (Fin 16)) : Bool := ptrs.all fun r => isLocal e (s.eng e).core.w[r]

/-! BCRC (07 R296, R297). -/

def bcrcCount (f : L3) : Fin 16 := reg4 (fld f.aux 8 4)
def bcrcMode (f : L3) : Nat := fldN f.aux 0 2

/-- The step of a word in a MODE. -/
def bcrcWord (mode : Nat) (p acc : BitVec 40) (x : Word) : BitVec 40 :=
  match mode with
  | 0 =>
    if bit x 19 then acc
    else
      let a := crcStep p 8 x acc
      if bit x 18 then a else crcStep p 8 (x >>> 8) a
  | 1 => crcStep p 20 x acc
  | _ => crcStep p 8 x acc

def bcrcStep (e : EngineId) (f : L3) (s : State) : Ran Unit :=
  let c := (s.eng e).core
  (loadOne e c.w[f.rs] s).bind fun x s =>
    let g := x.green || (c.reg f.rs).green || (c.reg (bcrcCount f)).green || c.pairTag f.rd || c.pairTag f.rt
    .ok () (s.modCore e fun c =>
      (c.putPair f.rd (bcrcWord (bcrcMode f) (c.pairVal f.rt) (c.pairVal f.rd) x.val) g).progress [f.rs] (bcrcCount f))

/-- BCRC dA, rs, dP. -/
def ahfBcrc (e : EngineId) (f : L3) (steps : Nat) : Ahf :=
  ⟨encL3 0x31 f, f.z == 0 && evenReg f.rd && evenReg f.rt && fldN f.aux 2 6 == 0 && bcrcMode f != 3, fun s =>
    Block.run { count := bcrcCount f, latency := s.blockLatency e (bcrcCount f) [f.rs],
                rate := fun s => if s.blockLocal e [f.rs] then 1 else 2, step := bcrcStep e f,
                flags := fun c => c.setFl (c.fl.zg (c.pairVal f.rd == 0) (c.pairTag f.rd)) } e steps s⟩

def execBcrc (e : EngineId) (f : L3) (steps : Nat) (s : State) : Host.Outcome State Fault Refusal :=
  .next (s.runAhf e (.bcrc e f steps) (ahfBcrc e f steps))

/-! BCPY and BFIL. -/

/-- Both accesses of a word are possible before either has an effect (06 R268, R269). -/
def bcpyStep (e : EngineId) (f : L3) (s : State) : Ran Unit :=
  let c := (s.eng e).core
  let src := c.w[f.rs]
  let dst := c.w[f.rd]
  (s.prep e [Acc.load src, Acc.store dst (s.load e src).1]).bind fun bs s =>
    let (x, s) := s.load e src
    .ok () ((s.store e dst x ((bs.drop 1).headD .none)).modCore e (·.progress [f.rd, f.rs] f.rt))

/-- BCPY rd, rs, rt. -/
def ahfBcpy (e : EngineId) (f : L3) (steps : Nat) : Ahf :=
  ⟨encL3 0x32 f, f.z == 0 && f.aux == 0, fun s =>
    Block.run { count := f.rt, latency := s.blockLatency e f.rt [f.rd, f.rs],
                rate := fun s => if s.blockLocal e [f.rd, f.rs] then 1 else 2, step := bcpyStep e f, flags := id } e steps s⟩

def execBcpy (e : EngineId) (f : L3) (steps : Nat) (s : State) : Host.Outcome State Fault Refusal :=
  .next (s.runAhf e (.bcpy e f steps) (ahfBcpy e f steps))

def bfilStep (e : EngineId) (f : L3) (s : State) : Ran Unit :=
  let c := (s.eng e).core
  (storeOne e c.w[f.rd] (c.reg f.rs) s).bind fun _ s => .ok () (s.modCore e (·.progress [f.rd] f.rt))

/-- BFIL rd, rs, rt. -/
def ahfBfil (e : EngineId) (f : L3) (steps : Nat) : Ahf :=
  ⟨encL3 0x33 f, f.z == 0 && f.aux == 0, fun s =>
    Block.run { count := f.rt, latency := s.blockLatency e f.rt [f.rd],
                rate := fun s => if s.blockLocal e [f.rd] then 1 else 2, step := bfilStep e f, flags := id } e steps s⟩

def execBfil (e : EngineId) (f : L3) (steps : Nat) (s : State) : Host.Outcome State Fault Refusal :=
  .next (s.runAhf e (.bfil e f steps) (ahfBfil e f steps))

/-! BPVE (07 R299, R301, R302, R870). -/

def bpveCount (f : L3) : Fin 16 := reg4 (fld f.aux 8 4)
def bpveDesc (f : L3) : Fin 16 := reg4 (fld f.aux 4 4)
def bpveForce (f : L3) : Bool := bit f.aux 0

/-- Bit offset of the cursor: bits 4:0 of its high word. -/
def Core.cursorBit (c : Core) (r : Fin 16) : Nat := fldN c.w[(highReg r)] 0 5

/-- The output words of a field appended at bit `o` of a word that holds `old` (R870). -/
def appendWords (old : Word) (o : Nat) (x : PvcField) : List Word :=
  let v := old.toNat % 2 ^ o + x.bits * 2 ^ o
  (List.range ((o + x.wide + 19) / 20)).map fun j => BitVec.ofNat 20 (v / 2 ^ (20 * j))

/-- The cursor after a field: bits 19:5 of its high word are kept. -/
def Core.moveCursor (r : Fin 16) (n : Nat) (g : Bool) (c : Core) : Core :=
  let k := c.cursorBit r + n
  let lo := c.w[r] + BitVec.ofNat 20 (k / 20)
  let hi : Word := fld c.w[(highReg r)] 5 15 ++ BitVec.ofNat 5 (k % 20)
  c.putPair r (hi ++ lo) g

/-- Stores of words one after another, with the beats they were granted. -/
def State.storeRun (e : EngineId) : List (Word × TWord) → List BeatSource → State → State
  | [], _, s => s
  | x :: xs, bs, s => State.storeRun e xs (bs.drop 1) (s.store e x.1 x.2 (bs.headD .none))

/-- One value: its operands are read, its descriptor checked, its field appended, what the receiver will hold written. -/
def bpveStep (e : EngineId) (f : L3) (s : State) : Ran Unit :=
  let c := (s.eng e).core
  let loads := [Acc.load c.w[f.rs], Acc.load c.w[f.rt], Acc.load c.w[(bpveDesc f)]]
  match s.prep e loads with
  | .ok _ _ =>
    let x := (s.load e c.w[f.rs]).1
    let last := (s.load e c.w[f.rt]).1
    let d := (s.load e c.w[(bpveDesc f)]).1
    if descIllegal d.val then .trap 1 (encL3 0x34 f).first s
    else
      let fd := pvcField (bpveForce f) d.val x.val last.val
      let o := c.cursorBit f.rd
      let at0 := c.w[f.rd]
      let old := if isLocal e at0 then (s.load e at0).1 else TWord.zero
      let g := x.green || last.green || d.green || (decide (0 < o) && old.green) || (c.reg f.rs).green || (c.reg f.rt).green
        || (c.reg (bpveDesc f)).green || (c.reg (bpveCount f)).green || c.pairTag f.rd
      let ws := appendWords old.val o fd
      let outs := ((List.range ws.length).zip ws).map fun p => (at0 + BitVec.ofNat 20 p.1, ({ val := p.2, green := g } : TWord))
      let writes := outs ++ [(c.w[f.rt], { val := fd.held, green := g })]
      match outs.find? fun p => !isLocal e p.1 with
      | some p => .trap 2 p.1 s
      | none =>
        (s.prep e (loads ++ writes.map fun p => Acc.store p.1 p.2)).bind fun bs s =>
          let s := (s.load e c.w[f.rs]).2
          let s := (s.load e c.w[f.rt]).2
          let s := (s.load e c.w[(bpveDesc f)]).2
          .ok () ((State.storeRun e writes (bs.drop 3) s).modCore e fun c =>
            (c.moveCursor f.rd fd.wide g).progress [f.rs, f.rt, bpveDesc f] (bpveCount f))
  | .trap k a s => .trap k a s
  | .stall k p h s => .stall k p h s
  | .restart k s => .restart k s

/-- BPVE dC, rs, rt. -/
def ahfBpve (e : EngineId) (f : L3) (steps : Nat) : Ahf :=
  ⟨encL3 0x34 f, f.z == 0 && evenReg f.rd && fldN f.aux 1 3 == 0, fun s =>
    let c := (s.eng e).core
    let ptrs := [f.rs, f.rt, bpveDesc f]
    if c.w[(bpveCount f)] != 0 && decide (20 ≤ c.cursorBit f.rd) then .trap 1 (encL3 0x34 f).first s
    else
      Block.run { count := bpveCount f, latency := s.blockLatency e (bpveCount f) ptrs,
                  rate := fun s => if s.blockLocal e (f.rd :: ptrs) then 4 else 5, step := bpveStep e f, flags := id } e steps s⟩

def execBpve (e : EngineId) (f : L3) (steps : Nat) (s : State) : Host.Outcome State Fault Refusal :=
  .next (s.runAhf e (.bpve e f steps) (ahfBpve e f steps))

end Sys2Proof.Machine
end

