-- ==== Sys2Proof/Machine/AhfMicro.lean ====
section
/-! DEFINITION. Ahneafin: the committed micro-routines (06 R271-R273; 07 R303-R308) and the system instructions (06 R258, R274;
07 R309, R310). -/

namespace Sys2Proof.Machine

/-! System instructions. -/

/-- NOP. -/
def ahfNop (_e : EngineId) (imm : BitVec 8) : Ahf := ⟨encSS 0x00 imm, imm == 0, finish 1⟩

def execNop (e : EngineId) (imm : BitVec 8) (s : State) : Host.Outcome State Fault Refusal := .next (s.runAhf e (.nop e imm) (ahfNop e imm))

/-- A Hewer that executes enters RUNNING or YIELDED: at once, or, in HALTED, at its RESUME (05 R217, R218). -/
def State.standing (n : Fin 16) (st : HewerState) (s : State) : State :=
  s.modHw n fun h => if h.st == .halted then { h with prev := st } else { h with st := st }

/-- Back at thread level: yielded if the yield mark stands (06 R258). -/
def State.atThread (e : EngineId) (s : State) : State :=
  match e with
  | .hewer n => s.standing n (if s.hw[n].eng.core.mark then .yielded else .running)
  | .warden => s

/-- Thread level: L = 32 (06, Registers). -/
def Core.thread (c : Core) : Bool := decide (32 ≤ c.lvl.toNat)

/-- YIELD: the stroke's work is done (03 R105, R106); the yield mark (06 R258). -/
def State.yields (e : EngineId) (s : State) : State :=
  let s := (s.modAct (engAct e) fun x => { x with yielded := true }).modCore e fun c => { c with mark := true }
  if (s.eng e).core.thread then s.atThread e else s

def ahfYield (e : EngineId) (imm : BitVec 8) : Ahf := ⟨encSS 0x01 imm, imm == 0, fun s => finish 1 (s.yields e)⟩

def execYield (e : EngineId) (imm : BitVec 8) (s : State) : Host.Outcome State Fault Refusal :=
  .next (s.runAhf e (.yield e imm) (ahfYield e imm))

/-- WAIT: over at once where a vector is due, else a wait (R309, R310). -/
def ahfWait (e : EngineId) (imm : BitVec 8) : Ahf :=
  ⟨encSS 0x02 imm, imm == 0, fun s => if (s.eng e).dueAny.isSome then finish 1 s else .stall .wait 0 none s⟩

def execWait (e : EngineId) (imm : BitVec 8) (s : State) : Host.Outcome State Fault Refusal := .next (s.runAhf e (.wait e imm) (ahfWait e imm))

/-- What RETI restores from the two popped words (06 R258). -/
def Core.return_ (pc : Word) (st : TWord) (c : Core) : Core :=
  { c with pc := pc, ie := bit st.val 13, lvl := fld st.val 5 6,
           fl := ⟨bit st.val 4, bit st.val 3, bit st.val 2, bit st.val 1, st.green⟩, w := vset c.w 14 (c.w[14] + 2) }

/-- RETI. -/
def ahfReti (e : EngineId) (imm : BitVec 8) : Ahf :=
  ⟨encSS 0x03 imm, imm == 0, fun s =>
    let a := (s.eng e).core.w[14]
    (loadTwo e a s).bind fun v s =>
      let s := s.modCore e (·.return_ v.1.val v.2)
      let s := if (s.eng e).core.thread then s.atThread e else s
      .ok ⟨some v.1.val, 6 + s.accessCycles e a + s.accessCycles e (a + 1), false⟩ s⟩

def execReti (e : EngineId) (imm : BitVec 8) (s : State) : Host.Outcome State Fault Refusal := .next (s.runAhf e (.reti e imm) (ahfReti e imm))

/-- EI and DI. -/
def ahfEi (e : EngineId) (imm : BitVec 8) : Ahf := ⟨encSS 0x04 imm, imm == 0, regBody e 1 fun c => { c with ie := true }⟩
def ahfDi (e : EngineId) (imm : BitVec 8) : Ahf := ⟨encSS 0x05 imm, imm == 0, regBody e 1 fun c => { c with ie := false }⟩

def execEi (e : EngineId) (imm : BitVec 8) (s : State) : Host.Outcome State Fault Refusal := .next (s.runAhf e (.ei e imm) (ahfEi e imm))
def execDi (e : EngineId) (imm : BitVec 8) (s : State) : Host.Outcome State Fault Refusal := .next (s.runAhf e (.di e imm) (ahfDi e imm))

/-- TRAP #k: the TRAP exception (06 R262). -/
def ahfTrap (_e : EngineId) (imm : BitVec 8) : Ahf := ⟨encSS 0x06 imm, true, fun s => .trap 3 (imm.setWidth 20) s⟩

def execTrap (e : EngineId) (imm : BitVec 8) (s : State) : Host.Outcome State Fault Refusal := .next (s.runAhf e (.trap e imm) (ahfTrap e imm))

/-- The steps of CKPT: the buffer, the mark, the journal, the release mark; the CKPT limit begins anew (06 R274, 19 R696). -/
def State.checkpoint (next : Word) (s : State) : State :=
  let s := s.modWdn fun w =>
    let c := w.eng.core
    let k : Fin 2 := 1 - w.done
    { w with ckpt := vset w.ckpt k { w := c.w, fl := c.fl, ie := c.ie, lvl := c.lvl, next := next }, done := k, journal := [],
             age := 0, ageOn := true }
  s.relStore .mark

/-- CKPT: ILLEGAL on a Hewer (06 R254); its commit point is at cycle 24 of 28. -/
def ahfCkpt (e : EngineId) (imm : BitVec 8) : Ahf :=
  ⟨encSS 0x20 imm, imm == 0 && e == .warden, fun s =>
    finish 4 ((s.charge e 24).checkpoint ((s.eng e).core.pc + 1))⟩

def execCkpt (e : EngineId) (imm : BitVec 8) (s : State) : Host.Outcome State Fault Refusal := .next (s.runAhf e (.ckpt e imm) (ahfCkpt e imm))

/-! Micro-routines: what precedes the commit point. -/

/-- Beats of the Loft, `k` of them, from the `i`-th on; a wait for slack keeps those paid, and holds a list head once one has been
read (07 R306). -/
def State.payLoft (e : EngineId) (head : Option Nat) : Nat → Nat → State → Ran Unit
  | _, 0, s => .ok () s
  | i, k + 1, s =>
    let r := s.engBeat e .loft
    if r.granted then State.payLoft e head (i + 1) k r.st else .stall .microSlack i (if 0 < i then head else none) r.st

/-- Waits of a Hewer's micro-routine, in order: for the verdict its operands depend on (R273), for its commit queue (R304), for a
list head that another routine holds (R306). -/
def State.microWait (n : Fin 16) (green : Bool) (head : Option Nat) (s : State) : Option StallKind :=
  if s.hw[n].eng.core.ctlG || green then some .microVerdict
  else if !s.hw[n].cq.isEmpty then some .microQueue
  else match head with
    | some h => if s.loftHeld h || s.loftHeld (h + 1) then some .listHold else none
    | none => none

/-- The routine, once nothing keeps it from its commit point; on the Warden nothing does. -/
def microBody (e : EngineId) (regs : List (Fin 16)) (head : Option Nat) (f : State → Ran Done) (s : State) : Ran Done :=
  match e with
  | .warden => f s
  | .hewer n =>
    match s.microWait n (regs.any fun r => (s.hw[n].eng.core.reg r).green) head with
    | some k => .stall k 0 none s
    | none => f s

/-- A word of the Loft in a Hewer's view. -/
def loftOf (a : Word) : Option Nat :=
  match hewerPlace a with
  | .loft w => some w
  | _ => none

/-- The Hewer may write the word, which must lie in the Loft (R305). -/
def State.mayWriteLoft (s : State) (e : EngineId) (a : Word) : Bool :=
  match e, loftOf a with
  | .hewer n, some w => loftAllowed s.lo n w
  | _, _ => false

def isHewer : EngineId → Bool
  | .hewer _ => true
  | .warden => false

/-- One more, one less, as LPUSH and LPOP count (R303). -/
def countUp (w : Word) : Word := satInc w
def countDown (w : Word) : Word := if w = 0 then 0 else w - 1

/-- Loft word at a Hewer's address, read and written, its accessibility having been checked. -/
def State.nodeRead (a : Word) (s : State) : Word × State := s.loftRead (a.toNat - 0x8000)
def State.nodeWrite (a v : Word) (s : State) : State := s.loftWrite (a.toNat - 0x8000) v

/-- LPUSH rs, rt (R303, R305): five Loft words are read or written. -/
def ahfLpush (e : EngineId) (f : L3) : Ahf :=
  ⟨encL3 0x40 f, f.z == 0 && f.aux == 0 && f.rd == 0 && isHewer e, fun s =>
    let c := (s.eng e).core
    let head := c.w[f.rs]
    let node := c.w[f.rt]
    match [node, head, head + 1].find? fun a => !s.mayWriteLoft e a with
    | some a => .trap 2 a s
    | none => microBody e [f.rs, f.rt] (loftOf head) (fun s =>
      (State.payLoft e (loftOf head) 0 5 s).bind fun _ s =>
        let (first, s) := s.nodeRead head
        let (count, s) := s.nodeRead (head + 1)
        finish (10 + 2 * s.accessCycles e head + 2 * s.accessCycles e (head + 1) + s.accessCycles e node) (((s.nodeWrite node first).nodeWrite head node).nodeWrite (head + 1) (countUp count))) s⟩

def execLpush (e : EngineId) (f : L3) (s : State) : Host.Outcome State Fault Refusal := .next (s.runAhf e (.lpush e f) (ahfLpush e f))

/-- rd ← a routine's result, tag 0. -/
def Core.result (r : Fin 16) (v : Word) (c : Core) : Core := c.put r (TWord.plain v)

/-- Z alone (R303). -/
def Core.setZ (z : Bool) (c : Core) : Core := { c with fl := { c.fl with z := z } }

/-- The list is empty: one read. -/
def lpopEmpty (e : EngineId) (f : L3) (head : Word) (s : State) : Ran Done :=
  finish (12 + s.accessCycles e head) (s.modCore e fun c => (c.result f.rd 0).setZ true)

/-- The list holds a node: NEXT(FIRST) and COUNT read, FIRST and COUNT written. -/
def lpopTake (e : EngineId) (f : L3) (head first : Word) (s : State) : Ran Done :=
  (State.payLoft e (loftOf head) 1 4 s).bind fun _ s =>
    let (next, s) := s.nodeRead first
    let (count, s) := s.nodeRead (head + 1)
    let s := (s.nodeWrite head next).nodeWrite (head + 1) (countDown count)
    finish (12 + 2 * s.accessCycles e head + 2 * s.accessCycles e (head + 1) + s.accessCycles e first) (s.modCore e fun c => (c.result f.rd first).setZ false)

/-- LPOP rd, rs: FIRST, when it is not 0, must be a Loft address (R303, R305). -/
def ahfLpop (e : EngineId) (f : L3) : Ahf :=
  ⟨encL3 0x41 f, f.z == 0 && f.aux == 0 && f.rt == 0 && isHewer e, fun s =>
    let head := (s.eng e).core.w[f.rs]
    match [head, head + 1].find? fun a => !s.mayWriteLoft e a with
    | some a => .trap 2 a s
    | none => microBody e [f.rs] (loftOf head) (fun s =>
      (State.payLoft e none 0 1 s).bind fun _ s =>
        let (first, s) := s.nodeRead head
        if first = 0 then lpopEmpty e f head s
        else if (loftOf first).isNone then .trap 2 first s
        else lpopTake e f head first s) s⟩

def execLpop (e : EngineId) (f : L3) (s : State) : Host.Outcome State Fault Refusal := .next (s.runAhf e (.lpop e f) (ahfLpop e f))

/-- Frames with a verdict released from the head of a tap, at most `k` (R303). -/
def State.freeFrames (n : Fin 16) : Nat → State → Nat × State
  | 0, s => (0, s)
  | k + 1, s =>
    match s.rxHead n with
    | some f => if f.verdict.isSome then let (m, s) := State.freeFrames n k (s.releaseHead n); (m + 1, s) else (0, s)
    | none => (0, s)

/-- CFREE rd, rs; without an ingress tap ACCESS at RX_NEXT (R303, R305; log 36). -/
def ahfCfree (e : EngineId) (f : L3) : Ahf :=
  ⟨encL3 0x42 f, f.z == 0 && f.aux == 0 && f.rt == 0 && isHewer e, fun s =>
    match e with
    | .warden => finish 0 s
    | .hewer n =>
      if !s.lo.tapIn n.val then .trap 2 0xC9808 s
      else microBody e [f.rs] none (fun s =>
        let (m, s) := State.freeFrames n (fldN s.hw[n].eng.core.w[f.rs] 0 8) s
        finish (6 + 2 * m) (s.modCore e fun c => (c.result f.rd (BitVec.ofNat 20 m)).setZ (m == 0))) s⟩

def execCfree (e : EngineId) (f : L3) (s : State) : Host.Outcome State Fault Refusal := .next (s.runAhf e (.cfree e f) (ahfCfree e f))

/-- PSWAP rd, rs (R303, 10 R386). -/
def ahfPswap (e : EngineId) (f : L3) : Ahf :=
  ⟨encL3 0x43 f, f.z == 0 && f.aux == 0 && f.rt == 0 && isHewer e, fun s =>
    match e with
    | .warden => finish 0 s
    | .hewer n => microBody e [f.rs] none (fun s =>
        let (r, s) := s.swapReq (BitVec.ofNat 5 n.val) (s.hw[n].eng.core.w[f.rs]).toNat
        finish 8 (s.modCore e fun c => (c.result f.rd (r.setWidth 20)).setZ (r == 0))) s⟩

def execPswap (e : EngineId) (f : L3) (s : State) : Host.Outcome State Fault Refusal := .next (s.runAhf e (.pswap e f) (ahfPswap e f))

/-! STAKE (R303, R307, R308). -/

/-- The owner code of an engine (05, semaphore state word). -/
def ownerOf : EngineId → BitVec 5
  | .hewer n => BitVec.ofNat 5 n.val
  | .warden => 16

/-- Attempts that a timeout allows: one every 4 cycles. -/
def stakeTries (timeout : Word) : Nat := timeout.toNat / 4 + 1

/-- Another engine holds the semaphore. -/
def State.semOther (s : State) (e : EngineId) (k : Fin 64) : Bool := s.sem[k].held && s.sem[k].owner != ownerOf e

/-- The last attempt, its beat paid: the routine's result. -/
def stakeTake (e : EngineId) (f : L3) (k : Fin 64) (s : State) : Ran Done :=
  let own := s.sem[k].held && s.sem[k].owner == ownerOf e
  let (v, s) := s.semTake (ownerOf e) k
  let got := bit v 17
  let s := s.modCore e fun c => { c.result f.rd v with fl := { c.fl with c := got, v := own } }
  let cyc := 4 + 3
  match e with
  | .warden => if got then finish 4 ((s.charge e (cyc + 24)).checkpoint ((s.eng e).core.pc + 2)) else finish cyc s
  | .hewer _ => finish cyc s

/-- An attempt that has failed, its cycles charged: the routine waits for the next (R303, R304; log 37). -/
def stakeAgain (e : EngineId) (s : State) : Ran Done :=
  .stall .stake 0 none ((s.modEng e fun x => { x with tries := x.tries + 1 }).charge e (4 + 3))

/-- STAKE rd, rs, rt: one attempt, on the semaphore as it then is. -/
def ahfStake (e : EngineId) (f : L3) : Ahf :=
  ⟨encL3 0x44 f, f.z == 0 && f.aux == 0, fun s =>
    microBody e [f.rs, f.rt] none (fun s =>
      let c := (s.eng e).core
      let k : Fin 64 := ix 64 (fldN c.w[f.rs] 0 6)
      let last := decide (stakeTries c.w[f.rt] ≤ (s.eng e).tries + 1)
      (State.payLoft e none 0 1 s).bind fun _ s => if s.semOther e k && !last then stakeAgain e s else stakeTake e f k s) s⟩

/-- The engine waits between two attempts of this STAKE. -/
def State.staking (s : State) (e : EngineId) (f : L3) : Bool :=
  match (s.eng e).stall with
  | some x => x.kind == .stake && x.instr == .stake e f && s.executes e && s.hasCompute e && (s.eng e).due.isNone
  | none => false

/-- STAKE: its first attempt, or its next (R303). -/
def execStake (e : EngineId) (f : L3) (s : State) : Host.Outcome State Fault Refusal :=
  .next (if s.staking e f then (s.modEng e fun x => { x with stall := none }).runBody e (.stake e f) (ahfStake e f)
    else s.runAhf e (.stake e f) (ahfStake e f))

end Sys2Proof.Machine
end

