-- ==== Sys2Proof/Machine/Stalls.lean ====
section
/-! DEFINITION. How stalled instructions go on (05 R202-R204, R209, R322; 06 R268, R273; 07 R304, R306, R310), STEP (05 R218), and the
accesses of taps, semaphores and coding tables that have commands of their own. -/

namespace Sys2Proof.Machine

/-- An Ahneafin instruction's engine, words and operation. -/
def ahfOf : Instr → Option (EngineId × Ahf)
  | .mov e rd rs => some (e, ahfMov e rd rs)
  | .movd e rd rs => some (e, ahfMovd e rd rs)
  | .movq e f => some (e, ahfMovq e f)
  | .movi e f => some (e, ahfMovi e f)
  | .add e f => some (e, ahfAdd e f)
  | .adc e f => some (e, ahfAdc e f)
  | .sub e f => some (e, ahfSub e f)
  | .sbc e f => some (e, ahfSbc e f)
  | .cmp e rd rs => some (e, ahfCmp e rd rs)
  | .neg e rd rs => some (e, ahfNeg e rd rs)
  | .addi e f => some (e, ahfAddi e f)
  | .addq e f => some (e, ahfAddq e f)
  | .cmpi e f => some (e, ahfCmpi e f)
  | .cmpq e f => some (e, ahfCmpq e f)
  | .and e f => some (e, ahfAnd e f)
  | .or e f => some (e, ahfOr e f)
  | .xor e f => some (e, ahfXor e f)
  | .andi e f => some (e, ahfAndi e f)
  | .ori e f => some (e, ahfOri e f)
  | .xori e f => some (e, ahfXori e f)
  | .not e rd rs => some (e, ahfNot e rd rs)
  | .tst e rd rs => some (e, ahfTst e rd rs)
  | .tsti e f => some (e, ahfTsti e f)
  | .qadd e f => some (e, ahfQadd e f)
  | .qsub e f => some (e, ahfQsub e f)
  | .qaddu e f => some (e, ahfQaddu e f)
  | .qsubu e f => some (e, ahfQsubu e f)
  | .mul e f => some (e, ahfMul e f)
  | .mulu e f => some (e, ahfMulu e f)
  | .muls e f => some (e, ahfMuls e f)
  | .addd e f => some (e, ahfAddd e f)
  | .subd e f => some (e, ahfSubd e f)
  | .shl e f => some (e, ahfShl e f)
  | .shr e f => some (e, ahfShr e f)
  | .asr e f => some (e, ahfAsr e f)
  | .ror e f => some (e, ahfRor e f)
  | .shlq e f => some (e, ahfShlq e f)
  | .shrq e f => some (e, ahfShrq e f)
  | .asrq e f => some (e, ahfAsrq e f)
  | .par e rd rs => some (e, ahfPar e rd rs)
  | .swp e rd rs => some (e, ahfSwp e rd rs)
  | .mkg e rd rs => some (e, ahfMkg e rd rs)
  | .mks e rd rs => some (e, ahfMks e rd rs)
  | .mkc e rd rs => some (e, ahfMkc e rd rs)
  | .mko e f => some (e, ahfMko e f)
  | .btst e f => some (e, ahfBtst e f)
  | .bset e f => some (e, ahfBset e f)
  | .bclr e f => some (e, ahfBclr e f)
  | .brev e f => some (e, ahfBrev e f)
  | .bfx e f => some (e, ahfBfx e f)
  | .bfi e f => some (e, ahfBfi e f)
  | .sxt e f => some (e, ahfSxt e f)
  | .ld e f => some (e, ahfLd e f)
  | .st e f => some (e, ahfSt e f)
  | .ldd e f => some (e, ahfLdd e f)
  | .std e f => some (e, ahfStd e f)
  | .lea e f => some (e, ahfLea e f)
  | .push e imm => some (e, ahfPush e imm)
  | .pop e imm => some (e, ahfPop e imm)
  | .bcc e cond off => some (e, ahfBcc e cond off)
  | .jcc e f => some (e, ahfJcc e f)
  | .callcc e f => some (e, ahfCallcc e f)
  | .jrcc e f => some (e, ahfJrcc e f)
  | .callrcc e f => some (e, ahfCallrcc e f)
  | .ret e imm => some (e, ahfRet e imm)
  | .csel e f => some (e, ahfCsel e f)
  | .crc e f => some (e, ahfCrc e f)
  | .bcrc e f steps => some (e, ahfBcrc e f steps)
  | .bcpy e f steps => some (e, ahfBcpy e f steps)
  | .bfil e f steps => some (e, ahfBfil e f steps)
  | .bpve e f steps => some (e, ahfBpve e f steps)
  | .pqnt e f => some (e, ahfPqnt e f)
  | .pdeq e f => some (e, ahfPdeq e f)
  | .pdlt e f => some (e, ahfPdlt e f)
  | .pdbd e f => some (e, ahfPdbd e f)
  | .lpush e f => some (e, ahfLpush e f)
  | .lpop e f => some (e, ahfLpop e f)
  | .cfree e f => some (e, ahfCfree e f)
  | .pswap e f => some (e, ahfPswap e f)
  | .stake e f => some (e, ahfStake e f)
  | .nop e imm => some (e, ahfNop e imm)
  | .yield e imm => some (e, ahfYield e imm)
  | .wait e imm => some (e, ahfWait e imm)
  | .reti e imm => some (e, ahfReti e imm)
  | .ei e imm => some (e, ahfEi e imm)
  | .di e imm => some (e, ahfDi e imm)
  | .trap e imm => some (e, ahfTrap e imm)
  | .ckpt e imm => some (e, ahfCkpt e imm)
  | _ => none

/-! Accesses with commands of their own. -/

/-- A single load, its value kept in `rd`; the PC stays. -/
def directLoad (e : EngineId) (a : Word) (s : State) : Ran Done :=
  (loadOne e a s).bind fun v s => .ok ⟨some (s.eng e).core.pc, 0, false⟩ { s with rd := [v.val.setWidth 32] }

/-- A single store; the PC stays. -/
def directStore (e : EngineId) (a : Word) (v : TWord) (s : State) : Ran Done :=
  (storeOne e a v s).bind fun _ s => .ok ⟨some (s.eng e).core.pc, 0, false⟩ s

/-- A write of the Warden as it is released, a fault or a stall of the port having no effect. -/
def portDone (s : State) : Access Unit → State
  | .ok _ t => t
  | _ => s

/-- The commands that are one access of an engine. -/
def directOf : Instr → Option (EngineId × (State → Ran Done))
  | .rxNext (.hewer n) => some (.hewer n, directStore (.hewer n) 0xC9808 TWord.zero)
  | .txDescWrite (.hewer n) i v => some (.hewer n, directStore (.hewer n) (0xCA000 + BitVec.ofNat 20 i.val) (TWord.plain v))
  | .txPush (.hewer n) v g => some (.hewer n, directStore (.hewer n) 0xCA003 { val := v, green := g })
  | .txAbort (.hewer n) => some (.hewer n, directStore (.hewer n) 0xCA004 TWord.zero)
  | .txTsqRead (.hewer n) => some (.hewer n, directLoad (.hewer n) 0xCA006)
  | .semTake (.hewer n) k => some (.hewer n, directLoad (.hewer n) (0xE0400 + BitVec.ofNat 20 k.val))
  | .semTake .warden k => some (.warden, directLoad .warden (0xF0400 + BitVec.ofNat 20 k.val))
  | .semRelease (.hewer n) k => some (.hewer n, directStore (.hewer n) (0xE0440 + BitVec.ofNat 20 k.val) TWord.zero)
  | .pvcDataRead n => some (.hewer n, directLoad (.hewer n) 0xE0021)
  | _ => none

/-- An engine that may executes the access of command `i`. -/
def State.runDirect (i : Instr) (s : State) : State :=
  match directOf i with
  | some (e, body) => if s.ready e then (body s).settle e i 0 else s
  | none => s

/-- RX_NEXT (05 R204); a Warden write takes effect at its release. -/
def execRxNext (e : EngineId) (s : State) : Host.Outcome State Fault Refusal :=
  .next (match e with
    | .hewer _ => s.runDirect (.rxNext e)
    | .warden => if s.awake then s.releaseWarden else s)

def execTxDescWrite (e : EngineId) (i : Fin 3) (v : Word) (s : State) : Host.Outcome State Fault Refusal :=
  .next (match e with
    | .hewer _ => s.runDirect (.txDescWrite e i v)
    | .warden => if s.awake then portDone s (s.txDesc .warden i v) else s)

def execTxPush (e : EngineId) (v : Word) (green : Bool) (s : State) : Host.Outcome State Fault Refusal :=
  .next (match e with
    | .hewer _ => s.runDirect (.txPush e v green)
    | .warden => if s.awake then portDone s (s.txPush .warden v false) else s)

def execTxAbort (e : EngineId) (s : State) : Host.Outcome State Fault Refusal :=
  .next (match e with
    | .hewer _ => s.runDirect (.txAbort e)
    | .warden => if s.awake then s.txAbort .warden else s)

/-- TX_TSQ read (11 R428); the Warden's consumption takes effect at its release, the value with it. -/
def execTxTsqRead (e : EngineId) (s : State) : Host.Outcome State Fault Refusal :=
  .next (match e with
    | .hewer _ => s.runDirect (.txTsqRead e)
    | .warden =>
      if s.awake then
        match s.txRead .warden 6 with
        | .ok v s => { s with rd := [v.val.setWidth 32] }
        | _ => s
      else s)

/-- A read of SEM_TAKE_k (05 R196): the Warden's raises ACCESS (19 R687). -/
def execSemTake (e : EngineId) (k : Fin 64) (s : State) : Host.Outcome State Fault Refusal := .next (s.runDirect (.semTake e k))

def execSemRelease (e : EngineId) (k : Fin 64) (s : State) : Host.Outcome State Fault Refusal :=
  .next (match e with
    | .hewer _ => s.runDirect (.semRelease e k)
    | .warden => if s.awake then (s.paidWrite .loft (·.semRelease 16 k)).2 else s)

def execPvcDataRead (n : Fin 16) (s : State) : Host.Outcome State Fault Refusal := .next (s.runDirect (.pvcDataRead n))

/-- The Warden raises any event but 112 to 114 (19, EVT_RAISE). -/
def State.wardenRaise (id : BitVec 7) (s : State) : State :=
  if 112 ≤ id.toNat ∧ id.toNat ≤ 114 then s else s.raiseBy actWarden (ix 128 id.toNat)

/-- A write of EVT_RAISE takes effect (05 R193; 19). -/
def execEvtRaise (e : EngineId) (id : BitVec 7) (s : State) : Host.Outcome State Fault Refusal :=
  .next (if !s.awake then s
    else match e with
      | .hewer n => s.evtRaiseAt n id
      | .warden => s.wardenRaise id)

/-! Going on. -/

/-- The stalled instruction or access is executed again, with what it has paid (03 R109, 06 R268). -/
def State.again (e : EngineId) (s : State) : State :=
  match (s.eng e).stall with
  | none => s
  | some x =>
    let t := s.modEng e fun y => { y with stall := none, paid := x.paid }
    match ahfOf x.instr with
    | some (_, a) => t.runBody e x.instr a
    | none => match directOf x.instr with
      | some (_, body) => (body t).settle e x.instr 0
      | none => t

/-- A HALT that waited for an interrupt point has its effect, once the engine is at one (05 R216). -/
def State.haltDue (e : EngineId) (s : State) : State :=
  match e with
  | .hewer n => if s.hw[n].load.haltReq && !s.hw[n].eng.slackWait then s.haltNow n else s
  | .warden => s

/-- A wait of kind `k` may be over: the instruction goes on, or waits on unchanged (06 R260: a due vector comes first, but not in a wait
for the slack pool that is no interrupt point). The stalled cycles are charged first (03 R91). A draw that fails again counts and
raises again as any draw (03 R109). -/
def State.goOn (e : EngineId) (k : StallKind) (s : State) : State :=
  match (s.eng e).stall with
  | none => s
  | some x =>
    let u := s.billStall e
    if x.kind == k && s.executes e && u.hasCompute e && ((s.eng e).due.isNone || k == .slack) then
      let t := u.again e
      if k == .slack || k == .microSlack then t.haltDue e
      else if (t.eng e).stall == (s.eng e).stall && (t.eng e).core == (s.eng e).core then s else t
    else s

/-- `arrived` words of the head frame have arrived (05 R202). -/
def State.moreArrived (n : Fin 16) (arrived : Nat) (s : State) : State :=
  match s.rxHead n with
  | some f => s.arrive f.id arrived
  | none => s

def execLoadStallEnd (n : Fin 16) (arrived : Nat) (s : State) : Host.Outcome State Fault Refusal :=
  .next (match s.hw[n].eng.stall with
    | some x => if x.kind == .load then (s.moreArrived n arrived).goOn (.hewer n) .load else s
    | none => s)

def execVerdictReadStallEnd (n : Fin 16) (s : State) : Host.Outcome State Fault Refusal := .next (s.goOn (.hewer n) .verdictRead)
def execStoreStallEnd (n : Fin 16) (s : State) : Host.Outcome State Fault Refusal := .next (s.goOn (.hewer n) .store)
def execReleaseDrainEnd (n : Fin 16) (s : State) : Host.Outcome State Fault Refusal := .next (s.goOn (.hewer n) .relDrain)
def execRxNextStallEnd (n : Fin 16) (s : State) : Host.Outcome State Fault Refusal := .next (s.goOn (.hewer n) .rxNext)
def execPushStallEnd (n : Fin 16) (s : State) : Host.Outcome State Fault Refusal := .next (s.goOn (.hewer n) .push)

/-- Base cycles of a micro-routine (07 R303). -/
def microCycles : Instr → Nat
  | .lpush _ _ => 10
  | .lpop _ _ => 12
  | .cfree _ _ => 6
  | .pswap _ _ => 8
  | _ => 4

/-- The routine completes with no effect: V = 1; N, Z, C and G are clear (06 R273). -/
def State.microVoid (n : Fin 16) (i : Instr) (s : State) : State :=
  (s.modEng (.hewer n) fun x =>
    { x.still with core := { x.core with pc := x.core.pc + 2, fl := ⟨false, false, false, true, false⟩ } }).charge (.hewer n) (microCycles i)

/-- The verdict that a micro-routine waits for has arrived (06 R273). -/
def execMicroRoutineVerdictWaitEnd (n : Fin 16) (s : State) : Host.Outcome State Fault Refusal :=
  .next (match s.hw[n].eng.stall, (s.rxHead n).bind (·.verdict) with
    | some x, some v =>
      if x.kind != .microVerdict then s
      else if bit v 0 then s.goOn (.hewer n) .microVerdict
      else
        let u := s.billStall (.hewer n)
        if s.executes (.hewer n) && u.hasCompute (.hewer n) && s.hw[n].eng.due.isNone then u.microVoid n x.instr else s
    | _, _ => s)

def execMicroRoutineQueueWaitEnd (n : Fin 16) (s : State) : Host.Outcome State Fault Refusal := .next (s.goOn (.hewer n) .microQueue)

/-- A list head is free again: Hewer `n` goes on, and the Warden where it waits for one (07 R306). -/
def execListHoldEnd (n : Fin 16) (s : State) : Host.Outcome State Fault Refusal :=
  .next ((s.goOn (.hewer n) .listHold).goOn .warden .listHold)

/-- A WAIT ends: with IE = 1 the vector is taken, with IE = 0 execution continues (07 R309). -/
def execWaitEnd (e : EngineId) (s : State) : Host.Outcome State Fault Refusal :=
  .next (match (s.eng e).stall, (s.eng e).dueAny with
    | some x, some v =>
      if x.kind == .wait && s.executes e && s.hasCompute e then
        if (s.eng e).core.ie then s.interrupt e v
        else (s.modEng e fun x => { x.still with core := { x.core with pc := x.core.pc + 1 } }).charge e 1
      else s
    | _, _ => s)

/-! STEP (05 R218, R222, R223). -/

/-- One instruction of a Hewer in HALTED, which stays there unless it faults; an instruction that would wait is abandoned (06 R268;
log 38). -/
def State.stepOnce (n : Fin 16) (s : State) : State :=
  let e := EngineId.hewer n
  let pc := s.hw[n].eng.core.pc
  let w := (s.hw[n].fetchWord pc.toNat).val
  let x := (s.hw[n].fetchWord (pc + 1).toNat).val
  let t := match s.fetchFault e (longFirst w), (decodeAhf e 1048576 w x).bind fun i => (ahfOf i).map fun p => (i, p.2) with
    | some a, _ => s.exception e 2 a
    | none, some (i, a) => s.runBody e i a
    | none, none => s.exception e 1 w
  t.modEng e Eng.still

/-- STEP (R218), refused as R222 and R223 say. -/
def State.stepHewer (a : Agent) (n : Fin 16) (s : State) : State :=
  let r := s.ctrlResult n
  if r ≠ 0 then s.hwcResult n r
  else if s.hw[n].st ≠ .halted then s.hwcResult n 1
  else if s.debugOpen a n && !s.claimed (4 + n.val) then (s.hwcResult n 0).stepOnce n
  else s.hwcResult n 2

def execHewerStep (a : Agent) (n : Fin 16) (s : State) : Host.Outcome State Fault Refusal :=
  let s := s.paid a
  .next (if s.reaches a then s.stepHewer a n else s)

end Sys2Proof.Machine
end

