-- ==== Sys2Proof/Machine/WindowWrite.lean ====
section
/-! DEFINITION. The registers of Window A as an agent writes them (24 R859; 00 R9, R10, R13; the Registers sections of 03, 05,
10-13, 17 and 20-22). A write of a field that is not writable, or of a reserved offset, has no effect. -/

namespace Sys2Proof.Machine

/-- A value kept within a range. -/
def clampNat (w lo hi : Nat) (v : BitVec w) : BitVec w :=
  if v.toNat < lo then BitVec.ofNat w lo else if hi < v.toNat then BitVec.ofNat w hi else v

/-- SYS (17). -/
def Dma.write (off : Nat) (v : BitVec 32) (d : Dma) : Dma :=
  let free := !(d.en || d.busy)
  match off with
  | 0x04 => if free then { d with base := fld d.base 32 32 ++ (v &&& 0xFFFFFFF0) } else d
  | 0x08 => if free then { d with base := v ++ fld d.base 0 32 } else d
  | 0x14 => { d with halt := d.halt && !bit v 1 }
  | _ => d

def Msix.write (off : Nat) (v : BitVec 32) (m : Msix) : Msix :=
  match off with
  | 0x0 => { m with addr := fld m.addr 32 32 ++ v }
  | 0x4 => { m with addr := v ++ fld m.addr 0 32 }
  | 0x8 => { m with data := v }
  | _ => { m with mask := bit v 0 }

def State.sysWrite (off : Nat) (v : BitVec 32) (s : State) : State :=
  if off = 0x00C then (if fld v 0 20 = 0x04852#20 then s.hostReset else s)
  else if off = 0x010 then s.modHost fun h => { h with page := fld v 0 8 }
  else if 0x100 ≤ off ∧ off < 0x200 then
    let c : Fin 8 := ix 8 ((off - 0x100) / 0x20)
    match off % 0x20 with
    | 0x00 => s.dmaCfg c v
    | 0x0C => s.dmaTail c (fld v 0 12)
    | k => s.modDma c (Dma.write k v)
  else if 0x800 ≤ off ∧ off < 0xA00 then
    s.modHost fun h => { h with msix := vmod h.msix (ix 32 ((off - 0x800) / 0x10)) (Msix.write (off % 0x10) v) }
  else s

/-- SBU (03): CTRL, OVERRUN_k and EG_SEL. -/
def State.sbuWrite (off : Nat) (v : BitVec 32) (s : State) : State :=
  if off = 0x000 then (if bit v 0 then s.clearSbu else s)
  else if 0x040 ≤ off ∧ off < 0x050 then
    let k := (off - 0x040) / 4
    let gone (a : ActId) : Bool := a.val / 16 == k && bit v (a.val % 16)
    s.modSbu fun b =>
      { b with act := Vector.ofFn fun a : ActId => if gone a then { b.act[a] with overrun := false } else b.act[a] }
  else if off = 0x100 then s.modSbu fun b => { b with egPort := fld v 8 3, egAct := fld v 0 6 }
  else s

/-- HWC.CTRL (05 R222, R223). -/
def State.hwcCtrl (a : Agent) (n : Fin 16) (v : BitVec 32) (s : State) : State :=
  match [0, 1, 2, 4].filter (bit v) with
  | [] => s
  | [0] => s.haltHewer n
  | [1] => s.resumeHewer n
  | [2] => s.ctrlReset n (bit v 3)
  | [4] => s.stepHewer a n
  | _ => s.hwcResult n 3

def State.hwcWrite (a : Agent) (n : Fin 16) (off : Nat) (v : BitVec 32) (s : State) : State :=
  match off with
  | 0x000 => s.hwcCtrl a n v
  | 0x008 => s.modRegs n fun r => { r with faultAct := bit v 0 }
  | 0x0C8 => s.modRegs n fun r => { r with dbgAddr := fld v 0 15 }
  | _ => s

/-- ETH (11): a port's block. -/
def State.portWrite (p : Fin 6) (off : Nat) (v : BitVec 32) (s : State) : State :=
  match off with
  | 0x008 =>
    let s := if bit v 1 then s.diagStart p else s
    if bit v 0 then s.linkRestart p else s
  | 0x00C => s.modPort p fun e => { e with thr := atLeastOne (fld v 0 4) }
  | 0x018 => s.modPort p fun e => { e with txAdj := fld v 16 12, rxAdj := fld v 0 12 }
  | _ => s

/-- ETH: the shared registers. -/
def State.ethSharedWrite (off : Nat) (v : BitVec 32) (s : State) : State :=
  match off with
  | 0xF00 => if bit v 31 then s.snapTally (bit v 30) else s
  | 0xF10 => s.modEth fun e =>
    { e with mdio := { e.mdio with preSup := bit v 8, div := if fldN v 0 8 < 4 then 4 else fld v 0 8 } }
  | 0xF14 => s.mdioStart (fld v 0 30)
  | _ => s

/-- LND (12). -/
def State.lndWrite (off : Nat) (v : BitVec 32) (s : State) : State :=
  match off with
  | 0x0004 => s.modLnd fun l => { l with low := fld v 0 15 }
  | 0x0008 => if bit v 31 then s.modLnd fun l => { l with min := BitVec.ofNat 15 s.freeCells } else s
  | 0x1100 => if bit v 31 then s.ltFlush (fld v 0 8) else s
  | 0x1104 => s.modLnd fun l => { l with ltSel := fld v 0 13 }
  | _ => s

/-- GRD (13). -/
def State.grdWrite (off : Nat) (v : BitVec 32) (s : State) : State :=
  match off with
  | 0x010 => s.modGrd fun g => { g with plane := bit v 16, index := fld v 0 15 }
  | 0x018 => if bit v 0 then s.ofcFlush else s
  | 0x020 => s.modGrd fun g => { g with sel := fld v 0 6 }
  | _ => s

/-- GAL.SWAP_REQ (10 R385): the requester is the agent that writes. -/
def State.swapWrite (a : Agent) (g : Nat) (s : State) : State :=
  let (r, s) := s.swapReq (agentCode a) g
  s.modGal fun x => { x with swapRes := r }

/-- GAL (10). A write of LEASE_CTRL releases before it acquires; a held slot keeps its group (R391). -/
def State.galRegWrite (a : Agent) (off : Nat) (v : BitVec 32) (s : State) : State :=
  if off < 0x010 then s.modGal fun x => { x with settled := x.settled &&& ~~~(v.setWidth 128 <<< (8 * off)) }
  else if off = 0x010 then (if bit v 31 then s.swapWrite a (fldN v 0 7) else s)
  else if 0x040 ≤ off ∧ off < 0x080 then
    s.modGal fun x => { x with lease := vmod x.lease (ix 16 ((off - 0x040) / 4)) fun l =>
      if l.held then l else { l with grp := fld v 0 7 } }
  else if off = 0x080 then (s.release (fld v 16 16)).acquire (fld v 0 16)
  else if off = 0x084 then
    s.modGal fun x =>
      { x with lease := Vector.ofFn fun i : Fin 16 => { x.lease[i] with broken := x.lease[i].broken && !bit v (16 + i.val) } }
  else s

/-- The highest of the eight temperature sensors, in 0.125 °C. -/
def Sensors.hottest (x : Sensors) : BitVec 12 := x.temp.toList.foldl (fun m t => if m.slt t then t else m) x.temp[(0 : Fin 8)]

/-- PWR.STATE_REQ (22 R804): WAKE, then REQ. -/
def State.stateReq (v : BitVec 32) (s : State) : State :=
  let s := if bit v 8 then s.wakeBy 4 else s
  if fldN v 0 2 = 1 then s.restRequest false else if fldN v 0 2 = 2 then s.restRequest true else s

/-- PWR.ALARM: a write of HI arms it, zero in both words disarms it. -/
def Pwr.setAlarm (hi : Bool) (w : Word) (p : Pwr) : Pwr :=
  let x : BitVec 40 := if hi then w ++ fld p.alarm 0 20 else fld p.alarm 20 20 ++ w
  { p with alarm := x, alarmOn := (hi || p.alarmOn) && x != 0 }

/-- PWR.THERM; the manual states no result for a RESUME outside 40 to 115 °C (log 5). -/
def State.setTherm (v : BitVec 32) (s : State) : State :=
  let r : BitVec 8 := fld v 8 8
  let ok := decide (40 ≤ r.toNat ∧ r.toNat ≤ 115)
  let f : BitVec 8 := s.freeVal 8
  let s := if ok then s else s.drawn
  s.modPwr fun p => { p with autoResume := bit v 24, resume := if ok then r else f, high := clampNat 8 60 120 (fld v 0 8) }

/-- PWR (22). -/
def State.pwrWrite (a : Agent) (off : Nat) (v : BitVec 32) (s : State) : State :=
  match off with
  | 0x004 => s.stateReq v
  | 0x00C => s.modPwr fun p => { p with wakeCfg := fld v 0 4 }
  | 0x014 => s.modPwr (Pwr.setAlarm false (fld v 0 20))
  | 0x018 => s.modPwr (Pwr.setAlarm true (fld v 0 20))
  | 0x020 => s.modPwr fun p => { p with vinLow := clampNat 12 420 3200 (fld v 0 12) }
  | 0x028 => s.setTherm v
  | 0x02C => if bit v 31 then s.modPwr fun p => { p with peak := s.wdn.sens.hottest } else s
  | 0x040 => if bit v 9 == bit v 8 then s else s.islandRequest a (bit v 8) (fld v 0 6)
  | _ => s

/-- WDN (21 R761): the staging buffer ignores the host while it is locked. -/
def State.wdnWrite (a : Agent) (off : Nat) (v : BitVec 32) (s : State) : State :=
  if off = 0x144 then { s with upd := { s.upd with reverted := s.upd.reverted && !bit v 30 } }
  else if off = 0x148 then { s with upd := { s.upd with slotSel := fld v 0 10 &&& 0x37F } }
  else if 0x1000 ≤ off ∧ off < 0x2000 ∧ !(a == .host && s.updateLock) then
    let m := (List.range 4).foldl (fun m i => memWrite 0 m (off - 0x1000 + i) (fld v (8 * i) 8)) s.upd.ubuf
    { s with upd := { s.upd with ubuf := m } }
  else s

/-- SEC (20). A DEBUG_UNLOCK that is being checked keeps the host's hands off AUTH and SIG (R758). -/
def State.secWrite (a : Agent) (off : Nat) (v : BitVec 32) (s : State) : State :=
  if 0x100 ≤ off ∧ off < 0x1A8 ∧ a = .host ∧ s.checking true 0x070 then s
  else if 0x100 ≤ off ∧ off < 0x140 then s.modSec fun x => { x with auth := vset x.auth (ix 16 ((off - 0x100) / 4)) (fld v 0 20) }
  else if 0x140 ≤ off ∧ off < 0x1A8 then s.modSec fun x => { x with sig := vset x.sig (ix 26 ((off - 0x140) / 4)) (fld v 0 20) }
  else if off = 0x240 then (if bit v 0 then s.rngRequest .host else s)
  else if off = 0x280 then (if bit v 0 then s.attest else s)
  else s

/-- The register at Window A offset `off`, whose unit hears the write. -/
def State.regWrite (a : Agent) (off : Nat) (v : BitVec 32) (s : State) : State :=
  if off < 0x1000 then s.sysWrite off v
  else if off < 0x2000 then s.timeWrite a (off - 0x1000) v
  else if off < 0x3000 then s.sbuWrite (off - 0x2000) v
  else if off < 0x4000 then s
  else if off < 0x8000 then s.evtWrite a (off - 0x4000) v
  else if off < 0xC000 then s.ctxWrite (ix 4 ((off - 0x8000) / 0x1000)) (off % 0x1000) v
  else if off < 0x10000 then s.hwcWrite a (ix 16 ((off - 0xC000) / 0x400)) (off % 0x400) v
  else if 0x10F00 ≤ off ∧ off < 0x11000 then s.ethSharedWrite (off - 0x10000) v
  else if off < 0x16000 then s.portWrite (ix 6 ((off - 0x10000) / 0x1000)) (off % 0x1000) v
  else if off < 0x18000 then s
  else if off < 0x1C000 then s.lndWrite (off - 0x18000) v
  else if off < 0x20000 then s.grdWrite (off - 0x1C000) v
  else if off < 0x28000 then s.canWrite a (ix 4 ((off - 0x20000) / 0x2000)) (off % 0x2000) v
  else if off < 0x2C000 then s.trdWrite a (off - 0x28000) v
  else if off < 0x2CC00 then s.twbWrite a (ix 3 ((off - 0x2C000) / 0x400)) (off % 0x400) v
  else if off < 0x30000 then s
  else if off < 0x34000 then s.galRegWrite a (off - 0x30000) v
  else if off < 0x38000 then s.pwrWrite a (off - 0x34000) v
  else if off < 0x3C000 then s.wdnWrite a (off - 0x38000) v
  else if off < 0x40000 then s.secWrite a (off - 0x3C000) v
  else s

/-- A whole-register write of Window A by the host or the Warden. -/
def State.writeA (a : Agent) (off : Nat) (v : BitVec 32) (s : State) : State :=
  if s.hearsReg a off then s.regWrite a (off / 4 * 4) v else s

end Sys2Proof.Machine
end

