-- ==== Sys2Proof/Machine/Release.lean ====
section
/-! DEFINITION. The release queue: what leaves the Warden (06 R275; 19 R688-R690, R713-R717; 20 R743). -/

namespace Sys2Proof.Machine

/-- A word of the Warden's Chutes written (19, Warden I/O; 18). -/
def State.wardenChute (i : Nat) (v : Word) (s : State) : State :=
  let r := i % 0x20
  if i < 0x1400 then
    let c := wardenOut ((i - 0x1000) / 0x20)
    if r < 16 then s.chuteWrite .warden c (ix 16 r) v
    else if r = 16 then s.chuteOut .warden c (bit v 19) (bit v 18) (fld v 0 5)
    else s
  else if r = 16 ∧ bit v 19 then s.chuteFree .warden (wardenIn ((i - 0x1400) / 0x20))
  else s

/-- FCMD (19): nothing starts while an operation is in progress. -/
def State.flashCmd (v : Word) (s : State) : State :=
  if v = 1 then s.flashProgram
  else if v = 2 then s.flashErase
  else if v = 3 then s.modWdn fun w => { w with flocked := true }
  else if v = 4 then s.modWdn fun w => { w with flocked := false }
  else s

/-- The Warden's swap request and its result (10 R385, R386). -/
def State.wardenSwap (g : Nat) (s : State) : State :=
  let (r, s) := s.swapReq 16 g
  s.modWdn fun w => { w with swapRes := r }

/-- A word of the Warden port written: false while its frame word waits. A word that may not be written has no effect. -/
def State.wardenPortWrite (p : PortWord) (v : Word) (s : State) : Bool × State :=
  match (match p with
    | .rx j => s.rxWrite .warden j
    | .tx j => s.txWrite .warden j v false) with
  | .ok _ s => (true, s)
  | .stall _ => (false, s)
  | .fault => (true, s)

/-- A Warden I/O word written (19, Warden I/O). -/
def State.wardenIoWrite (i : Nat) (v : Word) (s : State) : Bool × State :=
  match wardenPort i with
  | some p => s.wardenPortWrite p v
  | none =>
    if 0x440 ≤ i ∧ i < 0x480 then s.paidWrite .loft (·.semRelease 16 (ix 64 (i - 0x440)))
    else (true,
      match i with
      | 0x18 => s.wardenRaise (fld v 0 7)
      | 0x26 => s.stepqPop
      | 0x31 => if bit v 19 then s.wardenSwap (fldN v 0 7) else s
      | 0x40 => s.rngRequest .warden
      | 0x4000 => s.modWdn fun w => { w with faddr := (fld w.faddr 20 5 ++ v : BitVec 25) }
      | 0x4001 => s.modWdn fun w => { w with faddr := (fld v 0 5 ++ fld w.faddr 0 20 : BitVec 25) }
      | 0x4020 => s.flashCmd v
      | _ =>
        if 0x1000 ≤ i ∧ i < 0x1680 then s.wardenChute i v
        else if 0x4010 ≤ i ∧ i < 0x4020 then s.modWdn fun w => { w with fbuf := vset w.fbuf (ix 16 (i - 0x4010)) v }
        else s)


/-- A queued write of the word at `a`. -/
def State.wordOut (a v : Word) (s : State) : Bool × State :=
  match wardenPlace a with
  | .loft w => if s.loftHeld w then (false, s) else s.paidWrite .loft (·.loftWrite w v)
  | .gal w => s.paidWrite .gal (·.galWrite 16 w (BitVec.allOnes 20) v)
  | .io i => s.wardenIoWrite i v
  | _ => (true, s)

/-- A register all of whose writable fields above bit 19 clear when written 1: with no high half written nothing of them changes. -/
def clearsHigh (off : Nat) : Bool :=
  (decide (0x4000 ≤ off) && decide (off < 0x4010)) || (decide (0x30000 ≤ off) && decide (off < 0x30010)) || off == 0x30084 || off == 0x38144

/-- Bits 31:20 that a write of a register's low word brings: the held ones, else those it has (05 R191). -/
def State.pageHigh (s : State) (off : Nat) : BitVec 12 :=
  let h := s.latched heldReader off
  if bit h 12 then fld h 0 12 else if clearsHigh off then 0 else fld (s.readA .warden off).1 20 12

/-- A queued write of a register's low word. -/
def State.pageOut (off : Nat) (v : Word) (s : State) : State :=
  (s.latch heldReader off 0).writeA .warden off (s.pageHigh off ++ v)

/-- A queued consumption takes effect; what it latched was latched at the read (R689). -/
def State.consumption (t : WTarget) (s : State) : State :=
  match t with
  | .reg off => { (s.readA .warden off).2 with host := { (s.readA .warden off).2.host with shadow := s.host.shadow } }
  | .word a => if a = 0xF0041 then s.wardenRng.2 else if a = 0xF3006 then s.tsqPop .warden else s
  | .high _ => s

/-- SYSTEM_RESET's response, answered OK: the W reset follows in 10 µs (R717). -/
def State.resetDue (words : List Word) (s : State) : State :=
  if fldN (words.getD 0 0) 0 12 = 2 ∧ words.getD 1 0 = 0 then
    s.modPwr fun p => { p with resetAt := some (s.tb.clk.cycles + 5000) } else s

/-- The slot words of a channel, one after another. -/
def State.chuteWords (c : Fin 168) : Nat → List Word → State → State
  | _, [], s => s
  | i, v :: vs, s => State.chuteWords c (i + 1) vs (s.chuteWrite .warden c (ix 16 i) v)

/-- A response to a context: dropped where its channel is, or becomes, aborted (R715). -/
def State.answerCtx (h : Fin 4) (words : List Word) (s : State) : State :=
  let c : Fin 168 := ix 168 (4 + h.val)
  let s := if s.chu.chan[c].st = .aborted then s.chuteAck .warden c else s
  let s := ((s.chuteWords c 0 words).chuteSend .warden c (BitVec.ofNat 5 words.length)).resetDue words
  if s.chu.chan[c].st = .full then s.raiseBy actWarden evCmdDone else s.chuteAck .warden c

/-- A response leaves the Warden (R713-R715). -/
def State.answer (src : CmdSource) (words : List Word) (s : State) : State :=
  match src with
  | .ctx h => s.answerCtx h words
  | .svp =>
    let s : State := { s with sent := .svp 0x02 words :: s.sent }
    (s.resetDue words).raiseBy actWarden evCmdDone

/-- An entry takes effect outside; false when it has to wait. -/
def State.outside (e : REntry) (s : State) : Bool × State :=
  match e with
  | .mark => (true, s)
  | .write (.word a) v => s.wordOut a v
  | .write (.reg off) v => (true, s.pageOut off v)
  | .write (.high off) v => (true, s.latch heldReader off (bitAt true 12 ||| at32 (fld v 0 12) 0))
  | .consume t => (true, s.consumption t)
  | .response src ws => (true, s.answer src ws)
  | .message k ws => (true, { s with sent := .svp k ws :: s.sent })
  | .log t a time sync p => (true, s.logWrite t a time sync p)
  | .fuse b => (true, { s with flash := s.flash.blow b })
  | .free h => (true, s.chuteFree .warden (ix 168 h.val))

/-- A response waits while its channel is FULL (R714), and with it what stands behind it (06 R275). -/
def State.responseWaits (s : State) : REntry → Bool
  | .response (.ctx h) _ => s.chu.chan[(ix 168 (4 + h.val) : Fin 168)].st == .full
  | _ => false

/-- The entry that may go out, with what stands behind it: the first, when a mark stands behind it (R275). -/
def State.nextOut (s : State) : List REntry → Option (REntry × List REntry)
  | [] => none
  | e :: es =>
    if e == .mark then s.nextOut es
    else if es.contains .mark && !s.responseWaits e then some (e, es) else none

/-- One entry is released (R275, R690), during a management restart and in MGMT_DOWN too; none while the next waits for a beat. -/
def State.releaseOne (s : State) : State :=
  match (if s.wdn.relWait then none else s.nextOut s.wdn.relq) with
  | none => s
  | some (e, es) =>
    let (ok, s) := (s.modWdn fun w => { w with relq := es.dropWhile (· == .mark) }).outside e
    if ok then (if s.wdn.mode == .run then s.modWdn (·.pump) else s) else s.modWdn fun w => { w with relq := e :: es }

/-- Step 4 of a boundary: the entry that waits for a beat tries again (03 R109). -/
def State.releaseAgain (s : State) : State :=
  if s.wdn.relWait then (s.modWdn fun w => { w with relWait := false }).releaseOne else s

/-- STEPQ_POP: the checkpoint that released the head entry's record has it go too (02 R54; 19, step table). -/
def execStepqPop (s : State) : Host.Outcome State Fault Refusal :=
  .next (if s.awake && !s.wdn.relWait && (s.nextOut s.wdn.relq).any (·.1 == popEntry) then s.releaseOne else s)

def execReleaseQueueRelease (s : State) : Host.Outcome State Fault Refusal := .next (if s.awake then s.releaseOne else s)

end Sys2Proof.Machine
end

