-- ==== Sys2Proof/Machine/Boundary.lean ====
section
/-! DEFINITION. The stroke boundary (01 R20), the changeover it may perform and the end of its hinge (04), and parking for
compute (03 R100). -/

namespace Sys2Proof.Machine

/-! Step 2. -/

/-- A stroke begins at grid point `start`: the counter advances (R20 step 2, R40, R41). A Tread cycle that the boundary cuts short counts
as one (15 R557). -/
def State.beginStroke (start : Nat) (s : State) : State :=
  let st := s.tb.stroke
  let s : State := { s with trd := { s.trd with base := s.trd.base + ceilDiv (s.tb.clk.cycles - s.tb.stroke.cyc0) 2 } }
  let s := s.modTb fun t =>
    { t with pps := t.pps.map (·.begun start),
             stroke := { t.stroke with count := st.count + 1, running := true, start := start, cyc0 := t.clk.cycles,
                                       phases := Vector.replicate 3 false, settled := 0 } }
  s.raiseIf (st.count + 1 == 0) evStrokeWrap

/-- A cold pause has one boundary less to wait for (04 R166). -/
def Hewer.pauseStep (h : Hewer) : Hewer :=
  match h.load.pause with
  | some (k + 1) => { h with load := { h.load with pause := some k } }
  | _ => h

def State.pauseSteps (s : State) : State := { s with hw := s.hw.map (·.pauseStep) }

/-! Step 3: the changeover (04 R132, R160-R176). -/

/-- A pin's record differs between two layouts (R162). -/
def pinChanges (old new : Layout) (i : Fin 96) : Bool := old.pin i.val != new.pin i.val

/-- A pin that keeps its record while the flight that drives it stops and starts again or stops for good. -/
def State.pinStays (s : State) (old new : Layout) (i : Fin 96) : Bool :=
  let r := old.pin i.val
  !pinChanges old new i && pinKind r == 1 &&
    (let m := s.plans.flight[(ix 4 (pinUnit r / 8))]; m == .change || m == .stop)

/-- At t = 0 a changing pin goes to the new record's FALLBACK, and one whose record is equal is not touched (R162). -/
def State.hingePins (old new : Layout) (s : State) : State :=
  let high := (List.finRange 96).foldl (fun m i =>
    if pinChanges old new i || s.pinStays old new i then setBit m i.val (s.pinHigh i) else m) s.pins.high
  let use := Vector.ofFn fun i : Fin 96 =>
    if pinChanges old new i then PinUse.fallback else if s.pinStays old new i then PinUse.hold else s.pins.use[i]
  { s with pins := { recs := Vector.ofFn fun i : Fin 96 => new.pin i.val, use := use, high := high,
                      unfed := s.pins.unfed } }

/-- A Hewer at t = 0 of the hinge, by its plan (R136, R165). A re-application in progress goes on, with the new image (R180): it then
ends in the Hewer's start. -/
def State.hingeHewer (new : Layout) (n : Fin 16) (s : State) : State :=
  let p := s.plans.hewer[n]
  let again := bit s.pwr.reapply (4 + n.val)
  let load := { HewerLoad.idle with loading := again, reapply := again }
  match p.mode with
  | .absent => s
  | .carry => s
  | .change => s
  | .warm =>
    ((s.hewerTo n (if again then .loading else .stopped)).releaseHewer n).modHw n fun h =>
      { h with bank := if again then h.bank else !h.bank, load := load }
  | .cold =>
    ((s.hewerTo n .loading).releaseHewer n).modHw n fun h =>
      { h with load := { load with loading := true, pause := some p.pause.toNat } }
  | .start =>
    s.modHw n fun h =>
      { h with st := if again then .loading else .stopped, load := load,
               bank := if again then h.bank else if new.bothBanks n.val then false else if p.ready then !h.bank else h.bank }
  | .stop => ((s.hewerTo n .absent).releaseHewer n).modHw n fun h => { h with load := HewerLoad.idle }

/-- A flight at t = 0 of the hinge, by its plan (R133). -/
def State.hingeFlight (f : Fin 4) (s : State) : State :=
  let m := s.plans.flight[f]
  if m = .change ∨ m = .stop ∨ m = .start then
    (s.clearFlight f).modFlight f fun x => { x with resetting := false, bank := if m = .stop then x.bank else !x.bank }
  else s

/-- The histories of the streams that both layouts have, under the new layout's indices (12 R481). -/
def frerMoved (old new : Layout) (m : Mem (Option Frer)) : Mem (Option Frer) :=
  (List.range (min new.nstream 256)).foldl (fun r j => memWrite none r j (match streamMoved new old j with
    | some k => memRead none m k
    | none => none)) []

/-- A frame of the Landing at a changeover: it goes by the old plane from now on (R170), a copy in flight by its stream's new index
(12 R481), and a deferred one by no slot of the lists that have gone (02 R77). -/
def Frame.changed (old new : Layout) (f : Frame) : Frame :=
  { f with
    old := true,
    frer := match f.frer with
      | some (k, n) => (streamMoved old new k).map fun j => (j, n)
      | none => none,
    deferred := f.deferred.map fun d => { d with entry := none } }

/-- The new plane's network tables apply (R171, R173; 12 R481; 11 R874). -/
def State.hingeNet (old new : Layout) (s : State) : State :=
  let s := s.modGrd fun g => { g with bank := !g.bank }
  let s := s.modLnd fun l => { l with prev := some old, frames := l.frames.map (·.changed old new) }
  let s := if sameGrader old new then s else s.ofcFlush
  let s := s.modLnd fun l =>
    { l with deficit := Vector.replicate 64 0,
             frer := frerMoved old new l.frer }
  let s := s.installStatics
  (List.finRange 6).foldl (fun s p => if old.mode p.val = new.mode p.val then s else s.linkRestart p) s

/-- The groups whose settle points fall inside the hinge (R176). -/
def Layout.hingeGroups (L : Layout) : BitVec 128 :=
  (L.groups.filter fun r => decide (4 * L.settleAt r < hingeCycles)).foldl (fun m r => setBit m r.group true) 0

/-- What the end of the hinge still has to do. -/
def State.hingeTodo (old new : Layout) (s : State) : Hinge :=
  { active := true,
    pins := (List.finRange 96).filter fun i => pinChanges old new i || s.pinStays old new i,
    hewers := (List.finRange 16).filter fun n => s.plans.hewer[n].mode == .warm || s.plans.hewer[n].mode == .start,
    flights := (List.finRange 4).filter fun f => s.plans.flight[f] == .change || s.plans.flight[f] == .start,
    settles := new.hingeGroups, cyc := s.tb.clk.cycles }

/-- The changeover from `old` to `new` (R160): planes swap, the hinge begins. -/
def State.changeover (old new : Layout) (s : State) : State :=
  let todo := s.hingeTodo old new
  let s := s.hingePins old new
  let s := (List.finRange 16).foldl (fun s n => s.hingeHewer new n) s
  let s := (List.finRange 4).foldl (fun s f => s.hingeFlight f) s
  let c := s.lay.chgCnt
  let s := s.modLay fun l =>
    { l with active := some new, shadow := some old, chgStroke := s.tb.stroke.count, chgCnt := satInc l.chgCnt }
  let s := s.satEvent c 1
  let s := (s.hingeNet old new).remap old new
  let s : State := { s with sec := { s.sec with wclaim := 0xF }, plans := { s.plans with hinge := todo } }
  s.plan fun n => hewerMode new old n.val == .warm

/-- Entry 0 is aborted: its record, and the activation it stood for (19 R707; 21 R783). -/
def State.changeoverAborted (s : State) : State :=
  let s := s.modUpd fun x => { x with lay := none }
  s.changeoverLog s.lay.abortReason.toNat

/-- The flight starts of an entry that has fired with ACTION 1 (R70). -/
def State.fireFlights (e : Sched) (s : State) : State :=
  if e.action = 1 then (List.finRange 4).foldl (fun t f => if bit e.mask f.val then t.startSet f else t) s else s

/-- Step 3 of a boundary: entry 0 is evaluated (R60-R64, R70), and the running stroke's end is set (R71). -/
def State.stepThree (start : Nat) (s : State) : State :=
  let (fired, t) := s.evalSched 0 start
  let t := if t.tb.sched[(0 : Fin 16)].st == .aborted && s.tb.sched[(0 : Fin 16)].st == .pending then t.changeoverAborted else t
  let (changed, t) : Bool × State :=
    if fired then
      match t.lay.active, t.lay.shadow with
      | some old, some new => if t.lay.st == .valid then (true, (t.changeover old new).raise evSchedFired) else (false, t.raise evSchedFired)
      | _, _ => (false, t.raise evSchedFired)
    else (false, t)
  let t := if fired then t.fireFlights s.tb.sched[(0 : Fin 16)] else t
  t.modTb fun b =>
    { b with stroke := { b.stroke with ends := some (if changed then t.lo.gridFrom (start + t.lo.periodQ) else t.lo.gridAfter start) } }

/-! Step 4: refill and release (03 R97-R100). -/

/-- A Hewer is released from its park or yield. -/
def Hewer.released (h : Hewer) : Hewer :=
  let h := { h with eng := { h.eng with core := { h.eng.core with mark := false } }, stallRaised := false }
  match h.st with
  | .parked => { h with st := .running }
  | .yielded => { h with st := .running }
  | .halted => { h with prev := .running }
  | _ => h

/-- A Tread is released, and owes its YIELD again (15 R573). -/
def Tread.released (x : Tread) : Tread := { x.unpark with yielded := false }

/-- What waited for a budget tries again. -/
def State.releaseHeld (s : State) : State :=
  let s := (s.modLnd fun l => { l with frames := l.frames.map fun f => { f with held := [] } }).presentWarden
  let s := s.modHost fun h => { h with dma := h.dma.map fun d => { d with held := false } }
  { s with trd := { s.trd with flight := s.trd.flight.map fun f => { f with stallRaised := false } } }

/-- Every activity is released. -/
def State.releaseAll (s : State) : State :=
  let s := s.modSbu fun b => { b with act := b.act.map fun x => { x with parked := false, yielded := false } }
  let asleep := (List.finRange 32).filter fun t => s.trd.tread[t].st == .parked
  let s : State := { s with hw := s.hw.map (·.released), trd := { s.trd with tread := s.trd.tread.map (·.released) } }
  let s := asleep.foldl (fun s t => s.rouse t) s
  s.modWdn fun w => { w with eng := { w.eng with core := { w.eng.core with mark := false } } }

/-- The engines and flights of the boot layout start with its first stroke (22, Start-up). -/
def State.firstStarts (s : State) : State :=
  let s := (List.finRange 16).foldl (fun s n =>
    if s.lo.present n.val && s.hw[n].st == .stopped && !s.hw[n].load.resetting then s.startHewer n else s) s
  (List.finRange 4).foldl (fun s f => s.startSet f) s

/-- Step 4: refill, release, held deliveries, local source 4 (STROKE) of the Hewers and 8 of the Warden. -/
def State.stepFour (first : Bool) (s : State) : State :=
  let s := s.refill.releaseAll
  let s := s.serveHeld.releaseHeld
  let s := (s.lsrcAll 4).wsrc 8
  if first then s.firstStarts else s

/-! Steps 5 and 6. -/

/-- Step 5: every gate list begins again (12 R462); TREAD_TIME restarts with the stroke. -/
def State.stepFive (s : State) : State :=
  s.modLnd fun l =>
    { l with entry := Vector.replicate 6 0, cycle := Vector.replicate 6 0, turn := l.turn.map (· + 1) }

/-- Entries 1 to 15 (R60-R64, R70); an entry 1 that aborts takes its activation with it (21 R783). -/
def State.stepSix (start : Nat) (s : State) : State :=
  ((List.finRange 16).filter fun n => 0 < n.val).foldl (fun s n =>
    let e := s.tb.sched[n]
    let (fired, t) := s.evalSched n start
    if fired then (t.raise evSchedFired).fireFlights e
    else if n = 1 ∧ e.st = .pending ∧ t.tb.sched[n].st = .aborted ∧ (t.upd.fw.map (·.at_)) = some true then
      t.modUpd fun x => { x with fw := none }
    else t) s

/-- What waits for the slack pool goes on: the Warden first, then the Hewers in ascending number (03 R109, R110). -/
def State.slackAgain (s : State) : State :=
  (EngineId.warden :: (List.finRange 16).map EngineId.hewer).foldl (fun s e => (s.goOn e .slack).goOn e .microSlack) s.releaseAgain

/-- A boundary at grid point `start` (R20). -/
def State.boundary (start : Nat) (s : State) : State :=
  let first := !s.tb.stroke.running && s.tb.stroke.count == 0
  let s := s.endStroke
  let s := (s.beginStroke start).pauseSteps
  let s := ((s.stepThree start).stepFour first).stepFive
  (s.stepSix start).slackAgain

/-- STROKE_BOUNDARY: the next grid point is reached. A controlled stop halts there (22 R820), a request to rest takes effect
there (22 R805). Steps committed in its core cycle apply in the next (R59). -/
def execStrokeBoundary (s : State) : Host.Outcome State Fault Refusal :=
  .next (if !s.awake then s
    else match s.tb.stroke.ends with
      | none => s
      | some e =>
        if s.pwr.stop then (if s.stopping && !s.beforeEnd s.stopCycle then s.endStroke.haltAll.lateSteps else s)
        else if s.pwr.req.isSome then s.enterRest.lateSteps
        else (s.boundary e).lateSteps)

/-! Parking for compute (03 R100). -/

/-- The Warden parks. -/
def State.parkWarden (s : State) : State :=
  let c := s.sbu.cnt[actWarden].park
  let s := ((s.modEng .warden (·.still)).modAct actWarden fun x => { x with parked := true }).modSbu fun b =>
    { b with cnt := vmod b.cnt actWarden fun x => { x with park := satInc x.park } }
  (s.satEvent c 1).raise evBudgetPark

/-- A flight parks: each of its Treads (15 R574). -/
def State.parkFlight (f : Fin 4) (s : State) : State :=
  let a := actFlight f
  let c := s.sbu.cnt[a].park
  let s := (s.modTreads f (·.park)).modAct a fun x => { x with parked := true }
  let s := s.modSbu fun b => { b with cnt := vmod b.cnt a fun x => { x with park := satInc x.park } }
  (s.satEvent c 1).raise evBudgetPark

/-- An engine is at a point where it could take an interrupt: a wait for the slack pool is none. -/
def State.atPoint (s : State) (e : EngineId) : Bool :=
  match (s.eng e).stall with
  | some x => x.kind != .slack
  | none => true

/-- The stalled cycles of the engine whose activity is `a` are charged. -/
def State.billAct (a : Fin 64) (s : State) : State :=
  if a.val < 16 then s.billStall (.hewer (ix 16 a.val)) else if a.val = 29 then s.billStall .warden else s

/-- Activity `a` has no compute left: its engine or flight parks (R100). -/
def State.parkAct (a : Fin 64) (s : State) : State :=
  if !s.tb.stroke.running ∨ 0 < s.sbu.act[a].cpu ∨ s.sbu.act[a].parked ∨ !s.lo.present a.val then s
  else if a.val < 16 then
    let n : Fin 16 := ix 16 a.val
    if s.executes (.hewer n) && s.atPoint (.hewer n) then s.parkHewer n else s
  else if a.val < 20 then
    let f : Fin 4 := ix 4 (a.val - 16)
    if s.awake && (s.anyTread f .running || s.anyTread f .waiting) then s.parkFlight f else s
  else if a.val = 29 then
    if s.executes .warden && s.atPoint .warden then s.parkWarden else s
  else s

/-- BUDGET_PARK (R100): activity `a` has no compute left, the cycles of a stall counted. -/
def execBudgetPark (a : Fin 64) (s : State) : Host.Outcome State Fault Refusal := .next ((s.billAct a).parkAct a)

/-! The end of the hinge (04, hinge table, t = 2 µs). -/

/-- Changed pins take their new function. -/
def State.pinsBack (ps : List (Fin 96)) (s : State) : State :=
  { s with pins := { s.pins with use := ps.foldl (fun v i => vset v i PinUse.func) s.pins.use } }

/-- A CHANGE or START flight: flight start of its start set, with clock restart (15 R572). -/
def State.hingeStart (f : Fin 4) (s : State) : State := (s.restartClocks f 0xFF).startAgain f

/-- Treads of a flight that the new layout leaves out are idle. -/
def State.idleFlight (f : Fin 4) (s : State) : State :=
  if s.lo.flightPresent f.val || s.trd.flight[f].resetting then s
  else s.modTreads f fun x => if x.st = .stopped then { x with st := .idle } else x

/-- The hinge ends; the latches are loaded from the pins before they change hands (15 R572). -/
def State.hingeDone (s : State) : State :=
  let h := s.plans.hinge
  let s := h.flights.foldl (fun s f => s.hingeStart f) s
  let s := s.pinsBack h.pins
  let s := h.hewers.foldl (fun s n => if s.hw[n].st == .stopped then s.startHewer n else s) s
  let s := (List.finRange 4).foldl (fun s f => s.idleFlight f) s
  let s : State := { s with plans := { s.plans with hinge := Hinge.idle } }
  let rs := s.unsettled.filter fun r => bit h.settles r.group
  let s := if rs.isEmpty then s else s.settle rs 0
  let s := (s.raise evChangeoverDone).changeoverLog 0
  match s.upd.lay with
  | some a => s.activated a
  | none => s

/-- HINGE_END: 2 µs of the changeover stroke (R162). -/
def execHingeEnd (s : State) : Host.Outcome State Fault Refusal :=
  let h := s.plans.hinge
  .next (if s.awake && h.active then s.whenAt (h.cyc + hingeCycles) (·.hingeDone) else s)

end Sys2Proof.Machine
end

