-- ==== Sys2Proof/Machine/HostAccess.lean ====
section
/-! DEFINITION. Register accesses by an agent (17 R645-R651; 00 R9), and the two interfaces that reach the windows by a unified
address: quad SPI (R634-R636) and the parallel bus (R637-R642). -/

namespace Sys2Proof.Machine

/-! One register, by any agent. -/

/-- The window word through which a Hewer reaches the register at a Window A offset (05, I/O table). -/
def windowWord (off : Nat) : Option HewerWin :=
  if 0x1000 ≤ off ∧ off < 0x2000 then some (.timeLo ((off - 0x1000) / 4))
  else if 0x20000 ≤ off ∧ off < 0x28000 then some (.can (ix 4 ((off - 0x20000) / 0x2000)) (off % 0x2000 / 4))
  else if 0x28000 ≤ off ∧ off < 0x28800 then some (.trd (ix 32 ((off - 0x28000) / 0x40)) (off % 0x40 / 4))
  else if 0x2C000 ≤ off ∧ off < 0x2CC00 then some (.twb (ix 3 ((off - 0x2C000) / 0x400)) (off % 0x400 / 4))
  else none

/-- The same, for a Hewer that the layout lets use the window (R190). -/
def State.ownWindow (s : State) (n : Fin 16) (off : Nat) : Option HewerWin :=
  (windowWord off).filter fun w => w.assigned s.lo n

/-- A host read of a register: one register beat. A read that leaves out octet 0 of a result register shows what the last consuming
read took (R651). -/
def State.hostRegRead (off : Nat) (s : State) : BitVec 32 × State :=
  let k := off / 4 * 4
  let s := s.paid .host
  if consumesReg k && s.hearsReg .host k then
    if off % 4 = 0 then
      let (v, s) := s.readA .host k
      (v, s.latch 0 k v)
    else (s.latched 0 k >>> (8 * (off % 4)), s)
  else
    let (v, s) := s.readA .host k
    (v >>> (8 * (off % 4)), s)

/-- A register read by an agent. A Hewer reads through its windows; SEC.RNG_OUT stands for its own RNG_OUT. -/
def State.agentRead (a : Agent) (off : Nat) (s : State) : BitVec 32 × State :=
  match a with
  | .host => s.hostRegRead off
  | .warden => s.readA .warden off
  | .hewer n =>
    if off = 0x3C244 then
      let (v, s) := s.hioRead n 0x31
      (v.setWidth 32, s)
    else match s.ownWindow n off with
      | some w =>
        let (v, s) := s.winRead n w
        (v.setWidth 32, s)
      | none => (0, s)

/-- A register written by an agent; a Hewer writes bits 19:0 through its windows. -/
def State.agentWrite (a : Agent) (off : Nat) (v : BitVec 32) (s : State) : State :=
  match a with
  | .host => (s.paid .host).writeA .host off v
  | .warden => s.writeA .warden off v
  | .hewer n => match s.ownWindow n off with
    | some w => s.winWrite n w (fld v 0 20)
    | none => s

def execRegisterWrite (a : Agent) (off : Nat) (v : BitVec 32) (s : State) : Host.Outcome State Fault Refusal :=
  .next (s.agentWrite a off v)

/-- The word read, with the latching its table states (R646, R647). -/
def execLatchedRead (a : Agent) (off : Nat) (s : State) : Host.Outcome State Fault Refusal :=
  let (v, s) := s.agentRead a off
  .next { s with rd := [v] }

/-- The result read and consumed (R649-R651). -/
def execResultRead (a : Agent) (off : Nat) (s : State) : Host.Outcome State Fault Refusal :=
  let (v, s) := s.agentRead a off
  .next { s with rd := [v] }

/-! Unified addresses (17, The windows). -/

/-- What a unified address names. -/
inductive HostSpot
  | a (off : Nat)
  | b (off : Nat)
  | c (off : Nat)
  | none
  deriving DecidableEq, Repr

def hostSpot (u : Nat) : HostSpot :=
  if u < 0x100000 then .a u
  else if 0x200000 ≤ u ∧ u < 0x400000 then .b (u - 0x200000)
  else if 0x800000 ≤ u ∧ u < 0x1000000 then .c (u - 0x800000)
  else .none

/-- First unified address behind the window that holds `u`. -/
def spotEnd (u : Nat) : Option Nat :=
  match hostSpot u with
  | .a _ => some 0x100000
  | .b _ => some 0x400000
  | .c _ => some 0x1000000
  | .none => Option.none

/-- A refused access: ERR and SYS.ERR (R635, R641). -/
def State.hostRefused (code : BitVec 4) (s : State) : State :=
  s.modHost fun h => { h with errCount := satInc h.errCount, errLast := code }

/-- Registers of Window A from `off` on, each read whole. -/
def State.regsRead : Nat → Nat → State → List (BitVec 32) × State
  | 0, _, s => ([], s)
  | n + 1, off, s =>
    let (v, s) := s.hostRegRead off
    let (vs, s) := State.regsRead n (off + 4) s
    (v :: vs, s)

/-- Registers of Window A from `off` on, written in order. -/
def State.regsWrite : List (BitVec 32) → Nat → State → State
  | [], _, s => s
  | v :: vs, off, s => State.regsWrite vs (off + 4) (s.agentWrite .host off v)

/-- Four octets as a register's value, octet 0 lowest. -/
def ofOctets (o : Nat → Octet) : BitVec 32 := o 3 ++ o 2 ++ o 1 ++ o 0

/-- Octets of a run of registers. -/
def toOctets (vs : List (BitVec 32)) : List Octet := vs.flatMap fun v => (List.range 4).map fun i => fld v (8 * i) 8

/-- `count` octets of Window B. -/
def State.windowBRead (off count : Nat) (s : State) : List Octet × State :=
  let (ws, s) := s.galFetch (windowBTouched off count)
  ((List.range count).map fun i => windowBOctet s.lo ws (off + i), s)

/-- Octets that a host access reads at a unified address; zero where it has no effect, and at reserved addresses (R13, R654). -/
def State.octetsRead (u count : Nat) (s : State) : List Octet × State :=
  let zero := List.replicate count 0#8
  match hostSpot u with
  | .a off =>
    let (vs, s) := s.regsRead (count / 4) off
    (toOctets vs, s)
  | .b off => if s.hostWorks then s.windowBRead off count else (zero, s)
  | .c off =>
    if s.hostWorks then
      let (ws, s) := s.windowCRead off count
      (windowCOctets ws off count, s)
    else (zero, s)
  | .none => (zero, s)

/-! Quad SPI. -/

/-- The selected interface is there: strapped, and its island on. -/
def State.busSelected (s : State) (hsel : BitVec 2) : Bool := s.host.hsel == hsel && s.unitOn 52 && s.powered

/-- Which refusals of R635 a READ or WRITE of `count` octets meets, as SYS.ERR codes them. -/
def qspiCodes (write : Bool) (u count : Nat) : List (BitVec 4) :=
  let inA := match hostSpot u with
    | .a _ => true
    | _ => false
  let inC := match hostSpot u with
    | .c _ => true
    | _ => false
  let crosses := match spotEnd u with
    | some e => decide (e < u + count)
    | none => false
  (if inA && (u % 4 != 0) then [2] else []) ++ (if inA && (count % 4 != 0 || decide (64 < count)) then [3] else []) ++
    (if crosses then [4] else []) ++ (if inC && write then [5] else [])

/-- A command refused: SYS.ERR.LAST holds one of the codes that apply, which one is open when there are several (log 5). -/
def State.qspiRefuse (codes : List (BitVec 4)) (s : State) : State :=
  let s := s.modHost fun h => { h with qErr := true }
  match codes with
  | [c] => s.hostRefused c
  | _ => (s.hostRefused (codes.getD ((s.freeVal 2).toNat % codes.length) 0)).drawn

/-- An address below the next window reaches it from the reserved octet before it: the reserved octets read as zero. -/
def reservedLead (u count : Nat) : Nat :=
  match hostSpot u with
  | .none => min count ((if u < 0x200000 then 0x200000 else 0x800000) - u)
  | _ => 0

/-- A READ (R634, R635); its data octets are in `rd`. -/
def execQspiRead (addr : BitVec 24) (len : BitVec 8) (s : State) : Host.Outcome State Fault Refusal :=
  let u := addr.toNat
  let n := len.toNat + 1
  let zero : List (BitVec 32) := List.replicate n 0
  if !s.busSelected 1 then .next s
  else if s.host.resetting then .next { s with rd := zero }
  else match qspiCodes false u n with
    | [] =>
      let k := reservedLead u n
      let (os, s) := s.octetsRead (u + k) (n - k)
      .next { s with rd := List.replicate k 0 ++ os.map (·.setWidth 32) }
    | c :: cs => .next { s.qspiRefuse (c :: cs) with rd := zero }

/-- What a WRITE's complete registers or octets do (R636). -/
def State.qspiData (u : Nat) (data : List Octet) (s : State) : State :=
  match hostSpot u with
  | .a off => s.regsWrite ((List.range (data.length / 4)).map fun i => ofOctets fun j => data.getD (4 * i + j) 0) off
  | .b off => if s.hostWorks then s.galStore off (data.map some) else s
  | _ => s

/-- A WRITE of LEN + 1 octets, of which `data` came before QCS_N rose (R635, R636). -/
def execQspiWrite (addr : BitVec 24) (len : BitVec 8) (data : List Octet) (s : State) : Host.Outcome State Fault Refusal :=
  let u := addr.toNat
  let n := len.toNat + 1
  if !s.busSelected 1 ∨ s.host.resetting then .next s
  else match qspiCodes true u n with
    | [] =>
      let k := reservedLead u n
      .next (s.qspiData (u + k) ((data.take n).drop k))
    | c :: cs => .next (s.qspiRefuse (c :: cs))

/-- The status octet: WBUSY, ERR and HRST. -/
def State.qspiStatus (s : State) : BitVec 32 := bitAt s.host.resetting 2 ||| bitAt s.host.qErr 1 ||| bitAt (!s.host.wbuf.isEmpty) 0

/-- A command with neither address nor data: STATUS, or an unknown opcode (R635). ERR stays until STATUS reads it (DEDUCED). -/
def execQspiStatus (opcode : Octet) (s : State) : Host.Outcome State Fault Refusal :=
  if !s.busSelected 1 then .next s
  else if opcode = 0x05 then
    .next { s.modHost (fun h => { h with qErr := false }) with rd := [s.qspiStatus] }
  else if opcode = 0x0B ∨ opcode = 0x02 ∨ s.host.resetting then .next s
  else .next (s.qspiRefuse [1])

/-! The parallel bus. -/

/-- The unified address of a parallel address (R637). -/
def State.unified (s : State) (a : BitVec 17) : Nat :=
  if a.toNat < 0x10000 then a.toNat else s.host.page.toNat * 0x10000 + (a.toNat - 0x10000)

/-- Registers, and the unpacked words of Window B, are accessed in halves (R639). -/
def inHalves (u : Nat) : Bool :=
  match hostSpot u with
  | .a _ => true
  | .b off => decide (off < unpackedEnd)
  | _ => false

/-- A whole register or word written from its two halves. -/
def State.commitHalves (u : Nat) (v : BitVec 32) (s : State) : State :=
  match hostSpot (u / 4 * 4) with
  | .a off => s.agentWrite .host off v
  | .b off => if s.hostWorks then s.galStore off ((List.range 4).map fun i => some (fld v (8 * i) 8)) else s
  | _ => s

/-- A write takes effect. -/
def State.parallelEffect (w : ParWrite) (s : State) : State :=
  let u := s.unified w.addr
  if inHalves u then
    if w.be = 0 then s
    else if w.be ≠ 3 then s.hostRefused 6
    else if !bit w.addr 1 then s.modHost fun h => { h with heldLow := some (w.addr / 4 * 4, u, w.data) }
    else
      let (u, low) : Nat × BitVec 16 := match s.host.heldLow with
        | some (a, u', low) => if a = w.addr / 4 * 4 then (u', low) else (u, 0)
        | none => (u, 0)
      (s.modHost fun h => { h with heldLow := none }).commitHalves u (w.data ++ low)
  else
    let s := if w.be = 0 then s else s.modHost fun h => { h with heldLow := none }
    match hostSpot (u / 2 * 2) with
    | .b off => if s.hostWorks then s.galStore off ((List.range 2).map fun i => if bit w.be i then some (fld w.data (8 * i) 8) else none) else s
    | _ => s

/-- The oldest buffered write takes effect (R638, R642), even while an H reset runs: it was taken before (R652, R654). -/
def State.drainOne (s : State) : State :=
  match s.host.wbuf with
  | [] => s
  | w :: ws =>
    let s' := (s.modHost fun h => { h with wbuf := ws, resetting := false }).parallelEffect w
    s'.modHost fun h => { h with resetting := h.resetting || s.host.resetting }

/-- Every buffered write takes effect, in the order of arrival (R642). -/
def State.drainAll : Nat → State → State
  | 0, s => s
  | n + 1, s => State.drainAll n s.drainOne

/-- The first half of a register or word: all of it is read, the high half kept (R639). -/
def State.lowHalf (u : Nat) (s : State) : BitVec 16 × State :=
  let (os, s) := s.octetsRead (u / 4 * 4) 4
  let v := ofOctets fun i => os.getD i 0
  (fld v 0 16, s.modHost fun h => { h with half := fld v 16 16 })

/-- A read cycle: it follows every write that arrived before it (R642). -/
def execParallelRead (addr : BitVec 17) (s : State) : Host.Outcome State Fault Refusal :=
  if !s.busSelected 2 then .next s
  else
    let s := State.drainAll s.host.wbuf.length s
    let u := s.unified addr
    if s.host.resetting then .next { s with rd := [0] }
    else if inHalves u then
      if bit addr 1 then .next { s with rd := [s.host.half.setWidth 32] }
      else
        let (v, s) := s.lowHalf u
        .next { s with rd := [v.setWidth 32] }
    else
      let (os, s) := s.octetsRead (u / 2 * 2) 2
      .next { s with rd := [((os.getD 1 0) ++ (os.getD 0 0) : BitVec 16).setWidth 32] }

/-- A write cycle: into the buffer of eight, waiting for room where it is full (R638). -/
def execParallelWrite (addr : BitVec 17) (data : BitVec 16) (be : BitVec 2) (s : State) : Host.Outcome State Fault Refusal :=
  if !s.busSelected 2 ∨ s.host.resetting then .next s
  else
    let s := if s.host.wbuf.length < 8 then s else s.drainOne
    .next (s.modHost fun h => { h with wbuf := h.wbuf ++ [{ addr := addr, data := data, be := be }] })

def execWriteBufferDrain (s : State) : Host.Outcome State Fault Refusal := .next s.drainOne

end Sys2Proof.Machine
end

