-- ==== Sys2Proof/Machine/Dispatch.lean ====
section
/-! DEFINITION. One arm per command. -/

namespace Sys2Proof.Machine

/-- The effect of a command on everything but the queue. -/
def exec (i : Instr) (s : State) : Host.Outcome State Fault Refusal :=
  match i with
  | .strokeBoundary => Sys2Proof.Machine.execStrokeBoundary s
  | .phaseStart p => Sys2Proof.Machine.execPhaseStart p s
  | .settlePoint g reading => Sys2Proof.Machine.execSettlePoint g reading s
  | .secondsCarry => Sys2Proof.Machine.execSecondsCarry s
  | .timeAdjust a hi => Sys2Proof.Machine.execTimeAdjust a hi s
  | .slewComplete => Sys2Proof.Machine.execSlewComplete s
  | .timeSet a w3 => Sys2Proof.Machine.execTimeSet a w3 s
  | .rateTrimWrite a hi => Sys2Proof.Machine.execRateTrimWrite a hi s
  | .lowerWordDiscard r => Sys2Proof.Machine.execLowerWordDiscard r s
  | .measWrite a v => Sys2Proof.Machine.execMeasWrite a v s
  | .syncIntervalEnd => Sys2Proof.Machine.execSyncIntervalEnd s
  | .holdoverExpiry => Sys2Proof.Machine.execHoldoverExpiry s
  | .schedArm a n ctrl => Sys2Proof.Machine.execSchedArm a n ctrl s
  | .schedCancel a n => Sys2Proof.Machine.execSchedCancel a n s
  | .ppsCapture n => Sys2Proof.Machine.execPpsCapture n s
  | .ppsPulse n => Sys2Proof.Machine.execPpsPulse n s
  | .budgetPark a => Sys2Proof.Machine.execBudgetPark a s
  | .layoutStage src tag slot => Sys2Proof.Machine.execLayoutStage src tag slot s
  | .stageWriteComplete => Sys2Proof.Machine.execStageWriteComplete s
  | .layoutActivate src tag => Sys2Proof.Machine.execLayoutActivate src tag s
  | .layoutActivateAt src tag loc kind target => Sys2Proof.Machine.execLayoutActivateAt src tag loc kind target s
  | .layoutActivateCancel src tag => Sys2Proof.Machine.execLayoutActivateCancel src tag s
  | .hingeEnd => Sys2Proof.Machine.execHingeEnd s
  | .coldLoadComplete n => Sys2Proof.Machine.execColdLoadComplete n s
  | .coldPauseEnd n => Sys2Proof.Machine.execColdPauseEnd n s
  | .planeFault => Sys2Proof.Machine.execPlaneFault s
  | .interruptEntry e v => Sys2Proof.Machine.execInterruptEntry e v s
  | .exceptionEntry e cause detail => Sys2Proof.Machine.execExceptionEntry e cause detail s
  | .hewerFault n cause => Sys2Proof.Machine.execHewerFault n cause s
  | .mov e rd rs => Sys2Proof.Machine.execMov e rd rs s
  | .movd e rd rs => Sys2Proof.Machine.execMovd e rd rs s
  | .movq e f => Sys2Proof.Machine.execMovq e f s
  | .movi e f => Sys2Proof.Machine.execMovi e f s
  | .add e f => Sys2Proof.Machine.execAdd e f s
  | .adc e f => Sys2Proof.Machine.execAdc e f s
  | .sub e f => Sys2Proof.Machine.execSub e f s
  | .sbc e f => Sys2Proof.Machine.execSbc e f s
  | .cmp e rd rs => Sys2Proof.Machine.execCmp e rd rs s
  | .neg e rd rs => Sys2Proof.Machine.execNeg e rd rs s
  | .addi e f => Sys2Proof.Machine.execAddi e f s
  | .addq e f => Sys2Proof.Machine.execAddq e f s
  | .cmpi e f => Sys2Proof.Machine.execCmpi e f s
  | .cmpq e f => Sys2Proof.Machine.execCmpq e f s
  | .and e f => Sys2Proof.Machine.execAnd e f s
  | .or e f => Sys2Proof.Machine.execOr e f s
  | .xor e f => Sys2Proof.Machine.execXor e f s
  | .andi e f => Sys2Proof.Machine.execAndi e f s
  | .ori e f => Sys2Proof.Machine.execOri e f s
  | .xori e f => Sys2Proof.Machine.execXori e f s
  | .not e rd rs => Sys2Proof.Machine.execNot e rd rs s
  | .tst e rd rs => Sys2Proof.Machine.execTst e rd rs s
  | .tsti e f => Sys2Proof.Machine.execTsti e f s
  | .qadd e f => Sys2Proof.Machine.execQadd e f s
  | .qsub e f => Sys2Proof.Machine.execQsub e f s
  | .qaddu e f => Sys2Proof.Machine.execQaddu e f s
  | .qsubu e f => Sys2Proof.Machine.execQsubu e f s
  | .mul e f => Sys2Proof.Machine.execMul e f s
  | .mulu e f => Sys2Proof.Machine.execMulu e f s
  | .muls e f => Sys2Proof.Machine.execMuls e f s
  | .addd e f => Sys2Proof.Machine.execAddd e f s
  | .subd e f => Sys2Proof.Machine.execSubd e f s
  | .shl e f => Sys2Proof.Machine.execShl e f s
  | .shr e f => Sys2Proof.Machine.execShr e f s
  | .asr e f => Sys2Proof.Machine.execAsr e f s
  | .ror e f => Sys2Proof.Machine.execRor e f s
  | .shlq e f => Sys2Proof.Machine.execShlq e f s
  | .shrq e f => Sys2Proof.Machine.execShrq e f s
  | .asrq e f => Sys2Proof.Machine.execAsrq e f s
  | .par e rd rs => Sys2Proof.Machine.execPar e rd rs s
  | .swp e rd rs => Sys2Proof.Machine.execSwp e rd rs s
  | .mkg e rd rs => Sys2Proof.Machine.execMkg e rd rs s
  | .mks e rd rs => Sys2Proof.Machine.execMks e rd rs s
  | .mkc e rd rs => Sys2Proof.Machine.execMkc e rd rs s
  | .mko e f => Sys2Proof.Machine.execMko e f s
  | .btst e f => Sys2Proof.Machine.execBtst e f s
  | .bset e f => Sys2Proof.Machine.execBset e f s
  | .bclr e f => Sys2Proof.Machine.execBclr e f s
  | .brev e f => Sys2Proof.Machine.execBrev e f s
  | .bfx e f => Sys2Proof.Machine.execBfx e f s
  | .bfi e f => Sys2Proof.Machine.execBfi e f s
  | .sxt e f => Sys2Proof.Machine.execSxt e f s
  | .ld e f => Sys2Proof.Machine.execLd e f s
  | .st e f => Sys2Proof.Machine.execSt e f s
  | .ldd e f => Sys2Proof.Machine.execLdd e f s
  | .std e f => Sys2Proof.Machine.execStd e f s
  | .lea e f => Sys2Proof.Machine.execLea e f s
  | .push e imm => Sys2Proof.Machine.execPush e imm s
  | .pop e imm => Sys2Proof.Machine.execPop e imm s
  | .bcc e cond off => Sys2Proof.Machine.execBcc e cond off s
  | .jcc e f => Sys2Proof.Machine.execJcc e f s
  | .callcc e f => Sys2Proof.Machine.execCallcc e f s
  | .jrcc e f => Sys2Proof.Machine.execJrcc e f s
  | .callrcc e f => Sys2Proof.Machine.execCallrcc e f s
  | .ret e imm => Sys2Proof.Machine.execRet e imm s
  | .csel e f => Sys2Proof.Machine.execCsel e f s
  | .crc e f => Sys2Proof.Machine.execCrc e f s
  | .bcrc e f steps => Sys2Proof.Machine.execBcrc e f steps s
  | .bcpy e f steps => Sys2Proof.Machine.execBcpy e f steps s
  | .bfil e f steps => Sys2Proof.Machine.execBfil e f steps s
  | .bpve e f steps => Sys2Proof.Machine.execBpve e f steps s
  | .pqnt e f => Sys2Proof.Machine.execPqnt e f s
  | .pdeq e f => Sys2Proof.Machine.execPdeq e f s
  | .pdlt e f => Sys2Proof.Machine.execPdlt e f s
  | .pdbd e f => Sys2Proof.Machine.execPdbd e f s
  | .lpush e f => Sys2Proof.Machine.execLpush e f s
  | .lpop e f => Sys2Proof.Machine.execLpop e f s
  | .cfree e f => Sys2Proof.Machine.execCfree e f s
  | .pswap e f => Sys2Proof.Machine.execPswap e f s
  | .stake e f => Sys2Proof.Machine.execStake e f s
  | .nop e imm => Sys2Proof.Machine.execNop e imm s
  | .yield e imm => Sys2Proof.Machine.execYield e imm s
  | .wait e imm => Sys2Proof.Machine.execWait e imm s
  | .reti e imm => Sys2Proof.Machine.execReti e imm s
  | .ei e imm => Sys2Proof.Machine.execEi e imm s
  | .di e imm => Sys2Proof.Machine.execDi e imm s
  | .trap e imm => Sys2Proof.Machine.execTrap e imm s
  | .ckpt e imm => Sys2Proof.Machine.execCkpt e imm s
  | .loadStallEnd n arrived => Sys2Proof.Machine.execLoadStallEnd n arrived s
  | .verdictReadStallEnd n => Sys2Proof.Machine.execVerdictReadStallEnd n s
  | .storeStallEnd n => Sys2Proof.Machine.execStoreStallEnd n s
  | .releaseDrainEnd n => Sys2Proof.Machine.execReleaseDrainEnd n s
  | .rxNextStallEnd n => Sys2Proof.Machine.execRxNextStallEnd n s
  | .pushStallEnd n => Sys2Proof.Machine.execPushStallEnd n s
  | .microRoutineVerdictWaitEnd n => Sys2Proof.Machine.execMicroRoutineVerdictWaitEnd n s
  | .microRoutineQueueWaitEnd n => Sys2Proof.Machine.execMicroRoutineQueueWaitEnd n s
  | .listHoldEnd n => Sys2Proof.Machine.execListHoldEnd n s
  | .waitEnd e => Sys2Proof.Machine.execWaitEnd e s
  | .hewerHalt a n => Sys2Proof.Machine.execHewerHalt a n s
  | .hewerResume a n => Sys2Proof.Machine.execHewerResume a n s
  | .hewerStep a n => Sys2Proof.Machine.execHewerStep a n s
  | .engineReset a n reload => Sys2Proof.Machine.execEngineReset a n reload s
  | .engineResetEnd n => Sys2Proof.Machine.execEngineResetEnd n s
  | .evtRaise e id => Sys2Proof.Machine.execEvtRaise e id s
  | .rxNext e => Sys2Proof.Machine.execRxNext e s
  | .txDescWrite e k v => Sys2Proof.Machine.execTxDescWrite e k v s
  | .txPush e v green => Sys2Proof.Machine.execTxPush e v green s
  | .txAbort e => Sys2Proof.Machine.execTxAbort e s
  | .txTsqRead e => Sys2Proof.Machine.execTxTsqRead e s
  | .semTake e k => Sys2Proof.Machine.execSemTake e k s
  | .semRelease e k => Sys2Proof.Machine.execSemRelease e k s
  | .pvcDataRead n => Sys2Proof.Machine.execPvcDataRead n s
  | .eventRouteWrite a e part v => Sys2Proof.Machine.execEventRouteWrite a e part v s
  | .commitWrite n => Sys2Proof.Machine.execCommitWrite n s
  | .rxFrame p octets arrived => Sys2Proof.Machine.execRxFrame p octets arrived s
  | .frameVerdict p symbol align lost => Sys2Proof.Machine.execFrameVerdict p symbol align lost s
  | .egressFrameStart p => Sys2Proof.Machine.execEgressFrameStart p s
  | .egressFrameEnd p => Sys2Proof.Machine.execEgressFrameEnd p s
  | .gateEntryChange p => Sys2Proof.Machine.execGateEntryChange p s
  | .collision p late => Sys2Proof.Machine.execCollision p late s
  | .linkStateChange p up full speed mdix anDone noHcd => Sys2Proof.Machine.execLinkStateChange p up full speed mdix anDone noHcd s
  | .burstDetected p => Sys2Proof.Machine.execBurstDetected p s
  | .freezeEnd p => Sys2Proof.Machine.execFreezeEnd p s
  | .diagStart a p => Sys2Proof.Machine.execDiagStart a p s
  | .diagComplete p result => Sys2Proof.Machine.execDiagComplete p result s
  | .anRestart a p => Sys2Proof.Machine.execAnRestart a p s
  | .tallySnapshot a clr => Sys2Proof.Machine.execTallySnapshot a clr s
  | .mdioCommand a cmd => Sys2Proof.Machine.execMdioCommand a cmd s
  | .mdioComplete data => Sys2Proof.Machine.execMdioComplete data s
  | .agingVisit race => Sys2Proof.Machine.execAgingVisit race s
  | .ltFlush a ports => Sys2Proof.Machine.execLtFlush a ports s
  | .ltFlushDone => Sys2Proof.Machine.execLtFlushDone s
  | .frerReset k => Sys2Proof.Machine.execFrerReset k s
  | .offcutExpiry e => Sys2Proof.Machine.execOffcutExpiry e s
  | .offcutFlush a => Sys2Proof.Machine.execOffcutFlush a s
  | .tableDataRead a => Sys2Proof.Machine.execTableDataRead a s
  | .swapRequest a g => Sys2Proof.Machine.execSwapRequest a g s
  | .deferredSwap => Sys2Proof.Machine.execDeferredSwap s
  | .leaseAcquire mask => Sys2Proof.Machine.execLeaseAcquire mask s
  | .leaseRelease mask => Sys2Proof.Machine.execLeaseRelease mask s
  | .hostGalleryRead addr count flaws => Sys2Proof.Machine.execHostGalleryRead addr count flaws s
  | .hostGalleryWrite addr octets => Sys2Proof.Machine.execHostGalleryWrite addr octets s
  | .windowCRead addr count => Sys2Proof.Machine.execWindowCRead addr count s
  | .canFrameValid c f sofAgo => Sys2Proof.Machine.execCanFrameValid c f sofAgo s
  | .canTxRequest a c b => Sys2Proof.Machine.execCanTxRequest a c b s
  | .canTxAbort a c b => Sys2Proof.Machine.execCanTxAbort a c b s
  | .canTxStart c => Sys2Proof.Machine.execCanTxStart c s
  | .canTxDone c => Sys2Proof.Machine.execCanTxDone c s
  | .canArbitrationLoss c => Sys2Proof.Machine.execCanArbitrationLoss c s
  | .canBusError c type phase tec rec_ => Sys2Proof.Machine.execCanBusError c type phase tec rec_ s
  | .canRecover a c => Sys2Proof.Machine.execCanRecover a c s
  | .canRecoveryDone c => Sys2Proof.Machine.execCanRecoveryDone c s
  | .canWindowMiss c b => Sys2Proof.Machine.execCanWindowMiss c b s
  | .canAck a c v => Sys2Proof.Machine.execCanAck a c v s
  | .canModeWrite a c v => Sys2Proof.Machine.execCanModeWrite a c v s
  | .canBusIntegration c => Sys2Proof.Machine.execCanBusIntegration c s
  | .pause t n => Sys2Proof.Machine.execPause t n s
  | .put t kind data => Sys2Proof.Machine.execPut t kind data s
  | .gather t src n pins => Sys2Proof.Machine.execGather t src n pins s
  | .scatter t dst n => Sys2Proof.Machine.execScatter t dst n s
  | .br t cond rel pins => Sys2Proof.Machine.execBr t cond rel pins s
  | .jump t mode addr => Sys2Proof.Machine.execJump t mode addr s
  | .hold t src pol idx pins => Sys2Proof.Machine.execHold t src pol idx pins s
  | .atTime t reg adv lapq => Sys2Proof.Machine.execAtTime t reg adv lapq s
  | .copy t dst src opn pins => Sys2Proof.Machine.execCopy t dst src opn pins s
  | .ldi t y imm => Sys2Proof.Machine.execLdi t y imm s
  | .cnt t opc => Sys2Proof.Machine.execCnt t opc s
  | .feedTake t once cond tox => Sys2Proof.Machine.execFeedTake t once cond tox s
  | .feedGive t once cond => Sys2Proof.Machine.execFeedGive t once cond s
  | .treadYield t => Sys2Proof.Machine.execTreadYield t s
  | .signal t => Sys2Proof.Machine.execSignal t s
  | .fset t k => Sys2Proof.Machine.execFset t k s
  | .fclr t k => Sys2Proof.Machine.execFclr t k s
  | .treadCmp t withImm imm => Sys2Proof.Machine.execTreadCmp t withImm imm s
  | .atMatch t => Sys2Proof.Machine.execAtMatch t s
  | .treadWaitEnd t pins => Sys2Proof.Machine.execTreadWaitEnd t pins s
  | .treadTimeWrap => Sys2Proof.Machine.execTreadTimeWrap s
  | .flightStart a f mask => Sys2Proof.Machine.execFlightStart a f mask s
  | .clockRestart a f mask => Sys2Proof.Machine.execClockRestart a f mask s
  | .flushRx a t => Sys2Proof.Machine.execFlushRx a t s
  | .flushTx a t => Sys2Proof.Machine.execFlushTx a t s
  | .txfPush a t v => Sys2Proof.Machine.execTxfPush a t v s
  | .rxfPop a t => Sys2Proof.Machine.execRxfPop a t s
  | .programDataRead a f => Sys2Proof.Machine.execProgramDataRead a f s
  | .flightHalt a f => Sys2Proof.Machine.execFlightHalt a f s
  | .flightResume a f => Sys2Proof.Machine.execFlightResume a f s
  | .flightReset a f => Sys2Proof.Machine.execFlightReset a f s
  | .flightResetEnd f => Sys2Proof.Machine.execFlightResetEnd f s
  | .twbXfer a b v => Sys2Proof.Machine.execTwbXfer a b v s
  | .twbTransferStart b => Sys2Proof.Machine.execTwbTransferStart b s
  | .twbTransferDone b status count rx => Sys2Proof.Machine.execTwbTransferDone b status count rx s
  | .twbArbitrationLoss b inAddress seen => Sys2Proof.Machine.execTwbArbitrationLoss b inAddress seen s
  | .twbHoldStop b => Sys2Proof.Machine.execTwbHoldStop b s
  | .twbTargetTransfer b ten addr rd octets count => Sys2Proof.Machine.execTwbTargetTransfer b ten addr rd octets count s
  | .twbStretchTimeout b => Sys2Proof.Machine.execTwbStretchTimeout b s
  | .twbTimeout b => Sys2Proof.Machine.execTwbTimeout b s
  | .twbStuck b => Sys2Proof.Machine.execTwbStuck b s
  | .twbRecover a b => Sys2Proof.Machine.execTwbRecover a b s
  | .twbRecoveryEnd b sdaHigh => Sys2Proof.Machine.execTwbRecoveryEnd b sdaHigh s
  | .twbAlertIn b => Sys2Proof.Machine.execTwbAlertIn b s
  | .alertSet a b => Sys2Proof.Machine.execAlertSet a b s
  | .alertClr a b => Sys2Proof.Machine.execAlertClr a b s
  | .attnGo a b => Sys2Proof.Machine.execAttnGo a b s
  | .twbFlush a b => Sys2Proof.Machine.execTwbFlush a b s
  | .twbAttentionReceive b octets => Sys2Proof.Machine.execTwbAttentionReceive b octets s
  | .attnRxHdRead a b => Sys2Proof.Machine.execAttnRxHdRead a b s
  | .twbTxdPush a b v => Sys2Proof.Machine.execTwbTxdPush a b v s
  | .twbTtxPush a b v => Sys2Proof.Machine.execTwbTtxPush a b v s
  | .twbRxdPop a b => Sys2Proof.Machine.execTwbRxdPop a b s
  | .twbTrxPop a b => Sys2Proof.Machine.execTwbTrxPop a b s
  | .dmaTxDescriptor c info aux octets => Sys2Proof.Machine.execDmaTxDescriptor c info aux octets s
  | .dmaRxFrame c info aux => Sys2Proof.Machine.execDmaRxFrame c info aux s
  | .dmaBusError c writeBack info aux => Sys2Proof.Machine.execDmaBusError c writeBack info aux s
  | .dmaTailWrite c v => Sys2Proof.Machine.execDmaTailWrite c v s
  | .dmaCfgWrite c v => Sys2Proof.Machine.execDmaCfgWrite c v s
  | .qspiRead addr len => Sys2Proof.Machine.execQspiRead addr len s
  | .qspiWrite addr len data => Sys2Proof.Machine.execQspiWrite addr len data s
  | .qspiStatus opcode => Sys2Proof.Machine.execQspiStatus opcode s
  | .parallelRead addr => Sys2Proof.Machine.execParallelRead addr s
  | .parallelWrite addr data be => Sys2Proof.Machine.execParallelWrite addr data be s
  | .writeBufferDrain => Sys2Proof.Machine.execWriteBufferDrain s
  | .d3hotEntry => Sys2Proof.Machine.execD3hotEntry s
  | .d0Return => Sys2Proof.Machine.execD0Return s
  | .hostReset c => Sys2Proof.Machine.execHostReset c s
  | .hostResetComplete => Sys2Proof.Machine.execHostResetComplete s
  | .pcieLinkUp speed width => Sys2Proof.Machine.execPcieLinkUp speed width s
  | .registerWrite a off v => Sys2Proof.Machine.execRegisterWrite a off v s
  | .latchedRead a off => Sys2Proof.Machine.execLatchedRead a off s
  | .resultRead a off => Sys2Proof.Machine.execResultRead a off s
  | .chuteSlotWrite a c k v => Sys2Proof.Machine.execChuteSlotWrite a c k v s
  | .chuteSend a c len => Sys2Proof.Machine.execChuteSend a c len s
  | .chuteFree a c => Sys2Proof.Machine.execChuteFree a c s
  | .chuteAckAbort a c => Sys2Proof.Machine.execChuteAckAbort a c s
  | .eventStatusClear a k v => Sys2Proof.Machine.execEventStatusClear a k v s
  | .eventCountClear a => Sys2Proof.Machine.execEventCountClear a s
  | .msixMessage v => Sys2Proof.Machine.execMsixMessage v s
  | .comparatorFlag g => Sys2Proof.Machine.execComparatorFlag g s
  | .wardenRamEcc addr fixable => Sys2Proof.Machine.execWardenRamEcc addr fixable s
  | .ckptLimitExpiry => Sys2Proof.Machine.execCkptLimitExpiry s
  | .managementRestartResume test digestOk journalOk => Sys2Proof.Machine.execManagementRestartResume test digestOk journalOk s
  | .releaseQueueRelease => Sys2Proof.Machine.execReleaseQueueRelease s
  | .stepqPop => Sys2Proof.Machine.execStepqPop s
  | .flashProgram => Sys2Proof.Machine.execFlashProgram s
  | .flashErase => Sys2Proof.Machine.execFlashErase s
  | .flashTakeLock => Sys2Proof.Machine.execFlashTakeLock s
  | .flashReleaseLock => Sys2Proof.Machine.execFlashReleaseLock s
  | .flashOperationComplete ok => Sys2Proof.Machine.execFlashOperationComplete ok s
  | .status src tag => Sys2Proof.Machine.execStatus src tag s
  | .systemReset src tag key => Sys2Proof.Machine.execSystemReset src tag key s
  | .systemResetTimer => Sys2Proof.Machine.execSystemResetTimer s
  | .logRead src tag seq => Sys2Proof.Machine.execLogRead src tag seq s
  | .sensorRead src tag group => Sys2Proof.Machine.execSensorRead src tag group s
  | .snapshot src tag => Sys2Proof.Machine.execSnapshot src tag s
  | .commandUnknown src tag code => Sys2Proof.Machine.execCommandUnknown src tag code s
  | .islandClaim src tag k => Sys2Proof.Machine.execIslandClaim src tag k s
  | .islandRelease src tag k => Sys2Proof.Machine.execIslandRelease src tag k s
  | .challenge src tag => Sys2Proof.Machine.execChallenge src tag s
  | .unlock src tag => Sys2Proof.Machine.execUnlock src tag s
  | .relock src tag => Sys2Proof.Machine.execRelock src tag s
  | .revoke src tag => Sys2Proof.Machine.execRevoke src tag s
  | .pkeyDisable src tag => Sys2Proof.Machine.execPkeyDisable src tag s
  | .nonceExpiry => Sys2Proof.Machine.execNonceExpiry s
  | .updateBegin src tag typeSlot size digest => Sys2Proof.Machine.execUpdateBegin src tag typeSlot size digest s
  | .updateBlock src tag offset count ok => Sys2Proof.Machine.execUpdateBlock src tag offset count ok s
  | .updateEnd src tag => Sys2Proof.Machine.execUpdateEnd src tag s
  | .updateActivate src tag typeSlot flags timeout hewers => Sys2Proof.Machine.execUpdateActivate src tag typeSlot flags timeout hewers s
  | .updateActivateAt src tag typeSlot flags timeout hewers target => Sys2Proof.Machine.execUpdateActivateAt src tag typeSlot flags timeout hewers target s
  | .updateActivateCancel src tag typeSlot flags => Sys2Proof.Machine.execUpdateActivateCancel src tag typeSlot flags s
  | .updateConfirm src tag => Sys2Proof.Machine.execUpdateConfirm src tag s
  | .updateTimeout => Sys2Proof.Machine.execUpdateTimeout s
  | .firmwareSwitch test => Sys2Proof.Machine.execFirmwareSwitch test s
  | .trialDeadline => Sys2Proof.Machine.execTrialDeadline s
  | .challengeReq => Sys2Proof.Machine.execChallengeReq s
  | .openSession words => Sys2Proof.Machine.execOpenSession words s
  | .dataMessage words => Sys2Proof.Machine.execDataMessage words s
  | .closeSession => Sys2Proof.Machine.execCloseSession s
  | .usbBusReset => Sys2Proof.Machine.execUsbBusReset s
  | .sessionTimeout => Sys2Proof.Machine.execSessionTimeout s
  | .servicePortAttach => Sys2Proof.Machine.execServicePortAttach s
  | .sensorSample v => Sys2Proof.Machine.execSensorSample v s
  | .controlledStopHalt => Sys2Proof.Machine.execControlledStopHalt s
  | .rngRequest c => Sys2Proof.Machine.execRngRequest c s
  | .rngResult c => Sys2Proof.Machine.execRngResult c s
  | .healthTestFail bits => Sys2Proof.Machine.execHealthTestFail bits s
  | .startupTestComplete bits => Sys2Proof.Machine.execStartupTestComplete bits s
  | .reseedComplete => Sys2Proof.Machine.execReseedComplete s
  | .drbgReseed => Sys2Proof.Machine.execDrbgReseed s
  | .attestationStart a => Sys2Proof.Machine.execAttestationStart a s
  | .attestationComplete => Sys2Proof.Machine.execAttestationComplete s
  | .islandPowerOnRequest a k => Sys2Proof.Machine.execIslandPowerOnRequest a k s
  | .islandPowerOffRequest a k => Sys2Proof.Machine.execIslandPowerOffRequest a k s
  | .islandOffComplete => Sys2Proof.Machine.execIslandOffComplete s
  | .pResetComplete k => Sys2Proof.Machine.execPResetComplete k s
  | .reapplyComplete k => Sys2Proof.Machine.execReapplyComplete k s
  | .powerOn => Sys2Proof.Machine.execPowerOn s
  | .brownout => Sys2Proof.Machine.execBrownout s
  | .overvoltage => Sys2Proof.Machine.execOvervoltage s
  | .overvoltageRecovery => Sys2Proof.Machine.execOvervoltageRecovery s
  | .railReset r => Sys2Proof.Machine.execRailReset r s
  | .thermalTrip => Sys2Proof.Machine.execThermalTrip s
  | .thermalTripRecovery => Sys2Proof.Machine.execThermalTripRecovery s
  | .clockHold => Sys2Proof.Machine.execClockHold s
  | .clockHoldRelease => Sys2Proof.Machine.execClockHoldRelease s
  | .pllBUnlock => Sys2Proof.Machine.execPllBUnlock s
  | .pllBLock => Sys2Proof.Machine.execPllBLock s
  | .pcieRefclkLoss => Sys2Proof.Machine.execPcieRefclkLoss s
  | .resetN ns => Sys2Proof.Machine.execResetN ns s
  | .resetRelease hsel test aonAgo => Sys2Proof.Machine.execResetRelease hsel test aonAgo s
  | .romLoadComplete => Sys2Proof.Machine.execRomLoadComplete s
  | .bootLayoutLoad => Sys2Proof.Machine.execBootLayoutLoad s
  | .drowseRequest a => Sys2Proof.Machine.execDrowseRequest a s
  | .deepRequest a => Sys2Proof.Machine.execDeepRequest a s
  | .wakeRequest a => Sys2Proof.Machine.execWakeRequest a s
  | .drowseEntry => Sys2Proof.Machine.execDrowseEntry s
  | .deepEntry => Sys2Proof.Machine.execDeepEntry s
  | .wakeN => Sys2Proof.Machine.execWakeN s
  | .alarmWake => Sys2Proof.Machine.execAlarmWake s
  | .hostWake off => Sys2Proof.Machine.execHostWake off s
  | .energyWake p => Sys2Proof.Machine.execEnergyWake p s
  | .drowseWakeComplete => Sys2Proof.Machine.execDrowseWakeComplete s
  | .sbuCounterClear a => Sys2Proof.Machine.execSbuCounterClear a s

end Sys2Proof.Machine
end

