-- ==== Sys2Proof/Machine/Meet.lean ====
section
/-! DEFINITION. Commands that meet in one core cycle: the order in which they enter the queue (DESIGN CHOICE that a sender states which
commands meet, log 170; the order is the spec's: 02 R46, R69; 05 R197; 08, Corners; 10 R388, R395; 11 R436, R437; 12 R482; 18 R670,
R675; 19, Corners; 20 R755; 22 R813). -/

namespace Sys2Proof.Machine

/-- The agents of one core cycle: the Warden, then the host, then the Hewers in ascending number (02 R69, 05 R197). -/
def agentRank : Agent → Nat
  | .warden => 0
  | .host => 1
  | .hewer n => 2 + n.val

def engineRank : EngineId → Nat
  | .warden => 0
  | .hewer n => 2 + n.val

/-- The rank of the engine that executes, or of the agent that accesses; none for what the surroundings or the device itself do. -/
def senderRank : Instr → Option Nat
  | .interruptEntry e _ | .exceptionEntry e _ _ | .mov e _ _ | .movd e _ _ | .movq e _ | .movi e _ | .add e _ | .adc e _
  | .sub e _ | .sbc e _ | .cmp e _ _ | .neg e _ _ | .addi e _ | .addq e _ | .cmpi e _ | .cmpq e _ | .and e _ | .or e _
  | .xor e _ | .andi e _ | .ori e _ | .xori e _ | .not e _ _ | .tst e _ _ | .tsti e _ | .qadd e _ | .qsub e _ | .qaddu e _
  | .qsubu e _ | .mul e _ | .mulu e _ | .muls e _ | .addd e _ | .subd e _ | .shl e _ | .shr e _ | .asr e _ | .ror e _
  | .shlq e _ | .shrq e _ | .asrq e _ | .par e _ _ | .swp e _ _ | .mkg e _ _ | .mks e _ _ | .mkc e _ _ | .mko e _ | .btst e _
  | .bset e _ | .bclr e _ | .brev e _ | .bfx e _ | .bfi e _ | .sxt e _ | .ld e _ | .st e _ | .ldd e _ | .std e _ | .lea e _
  | .push e _ | .pop e _ | .bcc e _ _ | .jcc e _ | .callcc e _ | .jrcc e _ | .callrcc e _ | .ret e _ | .csel e _ | .crc e _
  | .bcrc e _ _ | .bcpy e _ _ | .bfil e _ _ | .bpve e _ _ | .pqnt e _ | .pdeq e _ | .pdlt e _ | .pdbd e _ | .lpush e _
  | .lpop e _ | .cfree e _ | .pswap e _ | .stake e _ | .nop e _ | .yield e _ | .wait e _ | .reti e _ | .ei e _ | .di e _
  | .trap e _ | .ckpt e _ | .waitEnd e | .evtRaise e _ | .rxNext e | .txDescWrite e _ _ | .txPush e _ _ | .txAbort e
  | .txTsqRead e | .semTake e _ | .semRelease e _ => some (engineRank e)
  | .timeAdjust a _ | .timeSet a _ | .rateTrimWrite a _ | .measWrite a _ | .schedArm a _ _ | .schedCancel a _ | .hewerHalt a _
  | .hewerResume a _ | .hewerStep a _ | .engineReset a _ _ | .eventRouteWrite a _ _ _ | .diagStart a _ | .anRestart a _
  | .tallySnapshot a _ | .mdioCommand a _ | .ltFlush a _ | .offcutFlush a | .tableDataRead a | .swapRequest a _
  | .canTxRequest a _ _ | .canTxAbort a _ _ | .canRecover a _ | .canAck a _ _ | .canModeWrite a _ _ | .flightStart a _ _
  | .clockRestart a _ _ | .flushRx a _ | .flushTx a _ | .txfPush a _ _ | .rxfPop a _ | .programDataRead a _ | .flightHalt a _
  | .flightResume a _ | .flightReset a _ | .twbXfer a _ _ | .twbRecover a _ | .alertSet a _ | .alertClr a _ | .attnGo a _
  | .twbFlush a _ | .attnRxHdRead a _ | .twbTxdPush a _ _ | .twbTtxPush a _ _ | .twbRxdPop a _ | .twbTrxPop a _
  | .registerWrite a _ _ | .latchedRead a _ | .resultRead a _ | .eventStatusClear a _ _ | .eventCountClear a
  | .attestationStart a | .islandPowerOnRequest a _ | .islandPowerOffRequest a _ | .drowseRequest a | .deepRequest a
  | .wakeRequest a | .sbuCounterClear a => some (agentRank a)
  | _ => none

/-- The C, W or D reset that a command triggers (22, reset sources). -/
def resetOf : Instr → Option ResetKind
  | .powerOn | .brownout | .overvoltage | .railReset _ | .thermalTrip => some .C
  | .sensorSample (.temp _ v) => if 1080 ≤ v.toInt then some .C else none
  | .resetN ns => if ns < 1000 then none else some .W
  | .clockHold | .systemResetTimer => some .W
  | .deepEntry => some .D
  | _ => none

/-- The command triggers an H, M, E or P reset. -/
def partReset : Instr → Bool
  | .hostReset _ | .comparatorFlag _ | .wardenRamEcc _ _ | .ckptLimitExpiry | .engineReset _ _ _ | .flightReset _ _
  | .pResetComplete _ => true
  | _ => false

/-- A command's place among those of its core cycle. -/
def phase : Instr → Nat
  -- the values before any increment of the cycle (11 R436, R437); a bit cleared before it is set again (18 R675)
  | .tallySnapshot _ _ | .snapshot _ _ | .eventStatusClear _ _ _ | .eventCountClear _ => 0
  -- before the loss of the receiver (18 R670), the settle point (10 R395) and the commit point of CKPT (19, Corners)
  | .chuteFree _ _ | .leaseRelease _ | .comparatorFlag _ => 1
  -- after the losses, lookups, writes and failures that come first (10 R388; 12 R482; 18 R670; 20 R755; 02 R46)
  | .settlePoint _ _ | .deferredSwap | .agingVisit _ | .rngResult _ | .syncIntervalEnd | .hewerFault _ _ | .engineReset _ _ _
  | .flightReset _ _ | .islandOffComplete | .hostReset _ => 4
  | .leaseAcquire _ => 5
  | c => if (resetOf c).isSome then 6 else if (senderRank c).isSome then 2 else 3

def rank (c : Instr) : Nat := 100 * phase c + (senderRank c).getD 0

/-- Of several resets of one core cycle only the first of C, W and D is performed, and no H, M, E or P with it (22 R813). -/
def sift (cs : List Instr) : List Instr :=
  match [ResetKind.C, ResetKind.W, ResetKind.D].findSome? fun k => cs.find? fun c => resetOf c == some k with
  | none => cs
  | some r => (cs.filter fun c => (resetOf c).isNone && !partReset c) ++ [r]

/-- A command put before the first of a higher or its own rank. -/
def rankIn (c : Instr) : List Instr → List Instr
  | [] => [c]
  | d :: ds => if rank c ≤ rank d then c :: d :: ds else d :: rankIn c ds

/-- The commands that meet in one core cycle, as the device performs them. -/
def inOrder (cs : List Instr) : List Instr := (sift cs).foldr rankIn []

/-- The commands `cs` meet in one core cycle: they join the queue in the device's order. -/
def State.meet (cs : List Instr) (s : State) : State := { s with pending := s.pending ++ inOrder cs }

end Sys2Proof.Machine
end

