-- ==== Sys2Proof/WellFormed.lean ====
section
/-! DEFINITION. Which commands make sense at all: operands that the surroundings can give. Each check has a name. -/

namespace Sys2Proof

/-- Why a command is ill-formed. -/
inductive Ill
  /-- A Window A offset beyond 1 MiB or not a multiple of 4 (17 R640). -/
  | offset
  /-- A run of octets beyond Window B's 2 MiB or empty (17, windows). -/
  | windowB
  /-- A run of octets beyond Window C's 8 MiB or empty (17, windows). -/
  | windowC
  /-- A frame without octets: no SFD was followed by any (11 R873). -/
  | emptyFrame
  /-- A CAN frame with more data words than its format carries (14 R522). -/
  | canData
  /-- A LINK.SPEED code that names no speed (11 ETH.LINK). -/
  | speed
  /-- An error type or phase outside CAN.ERR's codes (14). -/
  | canError
  /-- A Tread encoding that 15 R568 reserves. -/
  | tread
  /-- More octets than the buffer of a DMA descriptor holds (17 R624). -/
  | dmaLength
  /-- A Chute length above 16 words (18 R656). -/
  | chuteLength
  /-- An island number the device does not have (22, islands). -/
  | island
  deriving DecidableEq, Repr

/-- A run of `n` octets from `a` within `size`. -/
def inWindow (size a n : Nat) : Bool := decide (0 < n) && decide (a + n ≤ size)

/-- What is wrong with a command, if anything. -/
def illFormed (c : Instr) : Option Ill :=
  let need (b : Bool) (e : Ill) : Option Ill := if b then none else some e
  match c with
  | .registerWrite _ off _ | .latchedRead _ off | .resultRead _ off =>
    need (decide (off < 0x100000) && decide (off % 4 = 0)) .offset
  | .hostGalleryRead a n _ => need (inWindow 0x200000 a n) .windowB
  | .hostGalleryWrite a os => need (inWindow 0x200000 a os.length) .windowB
  | .windowCRead a n => need (inWindow 0x800000 a n) .windowC
  | .rxFrame _ os _ => need (!os.isEmpty) .emptyFrame
  | .canFrameValid _ f _ => need (decide (f.data.length ≤ 1024)) .canData
  | .linkStateChange _ up _ speed _ _ _ => need (!up || (decide (1 ≤ speed.toNat) && decide (speed.toNat ≤ 4))) .speed
  | .canBusError _ ty ph _ _ => need (decide (1 ≤ ty.toNat) && decide (ty.toNat ≤ 5) && decide (ph.toNat ≤ 2)) .canError
  | .put _ kind _ => need (kind != 3) .tread
  | .gather _ _ n _ | .scatter _ _ n => need (decide (1 ≤ n.toNat) && decide (n.toNat ≤ 20)) .tread
  | .br _ cond _ _ => need (decide (cond.toNat < 12)) .tread
  | .jump _ mode addr => need (mode == 0 || (mode == 1 && addr == 0)) .tread
  | .hold _ src _ idx _ => need (decide (src.toNat < 2) || idx == 0) .tread
  | .atTime _ reg adv lapq => need (!lapq || (!reg && !adv)) .tread
  | .copy _ dst _ opn _ => need (dst != 7 && opn != 3) .tread
  | .treadCmp _ withImm imm => need (withImm || imm == 0) .tread
  | .dmaTxDescriptor _ _ _ os => need (decide (os.length ≤ 65536)) .dmaLength
  | .chuteSend _ _ len => need (decide (len.toNat ≤ 16)) .chuteLength
  | .islandClaim _ _ i | .islandRelease _ _ i | .islandPowerOnRequest _ i | .islandPowerOffRequest _ i =>
    need (decide (i.toNat < 56)) .island
  | _ => none

/-- The command's operands are ones its surroundings can give. -/
def WellFormed (c : Instr) : Prop := illFormed c = none

end Sys2Proof
end

