-- ==== Sys2Proof/Safety.lean ====
section
/-! DEFINITION. The terms the statements use: what it means that a command completes, when an engine may run an instruction, the
flags as 06 R238 defines them on exact values, what stays of the state, and the invariants. -/

namespace Sys2Proof.Machine

/-- Command `c` completes at `s`, in a next state with `Q`. -/
def Completes (c : Instr) (s : State) (Q : State → Prop) : Prop := ∃ t, exec c s = Host.Outcome.next t ∧ Q t

/-- Every waiting command is one the surroundings can give. -/
def State.PendingOk (s : State) : Prop := ∀ c ∈ s.pending, WellFormed c

/-- The Loft is in its canonical form. -/
def State.LoftOk (s : State) : Prop := memWf (0 : Word) s.loft = true

/-! Ahneafin. -/

/-- Engine `e` executes its next instruction, of one word or (`long`) two: it may run, and the words can be fetched. -/
def State.MayRun (s : State) (e : EngineId) (long : Bool) : Prop := s.ready e = true ∧ s.fetchFault e long = none

/-- A shared form takes two words in its L3 shape. -/
def R2.isLong : R2 → Bool
  | .s2 _ _ => false
  | .l3 _ => true

def MemForm.isLong : MemForm → Bool
  | .sm _ _ _ => false
  | .lm _ => true

/-- PC past an instruction of one word or two. -/
def Core.past (long : Bool) (c : Core) : Core := { c with pc := c.pc + (if long then 2 else 1) }

/-- The signed range of a width holds `x`. -/
def inSigned (w : Nat) (x : Int) : Bool := decide (-(2 ^ (w - 1) : Int) ≤ x) && decide (x < 2 ^ (w - 1))

/-- N Z C V G of a sum with a carry in: C is the carry out, V says the signed result does not fit (06 R238). -/
def sumFlags {w : Nat} (a b : BitVec w) (c g : Bool) : Flags :=
  let r := a + b + BitVec.ofNat w c.toNat
  { n := r.msb, z := r == 0, c := decide (2 ^ w ≤ a.toNat + b.toNat + c.toNat), v := !inSigned w (a.toInt + b.toInt + c.toNat), g := g }

/-- N Z C V G of a difference with a borrow in: C says that no borrow arises. -/
def diffFlags {w : Nat} (a b : BitVec w) (borrow g : Bool) : Flags :=
  let r := a - b - BitVec.ofNat w borrow.toNat
  { n := r.msb, z := r == 0, c := decide (b.toNat + borrow.toNat ≤ a.toNat), v := !inSigned w (a.toInt - b.toInt - borrow.toNat), g := g }

/-- Every part of the device but the engines themselves, the event router's status and counts, the budgets, the host interface and the free
values is as it was. -/
structure SameDevice (s t : State) : Prop where
  loft  : t.loft = s.loft
  gal   : t.gal = s.gal
  sem   : t.sem = s.sem
  tb    : t.tb = s.tb
  lay   : t.lay = s.lay
  plans : t.plans = s.plans
  pins  : t.pins = s.pins
  eth   : t.eth = s.eth
  lnd   : t.lnd = s.lnd
  grd   : t.grd = s.grd
  can   : t.can = s.can
  trd   : t.trd = s.trd
  twb   : t.twb = s.twb
  chu   : t.chu = s.chu
  sec   : t.sec = s.sec
  upd   : t.upd = s.upd
  pwr   : t.pwr = s.pwr
  flash : t.flash = s.flash
  pending : t.pending = s.pending
  routes : t.evt.route = s.evt.route

/-- What a register instruction leaves as it is: the rest of the device, local memories, queues, every other engine's core, and every special
register but pending vectors. -/
structure RegFrame (e : EngineId) (s t : State) : Prop extends SameDevice s t where
  ram   : t.wdn.ram = s.wdn.ram
  relq  : t.wdn.relq = s.wdn.relq
  journal : t.wdn.journal = s.wdn.journal
  banks : ∀ n : Fin 16, t.hw[n].bankA = s.hw[n].bankA ∧ t.hw[n].bankB = s.hw[n].bankB
  cqs   : ∀ n : Fin 16, t.hw[n].cq = s.hw[n].cq
  modes : ∀ n : Fin 16, t.hw[n].st = s.hw[n].st
  cores : ∀ x : EngineId, x ≠ e → (t.eng x).core = (s.eng x).core
  vecs  : ∀ x : EngineId, ∃ v, (t.eng x).vec = { (s.eng x).vec with ipend := v }

/-- A word of an engine's own memory: a Hewer's local memory, the Warden's RAM (05 R185; 19, address view). -/
def State.ownWord (s : State) (e : EngineId) (a : Nat) : TWord :=
  match e with
  | .hewer n => if a < 0x8000 then s.hw[n].word a else TWord.zero
  | .warden => TWord.plain (memRead 0 s.wdn.ram a)

/-- What such a word holds after a store: the Warden's has no tag (06 R245). -/
def stored (e : EngineId) (v : TWord) : TWord :=
  match e with
  | .hewer _ => v
  | .warden => TWord.plain v.val

/-- Engine `e` may load and store word `a` of its own memory, with room in the Warden's journal for the entries of one instruction. -/
def State.Owns (s : State) (e : EngineId) (a : Word) : Prop :=
  match e with
  | .hewer n => a.toNat < 0x4000 ∨ (a.toNat < 0x8000 ∧ s.lo.bothBanks n.val = true)
  | .warden => s.wdn.codeWords ≤ a.toNat ∧ a.toNat < 0x20000 ∧ s.wdn.journal.length + 8 < 2016

/-- The words of own memory but those in `as` are as they were. -/
def OwnSame (e : EngineId) (as : List Word) (s t : State) : Prop := ∀ k, k < 0x20000 → (∀ a ∈ as, a.toNat ≠ k) → t.ownWord e k = s.ownWord e k

/-- Core cycle `k` comes before the end of the running stroke, or no stroke's end is set: what falls there is not left to the boundary (02
R37, R58; log 14). -/
def State.Before (s : State) (k : Nat) : Prop := ∀ e, s.tb.stroke.ends = some e → (s.tb.clk.advance (k - s.tb.clk.cycles)).qns < e

/-- The same for a time in quarter-nanoseconds. -/
def State.BeforeTime (s : State) (q : Nat) : Prop := ∀ e, s.tb.stroke.ends = some e → q < e

/-- A stroke runs, and core cycle `k` comes before its end. -/
def State.InStroke (s : State) (k : Nat) : Prop :=
  s.tb.stroke.running = true ∧ ∃ e, s.tb.stroke.ends = some e ∧ (s.tb.clk.advance (k - s.tb.clk.cycles)).qns < e

/-- No boundary is due or has been performed in the running core cycle: a step of system time applies at once (02 R59). -/
def State.StepsNow (s : State) : Prop :=
  s.BeforeTime s.qns ∧ (s.tb.stroke.running = true → s.tb.clk.cycles ≠ s.tb.stroke.cyc0)

/-- Flight `f` may execute instructions: its island is on, and in a stroke its compute is not spent (15 R574; 03 R100). -/
def State.FlightRuns (s : State) (f : Fin 4) : Prop :=
  s.flightOn f = true ∧ (s.tb.stroke.running = true → 0 < s.sbu.act[(actFlight f)].cpu)

/-- The stalled instruction of engine `e` runs again: no stall, the beats it has paid kept, its words fetched (03 R109, 06 R268). -/
def State.unstalled (e : EngineId) (paid : Nat) (s : State) : State :=
  (s.modEng e fun y => { y with stall := none, paid := paid }).fetched e

/-- Hewer `n` stalls with kind `k` in instruction `i`, of one word or (`long`) two, and nothing but its own wait keeps it: it executes, has
compute, the stalled cycles counted (03 R91), no vector is due (06 R260), and the words can be fetched. -/
structure State.Waits (s : State) (n : Fin 16) (k : StallKind) (i : Instr) (paid : Nat) (long : Bool) : Prop where
  stall : ∃ head, s.hw[n].eng.stall = some ⟨k, i, paid, head⟩
  runs  : s.executes (.hewer n) = true
  cpu   : (s.billStall (.hewer n)).hasCompute (.hewer n) = true
  due   : s.hw[n].eng.due = none
  fetch : s.fetchFault (.hewer n) long = none

/-- A block instruction may do a word: what its first cycles cost leaves compute, and no vector comes between (03 R100, 06 R266). -/
def State.BlockPaid (s : State) (e : EngineId) : Prop :=
  2 < s.sbu.act[(engAct e)].cpu ∨ (s.tb.stroke.running = false ∧ (s.eng e).core.ie = false)

/-- The status word that an entry pushes (06, status bits). -/
def entryStatus (c : Core) (exc : Bool) : Word :=
  BitVec.ofNat 20 (2 ^ 13 * c.ie.toNat + 2 ^ 12 * exc.toNat + 2 ^ 11 * c.mark.toNat + 2 ^ 5 * c.lvl.toNat + 16 * c.fl.n.toNat +
    8 * c.fl.z.toNat + 4 * c.fl.c.toNat + 2 * c.fl.v.toNat + c.fl.g.toNat)

/-- The instructions that touch an engine's registers, flags and PC alone (07 R288-R290, R292, R294, R301; EI and DI of R309). -/
def registerInstr : Instr → Bool
  | .mov _ _ _ | .movd _ _ _ | .movq _ _ | .movi _ _ | .lea _ _ | .csel _ _ | .swp _ _ _ | .mkg _ _ _ | .mks _ _ _ | .mkc _ _ _ | .mko _ _ => true
  | .add _ _ | .adc _ _ | .sub _ _ | .sbc _ _ | .cmp _ _ _ | .neg _ _ _ | .addi _ _ | .addq _ _ | .cmpi _ _ | .cmpq _ _ | .addd _ _ | .subd _ _ => true
  | .and _ _ | .or _ _ | .xor _ _ | .andi _ _ | .ori _ _ | .xori _ _ | .not _ _ _ | .tst _ _ _ | .tsti _ _ => true
  | .qadd _ _ | .qsub _ _ | .qaddu _ _ | .qsubu _ _ | .mul _ _ | .mulu _ _ | .muls _ _ => true
  | .shl _ _ | .shr _ _ | .asr _ _ | .ror _ _ | .shlq _ _ | .shrq _ _ | .asrq _ _ => true
  | .par _ _ _ | .btst _ _ | .bset _ _ | .bclr _ _ | .brev _ _ | .bfx _ _ | .bfi _ _ | .sxt _ _ | .crc _ _ => true
  | .pqnt _ _ | .pdeq _ _ | .pdlt _ _ | .pdbd _ _ => true
  | .bcc _ _ _ | .jcc _ _ | .callcc _ _ | .jrcc _ _ | .callrcc _ _ | .ret _ _ | .nop _ _ | .ei _ _ | .di _ _ => true
  | _ => false

/-! Commands of the management interface. -/

/-- The Warden takes a command from `src` and may perform it: no response waits, and the service port has its session (19 R714, R721). -/
def State.Takes (s : State) (src : CmdSource) : Prop := s.takesCommand src = true ∧ (src = .svp → s.wdn.session = true)

/-- What the Warden has queued for the outside, in order: the release queue, then what its firmware holds back while the queue is full (06
R275, R280). -/
def State.queued (s : State) : List REntry := s.wdn.relq ++ s.wdn.late

/-- The last entry queued is the response to `src`: command word, STATUS, results (19 R713). -/
def State.Answers (t : State) (src : CmdSource) (tag : BitVec 8) (code : BitVec 12) (status : Nat) (results : List Word) : Prop :=
  t.queued.getLast? = some (.response src ((tag ++ code : BitVec 20) :: BitVec.ofNat 20 status :: results))

/-- A scheduler entry that the Warden has armed (02 R63, R69): action 0, owner code 16. -/
def armedEntry (stroke needSync : Bool) (tgt : Vector Word 4) : Sched :=
  { action := 0, mask := 0, needSync := needSync, stroke := stroke, tgt := tgt, st := .pending, reason := .none, owner := 16 }

/-- No engine is stalled. -/
def State.NoStall (s : State) : Prop := ∀ e : EngineId, (s.eng e).stall = none

end Sys2Proof.Machine
end

