-- ==== Sys2Proof/Certificates/Slice0/Obligations.lean ====
section
/-! DEFINITION. The statements for the provers. -/

open Sys2Proof Sys2Proof.Machine

/-! Ahneafin: register instructions. -/

/-- Sums and differences of one register with another or an immediate (07 R288): the result, its tag, all five flags as 06 R238 defines them on exact
values, and PC. CMP, CMPI and CMPQ write flags alone. -/
def Obligations.AhfSumsAndDifferences : Prop :=
  (∀ (s : State) (e : EngineId) (f : R2), s.MayRun e (R2.isLong f) → f.legal = true →
    let c := (s.eng e).core
    let a := (c.reg f.a).val
    let b := (c.reg f.b).val
    let g := (c.reg f.a).green || (c.reg f.b).green
    Completes (.add e f) s (fun t =>
      (t.eng e).core = ((c.put f.dst ⟨a + b, g⟩).setFl (sumFlags a b false g)).past (R2.isLong f)) ∧
    Completes (.adc e f) s (fun t =>
      (t.eng e).core = ((c.put f.dst ⟨a + b + BitVec.ofNat 20 c.fl.c.toNat, g || c.fl.g⟩).setFl (sumFlags a b c.fl.c (g || c.fl.g))).past
        (R2.isLong f)) ∧
    Completes (.sub e f) s (fun t =>
      (t.eng e).core = ((c.put f.dst ⟨a - b, g⟩).setFl (diffFlags a b false g)).past (R2.isLong f)) ∧
    Completes (.sbc e f) s (fun t =>
      (t.eng e).core = ((c.put f.dst ⟨a - b - BitVec.ofNat 20 (!c.fl.c).toNat, g || c.fl.g⟩).setFl
        (diffFlags a b (!c.fl.c) (g || c.fl.g))).past (R2.isLong f))) ∧
  (∀ (s : State) (e : EngineId) (rd rs : Fin 16), s.MayRun e false →
    let c := (s.eng e).core
    let a := (c.reg rd).val
    let b := (c.reg rs).val
    Completes (.cmp e rd rs) s (fun t =>
      (t.eng e).core = (c.setFl (diffFlags a b false ((c.reg rd).green || (c.reg rs).green))).past false) ∧
    Completes (.neg e rd rs) s (fun t =>
      (t.eng e).core = ((c.put rd ⟨-b, (c.reg rs).green⟩).setFl (diffFlags 0 b false (c.reg rs).green)).past false)) ∧
  (∀ (s : State) (e : EngineId) (f : LI), s.MayRun e true →
    let c := (s.eng e).core
    Completes (.addi e f) s (fun t =>
      (t.eng e).core = ((c.put f.rd ⟨(c.reg f.rs).val + f.imm, (c.reg f.rs).green⟩).setFl
        (sumFlags (c.reg f.rs).val f.imm false (c.reg f.rs).green)).past true) ∧
    (f.rs = 0 → Completes (.cmpi e f) s (fun t =>
      (t.eng e).core = (c.setFl (diffFlags (c.reg f.rd).val f.imm false (c.reg f.rd).green)).past true))) ∧
  (∀ (s : State) (e : EngineId) (f : SI), s.MayRun e false →
    let c := (s.eng e).core
    let a := (c.reg f.rd).val
    let i := f.imm.signExtend 20
    let g := (c.reg f.rd).green
    Completes (.addq e f) s (fun t =>
      (t.eng e).core = ((c.put f.rd ⟨a + i, g⟩).setFl (sumFlags a i false g)).past false) ∧
    Completes (.cmpq e f) s (fun t => (t.eng e).core = (c.setFl (diffFlags a i false g)).past false)) ∧
  (∀ (s : State) (e : EngineId) (f : L3), s.MayRun e true → f.z = 0 → f.aux = 0 →
    f.rd.val % 2 = 0 → f.rs.val % 2 = 0 → f.rt.val % 2 = 0 →
    let c := (s.eng e).core
    let a := c.pairVal f.rs
    let b := c.pairVal f.rt
    let g := c.pairTag f.rs || c.pairTag f.rt
    Completes (.addd e f) s (fun t =>
      (t.eng e).core = ((c.putPair f.rd (a + b) g).setFl (sumFlags a b false g)).past true) ∧
    Completes (.subd e f) s (fun t =>
      (t.eng e).core = ((c.putPair f.rd (a - b) g).setFl (diffFlags a b false g)).past true))

/-- Logic instructions (07 R288): the bits of the result, N Z G, and C and V as they were. TST and TSTI write flags alone. -/
def Obligations.AhfLogic : Prop :=
  (∀ (s : State) (e : EngineId) (f : R2), s.MayRun e (R2.isLong f) → f.legal = true →
    let c := (s.eng e).core
    let a := (c.reg f.a).val
    let b := (c.reg f.b).val
    let g := (c.reg f.a).green || (c.reg f.b).green
    let done (v : Word) (t : State) : Prop :=
      (t.eng e).core = ((c.put f.dst ⟨v, g⟩).setFl { c.fl with n := v.msb, z := v == 0, g := g }).past (R2.isLong f)
    Completes (.and e f) s (done (a &&& b)) ∧ Completes (.or e f) s (done (a ||| b)) ∧ Completes (.xor e f) s (done (a ^^^ b))) ∧
  (∀ (s : State) (e : EngineId) (f : LI), s.MayRun e true →
    let c := (s.eng e).core
    let a := (c.reg f.rs).val
    let g := (c.reg f.rs).green
    let done (v : Word) (t : State) : Prop :=
      (t.eng e).core = ((c.put f.rd ⟨v, g⟩).setFl { c.fl with n := v.msb, z := v == 0, g := g }).past true
    Completes (.andi e f) s (done (a &&& f.imm)) ∧ Completes (.ori e f) s (done (a ||| f.imm)) ∧
    Completes (.xori e f) s (done (a ^^^ f.imm)) ∧
    (f.rs = 0 → Completes (.tsti e f) s (fun t =>
      let v := (c.reg f.rd).val &&& f.imm
      (t.eng e).core = (c.setFl { c.fl with n := v.msb, z := v == 0, g := (c.reg f.rd).green }).past true))) ∧
  (∀ (s : State) (e : EngineId) (rd rs : Fin 16), s.MayRun e false →
    let c := (s.eng e).core
    Completes (.not e rd rs) s (fun t =>
      let v := ~~~(c.reg rs).val
      (t.eng e).core = ((c.put rd ⟨v, (c.reg rs).green⟩).setFl { c.fl with n := v.msb, z := v == 0, g := (c.reg rs).green }).past false) ∧
    Completes (.tst e rd rs) s (fun t =>
      let v := (c.reg rd).val &&& (c.reg rs).val
      (t.eng e).core =
        (c.setFl { c.fl with n := v.msb, z := v == 0, g := (c.reg rd).green || (c.reg rs).green }).past false))

/-- Moves, octets, marks and selection (07 R288, R290, R292): what is written, with its tag; MKG and MKC write Z and G, the others no flag. CSEL also
sets CTL_GREEN when its condition reads a green G (06 R242). -/
def Obligations.AhfMovesAndMarks : Prop :=
  (∀ (s : State) (e : EngineId) (rd rs : Fin 16), s.MayRun e false →
    let c := (s.eng e).core
    let b := c.reg rs
    Completes (.mov e rd rs) s (fun t => (t.eng e).core = (c.put rd b).past false) ∧
    (rd.val % 2 = 0 → rs.val % 2 = 0 →
      Completes (.movd e rd rs) s (fun t => (t.eng e).core = (c.putPair rd (c.pairVal rs) (c.pairTag rs)).past false)) ∧
    Completes (.swp e rd rs) s (fun t => ∃ v : Word, (t.eng e).core = (c.put rd ⟨v, b.green⟩).past false ∧
      v.toNat = b.val.toNat / 65536 * 65536 + b.val.toNat % 256 * 256 + b.val.toNat / 256 % 256) ∧
    Completes (.mkg e rd rs) s (fun t =>
      let v := BitVec.ofNat 20 (b.val.toNat / 65536)
      (t.eng e).core = ((c.put rd ⟨v, b.green⟩).setFl { c.fl with z := v == 0, g := b.green }).past false) ∧
    Completes (.mks e rd rs) s (fun t =>
      let v := BitVec.ofNat 20 (b.val.toNat % 16 * 65536 + (c.reg rd).val.toNat % 65536)
      (t.eng e).core = (c.put rd ⟨v, (c.reg rd).green || b.green⟩).past false) ∧
    Completes (.mkc e rd rs) s (fun t =>
      let v := BitVec.ofNat 20 (b.val.toNat % 65536)
      (t.eng e).core = ((c.put rd ⟨v, b.green⟩).setFl { c.fl with z := v == 0, g := b.green }).past false)) ∧
  (∀ (s : State) (e : EngineId) (f : SI), s.MayRun e false →
    let c := (s.eng e).core
    Completes (.movq e f) s (fun t => (t.eng e).core = (c.put f.rd ⟨BitVec.ofNat 20 f.imm.toNat, false⟩).past false) ∧
    (f.imm.toNat < 16 → Completes (.mko e f) s (fun t =>
      (t.eng e).core =
        (c.put f.rd ⟨(c.reg f.rd).val ||| BitVec.ofNat 20 (f.imm.toNat * 65536), (c.reg f.rd).green⟩).past false))) ∧
  (∀ (s : State) (e : EngineId) (f : LI), s.MayRun e true → f.rs = 0 →
    Completes (.movi e f) s (fun t => (t.eng e).core = ((s.eng e).core.put f.rd ⟨f.imm, false⟩).past true)) ∧
  (∀ (s : State) (e : EngineId) (f : LM), s.MayRun e true →
    let c := (s.eng e).core
    Completes (.lea e f) s (fun t =>
      (t.eng e).core = (c.put f.rd (if f.abs then ⟨f.disp, false⟩ else ⟨(c.reg f.rb).val + f.disp, (c.reg f.rb).green⟩)).past true)) ∧
  (∀ (s : State) (e : EngineId) (f : L3), s.MayRun e true → f.z = 0 → f.aux.toNat < 16 →
    let c := (s.eng e).core
    let cond := BitVec.ofNat 4 f.aux.toNat
    let reads := cond != 0 && c.fl.g
    Completes (.csel e f) s (fun t =>
      (t.eng e).core =
        ({ c.put f.rd ⟨if c.fl.holds cond then (c.reg f.rs).val else (c.reg f.rt).val,
            (c.reg f.rs).green || (c.reg f.rt).green || reads⟩ with ctlG := c.ctlG || reads }).past true))

/-- Saturation and products (07 R288): the exact sum or difference clamped to the signed or unsigned range, V saying whether it was; the low word of a
product, and the whole product in a register pair. -/
def Obligations.AhfSaturationAndProducts : Prop :=
  (∀ (s : State) (e : EngineId) (f : R2), s.MayRun e (R2.isLong f) → f.legal = true →
    let c := (s.eng e).core
    let a := (c.reg f.a).val
    let b := (c.reg f.b).val
    let g := (c.reg f.a).green || (c.reg f.b).green
    let sat (lo hi x : Int) (t : State) : Prop :=
      let v := BitVec.ofInt 20 (max lo (min hi x))
      (t.eng e).core = ((c.put f.dst ⟨v, g⟩).setFl
        { c.fl with n := v.msb, z := v == 0, v := decide (x < lo ∨ hi < x), g := g }).past (R2.isLong f)
    Completes (.qadd e f) s (sat (-524288) 524287 (a.toInt + b.toInt)) ∧
    Completes (.qsub e f) s (sat (-524288) 524287 (a.toInt - b.toInt)) ∧
    Completes (.qaddu e f) s (sat 0 1048575 (a.toNat + b.toNat)) ∧
    Completes (.qsubu e f) s (sat 0 1048575 ((a.toNat : Int) - b.toNat)) ∧
    Completes (.mul e f) s (fun t =>
      let v := BitVec.ofNat 20 (a.toNat * b.toNat)
      (t.eng e).core = ((c.put f.dst ⟨v, g⟩).setFl { c.fl with n := v.msb, z := v == 0, g := g }).past (R2.isLong f))) ∧
  (∀ (s : State) (e : EngineId) (f : L3), s.MayRun e true → f.z = 0 → f.aux = 0 → f.rd.val % 2 = 0 →
    let c := (s.eng e).core
    let a := (c.reg f.rs).val
    let b := (c.reg f.rt).val
    let g := (c.reg f.rs).green || (c.reg f.rt).green
    let done (v : BitVec 40) (t : State) : Prop :=
      (t.eng e).core = ((c.putPair f.rd v g).setFl { c.fl with n := v.msb, z := v == 0, g := g }).past true
    Completes (.mulu e f) s (fun t => ∃ v : BitVec 40, v.toNat = a.toNat * b.toNat ∧ done v t) ∧
    Completes (.muls e f) s (fun t => ∃ v : BitVec 40, v.toInt = a.toInt * b.toInt ∧ done v t))

/-- Shifts (07 R289): the result, and C the last bit shifted out, unchanged for an amount of 0 (ROR: a multiple of 20). A register amount is bits 4:0
of b; an immediate one is 0 to 20. -/
def Obligations.AhfShifts : Prop :=
  let shl (a : Word) (k : Nat) (c : Bool) : Word × Bool :=
    (BitVec.ofNat 20 (a.toNat * 2 ^ k), if k = 0 then c else (a.toNat * 2 ^ k).testBit 20)
  let shr (a : Word) (k : Nat) (c : Bool) : Word × Bool :=
    (BitVec.ofNat 20 (a.toNat / 2 ^ k), if k = 0 then c else a.toNat.testBit (k - 1))
  let asr (a : Word) (k : Nat) (c : Bool) : Word × Bool :=
    (BitVec.ofInt 20 (a.toInt.fdiv (2 ^ k)), if k = 0 then c else decide (a.toInt.fdiv (2 ^ (k - 1)) % 2 = 1))
  let ror (a : Word) (k : Nat) (c : Bool) : Word × Bool :=
    (a.rotateRight (k % 20), if k % 20 = 0 then c else (a.rotateRight (k % 20)).msb)
  (∀ (s : State) (e : EngineId) (f : R2), s.MayRun e (R2.isLong f) → f.legal = true →
    let c := (s.eng e).core
    let g := (c.reg f.a).green || (c.reg f.b).green
    let done (op : Word → Nat → Bool → Word × Bool) (t : State) : Prop :=
      let x := op (c.reg f.a).val ((c.reg f.b).val.toNat % 32) c.fl.c
      (t.eng e).core =
        ((c.put f.dst ⟨x.1, g⟩).setFl { c.fl with n := x.1.msb, z := x.1 == 0, c := x.2, g := g }).past (R2.isLong f)
    Completes (.shl e f) s (done shl) ∧ Completes (.shr e f) s (done shr) ∧ Completes (.asr e f) s (done asr) ∧
    Completes (.ror e f) s (done ror)) ∧
  (∀ (s : State) (e : EngineId) (f : SI), s.MayRun e false → f.imm.toNat ≤ 20 →
    let c := (s.eng e).core
    let g := (c.reg f.rd).green
    let done (op : Word → Nat → Bool → Word × Bool) (t : State) : Prop :=
      let x := op (c.reg f.rd).val f.imm.toNat c.fl.c
      (t.eng e).core = ((c.put f.rd ⟨x.1, g⟩).setFl { c.fl with n := x.1.msb, z := x.1 == 0, c := x.2, g := g }).past false
    Completes (.shlq e f) s (done shl) ∧ Completes (.shrq e f) s (done shr) ∧ Completes (.asrq e f) s (done asr))

/-- Bit instructions and the CRC step (07 R290, R294, R295). BSET, BCLR and BFI write no flag; the others write Z and G, SXT also N. -/
def Obligations.AhfBits : Prop :=
  (∀ (s : State) (e : EngineId) (rd rs : Fin 16), s.MayRun e false →
    let c := (s.eng e).core
    Completes (.par e rd rs) s (fun t =>
      let odd := ((List.range 20).countP fun i => (c.reg rs).val.getLsbD i) % 2 = 1
      (t.eng e).core = ((c.put rd ⟨if odd then 1 else 0, (c.reg rs).green⟩).setFl { c.fl with z := !decide odd, g := (c.reg rs).green }).past false)) ∧
  (∀ (s : State) (e : EngineId) (f : SI), s.MayRun e false → f.imm.toNat < 20 →
    let c := (s.eng e).core
    let a := c.reg f.rd
    Completes (.btst e f) s (fun t =>
      (t.eng e).core = (c.setFl { c.fl with z := !a.val.getLsbD f.imm.toNat, g := a.green }).past false) ∧
    Completes (.bset e f) s (fun t => (t.eng e).core = (c.put f.rd ⟨a.val ||| BitVec.ofNat 20 (2 ^ f.imm.toNat), a.green⟩).past false) ∧
    Completes (.bclr e f) s (fun t => (t.eng e).core = (c.put f.rd ⟨a.val &&& ~~~BitVec.ofNat 20 (2 ^ f.imm.toNat), a.green⟩).past false)) ∧
  (∀ (s : State) (e : EngineId) (f : L3), s.MayRun e true → f.rt = 0 → f.z = 0 → f.aux.toNat < 32 → 1 ≤ f.aux.toNat → f.aux.toNat ≤ 20 →
    let c := (s.eng e).core
    let a := c.reg f.rs
    let n := f.aux.toNat
    Completes (.brev e f) s (fun t => ∃ v : Word,
      (∀ k, k < 20 → v.getLsbD k = (decide (k < n) && a.val.getLsbD (n - 1 - k))) ∧
      (t.eng e).core = ((c.put f.rd ⟨v, a.green⟩).setFl { c.fl with z := v == 0, g := a.green }).past true) ∧
    Completes (.sxt e f) s (fun t => ∃ v : Word,
      (∀ k, k < 20 → v.getLsbD k = a.val.getLsbD (min k (n - 1))) ∧
      (t.eng e).core = ((c.put f.rd ⟨v, a.green⟩).setFl { c.fl with n := v.msb, z := v == 0, g := a.green }).past true)) ∧
  (∀ (s : State) (e : EngineId) (f : L3) (p n : Nat), s.MayRun e true → f.rt = 0 → f.z = 0 → f.aux.toNat = 32 * p + n →
    1 ≤ n → p + n ≤ 20 →
    let c := (s.eng e).core
    let a := c.reg f.rs
    Completes (.bfx e f) s (fun t =>
      let v := BitVec.ofNat 20 (a.val.toNat / 2 ^ p % 2 ^ n)
      (t.eng e).core = ((c.put f.rd ⟨v, a.green⟩).setFl { c.fl with z := v == 0, g := a.green }).past true) ∧
    Completes (.bfi e f) s (fun t => ∃ v : Word,
      (∀ k, k < 20 → v.getLsbD k = if p ≤ k ∧ k < p + n then a.val.getLsbD (k - p) else (c.reg f.rd).val.getLsbD k) ∧
      (t.eng e).core = (c.put f.rd ⟨v, (c.reg f.rd).green || a.green⟩).past true)) ∧
  (∀ (s : State) (e : EngineId) (f : L3), s.MayRun e true → f.z = 0 → f.rd.val % 2 = 0 → f.rt.val % 2 = 0 → f.aux.toNat < 32 →
    1 ≤ f.aux.toNat → f.aux.toNat ≤ 20 →
    let c := (s.eng e).core
    let p := c.pairVal f.rt
    let g := c.pairTag f.rd || (c.reg f.rs).green || c.pairTag f.rt
    Completes (.crc e f) s (fun t =>
      let v := crcStep p f.aux.toNat (c.reg f.rs).val (c.pairVal f.rd)
      v.toNat < 2 ^ (p.toNat / 2 ^ 32 % 32 + 1) ∧
      (t.eng e).core = ((c.putPair f.rd v g).setFl { c.fl with z := v == 0, g := g }).past true))

/-- The assists of process value coding (07 R301): quantization to the nearest multiple of 2^q, ties to the even one, clamped; its inverse; the
difference with the least width that holds it; and the band test on the exact difference. -/
def Obligations.AhfProcessValueAssists : Prop :=
  (∀ (s : State) (e : EngineId) (f : L3) (q : Nat) (sg : Bool), s.MayRun e true → f.z = 0 → f.rt = 0 →
    f.aux.toNat = q + 16 * sg.toNat → 1 ≤ q → q ≤ 12 →
    let c := (s.eng e).core
    let a := c.reg f.rs
    let x : Int := if sg then a.val.toInt else a.val.toNat
    Completes (.pqnt e f) s (fun t => ∃ k : Int,
      (2 * (x - k * 2 ^ q)).natAbs ≤ 2 ^ q ∧ ((2 * (x - k * 2 ^ q)).natAbs = 2 ^ q → k % 2 = 0) ∧
      let lo : Int := if sg then -(2 ^ (19 - q)) else 0
      let hi : Int := if sg then 2 ^ (19 - q) - 1 else 2 ^ (20 - q) - 1
      let v := BitVec.ofNat 20 (BitVec.ofInt (20 - q) (max lo (min hi k))).toNat
      (t.eng e).core = ((c.put f.rd ⟨v, a.green⟩).setFl
        { c.fl with n := v.getLsbD (19 - q), z := v == 0, v := decide (k < lo ∨ hi < k), g := a.green }).past true) ∧
    Completes (.pdeq e f) s (fun t =>
      let v := BitVec.ofNat 20 (a.val.toNat * 2 ^ q)
      (t.eng e).core = ((c.put f.rd ⟨v, a.green⟩).setFl { c.fl with n := v.msb, z := v == 0, g := a.green }).past true)) ∧
  (∀ (s : State) (e : EngineId) (f : L3), s.MayRun e true → f.z = 0 → f.aux = 0 → f.rd.val % 2 = 0 →
    let c := (s.eng e).core
    let d := (c.reg f.rs).val - (c.reg f.rt).val
    let g := (c.reg f.rs).green || (c.reg f.rt).green
    Completes (.pdlt e f) s (fun t => ∃ n : Nat, 1 ≤ n ∧ n ≤ 20 ∧ inSigned n d.toInt = true ∧
      (∀ m, m < n → 1 ≤ m → inSigned m d.toInt = false) ∧
      (t.eng e).core = ((c.putPair f.rd (BitVec.ofNat 20 n ++ d) g).setFl { c.fl with n := d.msb, z := d == 0, g := g }).past true)) ∧
  (∀ (s : State) (e : EngineId) (f : LI), s.MayRun e true →
    let c := (s.eng e).core
    let val (w : Word) : Int := if f.imm.getLsbD 19 then w.toInt else w.toNat
    Completes (.pdbd e f) s (fun t =>
      (t.eng e).core = (c.setFl
        { c.fl with z := decide ((val (c.reg f.rd).val - val (c.reg f.rs).val).natAbs ≤ f.imm.toNat % 2 ^ 19),
                    g := (c.reg f.rd).green || (c.reg f.rs).green }).past true))

/-- The frame of every register instruction, branches, NOP, EI and DI among them: with legal operands it completes and leaves memories, queues,
planes, peripherals, every other core and every special register as they were. -/
def Obligations.AhfRegisterFrame : Prop :=
  ∀ (s : State) (i : Instr) (e : EngineId) (x : Ahf), ahfOf i = some (e, x) → registerInstr i = true → s.MayRun e x.enc.long →
    x.legal = true → Completes i s (RegFrame e s)

/-- Branches (07 R292, R293; 06 R253): where PC goes, taken and not taken; the link in w15 with tag 0; CTL_GREEN set by a condition other than AL that
reads a green G, and by a green target whatever the condition. No flag changes. -/
def Obligations.AhfBranches : Prop :=
  (∀ (s : State) (e : EngineId) (cond : BitVec 4) (off : BitVec 12), s.MayRun e false →
    let c := (s.eng e).core
    Completes (.bcc e cond off) s (fun t =>
      (t.eng e).core = { c with ctlG := c.ctlG || (cond != 0 && c.fl.g),
                                pc := if c.fl.holds cond then c.pc + 1 + BitVec.ofInt 20 off.toInt else c.pc + 1 })) ∧
  (∀ (s : State) (e : EngineId) (f : LB), s.MayRun e true → f.z = 0 →
    let c := (s.eng e).core
    let g := f.cond != 0 && c.fl.g
    let taken := c.fl.holds f.cond
    let linked := c.put 15 ⟨c.pc + 2, false⟩
    Completes (.jcc e f) s (fun t =>
      (t.eng e).core = { c with ctlG := c.ctlG || g, pc := if taken then f.addr else c.pc + 2 }) ∧
    Completes (.callcc e f) s (fun t =>
      (t.eng e).core = if taken then { linked with ctlG := c.ctlG || g, pc := f.addr } else { c with ctlG := c.ctlG || g, pc := c.pc + 2 }) ∧
    (f.addr = 0 →
      let r := c.reg f.rs
      Completes (.jrcc e f) s (fun t =>
        (t.eng e).core = { c with ctlG := c.ctlG || r.green || g, pc := if taken then r.val else c.pc + 2 }) ∧
      Completes (.callrcc e f) s (fun t =>
        (t.eng e).core = if taken then { linked with ctlG := c.ctlG || r.green || g, pc := r.val }
          else { c with ctlG := c.ctlG || r.green || g, pc := c.pc + 2 }))) ∧
  (∀ (s : State) (e : EngineId), s.MayRun e false →
    let c := (s.eng e).core
    Completes (.ret e 0) s (fun t =>
      (t.eng e).core = { c with ctlG := c.ctlG || (c.reg 15).green, pc := (c.reg 15).val }))

/-! Ahneafin: memory, block instructions, micro-routines, system instructions. -/

/-- Loads, stores, PUSH and POP on an engine's own memory (07 R291): what is loaded and stored, where (the effective address of 06 R253, the stack
slot), w14, PC, and that every other word of own memory and the rest of the device stay as they were. Where the manual is silent it takes the model's
choices of the assumption log, 35. -/
def Obligations.AhfOwnMemory : Prop :=
  ∀ (s : State) (e : EngineId),
    let c := (s.eng e).core
    (∀ f : MemForm, s.MayRun e (MemForm.isLong f) →
      let a := s.eaOf e f
      let r := f.reg
      s.Owns e a →
      Completes (.ld e f) s (fun t =>
        (t.eng e).core = (c.put r (s.ownWord e a.toNat)).past (MemForm.isLong f) ∧ OwnSame e [] s t ∧ SameDevice s t) ∧
      Completes (.st e f) s (fun t =>
        (t.eng e).core = c.past (MemForm.isLong f) ∧ t.ownWord e a.toNat = stored e (c.reg r) ∧ OwnSame e [a] s t ∧ SameDevice s t) ∧
      (s.Owns e (a + 1) → r.val % 2 = 0 →
        Completes (.ldd e f) s (fun t =>
          (t.eng e).core = ((c.put r (s.ownWord e a.toNat)).put (highReg r) (s.ownWord e (a + 1).toNat)).past (MemForm.isLong f) ∧
          OwnSame e [] s t ∧ SameDevice s t) ∧
        Completes (.std e f) s (fun t =>
          (t.eng e).core = c.past (MemForm.isLong f) ∧ t.ownWord e a.toNat = stored e (c.reg r) ∧
          t.ownWord e (a + 1).toNat = stored e (c.reg (highReg r)) ∧ OwnSame e [a, a + 1] s t ∧ SameDevice s t))) ∧
    (∀ imm : BitVec 8, s.MayRun e false → imm.toNat < 16 →
      let r : Fin 16 := ix 16 imm.toNat
      let top := c.w[(14 : Fin 16)]
      (s.Owns e (top - 1) → Completes (.push e imm) s (fun t =>
        (t.eng e).core = ({ c with w := vset c.w 14 (top - 1) } : Core).past false ∧ t.ownWord e (top - 1).toNat = stored e (c.reg r) ∧
        OwnSame e [top - 1] s t ∧ SameDevice s t)) ∧
      (s.Owns e top → Completes (.pop e imm) s (fun t =>
        (let d := c.put r (s.ownWord e top.toNat)
         (t.eng e).core = ({ d with w := vset d.w 14 (d.w[(14 : Fin 16)] + 1) } : Core).past false) ∧ OwnSame e [] s t ∧ SameDevice s t)))

/-- Loads and stores wherever they reach: once the accesses' preconditions are met (`prep`), LD takes the loaded word and ST completes with the
store's effect; a refused access is the exception ACCESS with the address, and a wait leaves the instruction stalled. Its words have been fetched
before (06 R250). -/
def Obligations.AhfAccessOutcomes : Prop :=
  ∀ (s u : State) (e : EngineId) (f : MemForm) (bs : List BeatSource) (cause : BitVec 4) (detail : Word) (k : StallKind) (paid : Nat)
    (head : Option Nat), s.MayRun e (MemForm.isLong f) →
    let a := s.eaOf e f
    let v := (s.eng e).core.reg f.reg
    let s₁ := s.fetched e
    (s₁.prep e [Acc.load a] = .ok bs u → Completes (.ld e f) s (fun t =>
      (t.eng e).core = (((u.load e a).2.eng e).core.put f.reg (u.load e a).1).past (MemForm.isLong f) ∧ t.loft = (u.load e a).2.loft)) ∧
    (s₁.prep e [Acc.store a v] = .ok bs u → Completes (.st e f) s (fun t =>
      (t.eng e).core = ((u.store e a v (bs.headD .none)).eng e).core.past (MemForm.isLong f) ∧
      t.loft = (u.store e a v (bs.headD .none)).loft)) ∧
    (s₁.prep e [Acc.load a] = .trap cause detail u → exec (.ld e f) s = .next (u.exception e cause detail)) ∧
    (s₁.prep e [Acc.store a v] = .trap cause detail u → exec (.st e f) s = .next (u.exception e cause detail)) ∧
    (s₁.prep e [Acc.load a] = .stall k paid head u →
      Completes (.ld e f) s fun t => (t.eng e).stall = some ⟨k, .ld e f, paid, head⟩ ∧ (t.eng e).core = (u.eng e).core) ∧
    (s₁.prep e [Acc.store a v] = .stall k paid head u →
      Completes (.st e f) s fun t => (t.eng e).stall = some ⟨k, .st e f, paid, head⟩ ∧ (t.eng e).core = (u.eng e).core)

/-- One word of a block instruction in own memory (06 R266, R270; 07 R296, R298): the word's effect, pointers up, count down, CTL_GREEN from the
count's tag; PC moves on with the last word. With a count of 0 the instruction completes at once. One value of BPVE in own memory (07 R299, R301,
R302, R870): its field is appended at the cursor, the cursor moves by the field's width, and the word at rt takes the value that the receiver will
hold. Where the manual is silent it takes the model's choices of the assumption log, 62, 64, 65. -/
def Obligations.AhfBlockWord : Prop :=
  (∀ (s : State) (e : EngineId) (f : L3), s.MayRun e true → s.BlockPaid e → f.z = 0 →
    let c := (s.eng e).core
    let after (n : Fin 16) (d : Core) : Core :=
      { d with ctlG := c.ctlG || (c.reg n).green, pc := if d.w[n] = 0 then c.pc + 2 else c.pc }
    (f.aux = 0 → c.w[f.rt] ≠ 0 → s.Owns e c.w[f.rd] → s.Owns e c.w[f.rs] →
      Completes (.bcpy e f 1) s (fun t =>
        (t.eng e).core = after f.rt (c.progress [f.rd, f.rs] f.rt) ∧
        t.ownWord e c.w[f.rd].toNat = stored e (s.ownWord e c.w[f.rs].toNat) ∧ OwnSame e [c.w[f.rd]] s t ∧ SameDevice s t)) ∧
    (f.aux = 0 → c.w[f.rt] ≠ 0 → s.Owns e c.w[f.rd] →
      Completes (.bfil e f 1) s (fun t =>
        (t.eng e).core = after f.rt (c.progress [f.rd] f.rt) ∧
        t.ownWord e c.w[f.rd].toNat = stored e (c.reg f.rs) ∧ OwnSame e [c.w[f.rd]] s t ∧ SameDevice s t)) ∧
    (∀ steps, f.aux = 0 → c.w[f.rt] = 0 →
      Completes (.bcpy e f steps) s (fun t => (t.eng e).core = c.past true ∧ OwnSame e [] s t) ∧
      Completes (.bfil e f steps) s (fun t => (t.eng e).core = c.past true ∧ OwnSame e [] s t)) ∧
    (∀ (n : Fin 16) (mode : Nat), f.aux.toNat = n.val * 256 + mode → mode < 3 → f.rd.val % 2 = 0 → f.rt.val % 2 = 0 → c.w[n] ≠ 0 →
      s.Owns e c.w[f.rs] →
      let x := s.ownWord e c.w[f.rs].toNat
      let g := x.green || (c.reg f.rs).green || (c.reg n).green || c.pairTag f.rd || c.pairTag f.rt
      let d := (c.putPair f.rd (bcrcWord mode (c.pairVal f.rt) (c.pairVal f.rd) x.val) g).progress [f.rs] n
      Completes (.bcrc e f 1) s (fun t =>
        (t.eng e).core =
          (if d.w[n] = 0 then { after n d with fl := { d.fl with z := d.pairVal f.rd == 0, g := d.pairTag f.rd } } else after n d) ∧
        OwnSame e [] s t ∧ SameDevice s t))) ∧
  (∀ (s : State) (e : EngineId) (f : L3), s.MayRun e true → s.BlockPaid e → f.z = 0 → f.rd.val % 2 = 0 → f.aux.toNat / 2 % 8 = 0 →
    let c := (s.eng e).core
    let n := bpveCount f
    let pd := bpveDesc f
    let d := (s.ownWord e c.w[pd].toNat).val
    let x := pvcField (bpveForce f) d (s.ownWord e c.w[f.rs].toNat).val (s.ownWord e c.w[f.rt].toNat).val
    let o := c.cursorBit f.rd
    c.w[n] ≠ 0 → o < 20 → s.Owns e c.w[f.rs] → s.Owns e c.w[f.rt] → s.Owns e c.w[pd] → descIllegal d = false →
    (∀ j, j < 3 → s.Owns e (c.w[f.rd] + BitVec.ofNat 20 j)) →
    f.rd ≠ f.rs → f.rd ≠ f.rt → f.rd ≠ pd → f.rd ≠ n → highReg f.rd ≠ f.rs → highReg f.rd ≠ f.rt → highReg f.rd ≠ pd → highReg f.rd ≠ n →
    Completes (.bpve e f 1) s (fun t =>
      (t.ownWord e c.w[f.rt].toNat).val = x.held ∧
      (t.eng e).core.w[f.rd] = c.w[f.rd] + BitVec.ofNat 20 ((o + x.wide) / 20) ∧
      (t.eng e).core.cursorBit f.rd = (o + x.wide) % 20 ∧ SameDevice s t))

/-- System instructions (07 R309, R310; 06 R258, R274): YIELD marks the stroke's work done; WAIT ends where a vector is pending and enabled and waits
otherwise; RETI restores PC, flags, IE and L from the stack; EI, DI and NOP; CKPT saves the Warden's registers, empties the journal and marks the
release queue. Where the manual is silent it takes the model's choices of the assumption log, 60. -/
def Obligations.AhfSystem : Prop :=
  ∀ (s : State) (e : EngineId), s.MayRun e false →
    let c := (s.eng e).core
    Completes (.nop e 0) s (fun t => (t.eng e).core = c.past false) ∧
    Completes (.ei e 0) s (fun t => (t.eng e).core = ({ c with ie := true } : Core).past false) ∧
    Completes (.di e 0) s (fun t => (t.eng e).core = ({ c with ie := false } : Core).past false) ∧
    Completes (.yield e 0) s (fun t =>
      (t.eng e).core = ({ c with mark := true } : Core).past false ∧ t.sbu.act[(engAct e)].yielded = true ∧
      ∀ n, e = .hewer n → 32 ≤ c.lvl.toNat → t.hw[n].st = .yielded) ∧
    ((s.eng e).dueAny.isSome = true → Completes (.wait e 0) s (fun t => (t.eng e).core = c.past false ∧ (t.eng e).stall = none)) ∧
    ((s.eng e).dueAny = none → Completes (.wait e 0) s (fun t =>
      (t.eng e).core = c ∧ (t.eng e).stall = some ⟨.wait, .wait e 0, 0, none⟩)) ∧
    (let top := c.w[(14 : Fin 16)]
     s.Owns e top → s.Owns e (top + 1) →
      let pc := (s.ownWord e top.toNat).val
      let st := s.ownWord e (top + 1).toNat
      Completes (.reti e 0) s (fun t =>
        (t.eng e).core =
          { c with pc := pc, ie := st.val.getLsbD 13, lvl := st.val.extractLsb' 5 6, w := vset c.w 14 (top + 2),
                   fl := ⟨st.val.getLsbD 4, st.val.getLsbD 3, st.val.getLsbD 2, st.val.getLsbD 1, st.green⟩ } ∧
        ∀ n, e = .hewer n → 32 ≤ st.val.toNat / 32 % 64 → t.hw[n].st = if c.mark then .yielded else .running)) ∧
    (e = .warden → Completes (.ckpt e 0) s (fun t =>
      (t.eng e).core = c.past false ∧ t.wdn.journal = [] ∧
      t.wdn.ckpt[t.wdn.done] = { w := c.w, fl := c.fl, ie := c.ie, lvl := c.lvl, next := c.pc + 1 } ∧ t.wdn.done ≠ s.wdn.done ∧
      t.wdn.relq.getLast? = some .mark ∧ t.wdn.ageOn = true))

/-- Entry to a vector and to an exception (06 R257, R262): w14 falls by 2; the return PC with tag 0 and the status word with tag G are pushed; a
vector clears its pending bit, sets L and goes to VBASE + 2v; an exception leaves L, sets XCAUSE and XADDR and goes to XBASE, and TRAP returns to the
next instruction. A vector whose entries the Warden's journal cannot take is a management restart (06 R279). Where the manual is silent it takes the
model's choices of the assumption log, 136. -/
def Obligations.AhfEntries : Prop :=
  (∀ (s : State) (e : EngineId),
    let c := (s.eng e).core
    let v := (s.eng e).vec
    let sp := c.w[(14 : Fin 16)] - 2
    s.Owns e sp → s.Owns e (sp + 1) →
    let pushed (ret : Word) (exc : Bool) (t : State) : Prop :=
      t.ownWord e sp.toNat = ⟨ret, false⟩ ∧ t.ownWord e (sp + 1).toNat = stored e ⟨entryStatus c exc, c.fl.g⟩ ∧ OwnSame e [sp, sp + 1] s t ∧
      SameDevice s t
    (∀ k : Fin 32, s.listens e = true → s.hasCompute e = true → (s.eng e).stall = none → (s.eng e).due = some k →
      Completes (.interruptEntry e k) s (fun t =>
        (t.eng e).core = { c with w := vset c.w 14 sp, lvl := BitVec.ofNat 6 k.val, pc := v.vbase + BitVec.ofNat 20 (2 * k.val) } ∧
        pushed c.pc false t ∧ (8 ≤ s.sbu.act[(engAct e)].cpu → (t.eng e).vec.ipend.getLsbD k.val = false))) ∧
    (v.xbase ≠ 0 →
      (∀ (cause : BitVec 4) (detail : Word), s.executes e = true → s.hasCompute e = true → (s.eng e).stall = none → causeOf e cause = true →
        cause ≠ 3 →
        Completes (.exceptionEntry e cause detail) s (fun t =>
          (t.eng e).core = { c with w := vset c.w 14 sp, pc := v.xbase } ∧ (t.eng e).vec.xcause = cause ∧ (t.eng e).vec.xaddr = detail ∧
          pushed c.pc true t)) ∧
      (∀ imm : BitVec 8, s.MayRun e false →
        Completes (.trap e imm) s (fun t =>
          (t.eng e).core = { c with w := vset c.w 14 sp, pc := v.xbase } ∧ (t.eng e).vec.xcause = 3 ∧
          (t.eng e).vec.xaddr = BitVec.ofNat 20 imm.toNat ∧ pushed (c.pc + 1) true t)))) ∧
  (∀ (s : State) (k : Fin 32), s.listens .warden = true → s.hasCompute .warden = true → s.wdn.eng.stall = none → s.wdn.eng.due = some k →
    2048 < s.wdn.level + 3 → exec (.interruptEntry .warden k) s = .next (s.restart 3 0))

/-- The committed micro-routines (07 R303, R305, R307): list push and pop with their counts, the frames freed, the swap requested and the semaphore
taken, each with its result register, C, V and Z; STAKE tries again until its timeout while another engine holds the semaphore. Where the manual is
silent it takes the model's choices of the assumption log, 36, 37, 67, 69. -/
def Obligations.AhfMicroRoutines : Prop :=
  ∀ (s : State) (n : Fin 16) (f : L3),
    let e : EngineId := .hewer n
    let c := (s.eng e).core
    let head := c.w[f.rs]
    let word (x : State) (a : Word) : Word := memRead 0 x.loft (a.toNat - 0x8000)
    let free (a : Word) : Prop := s.mayWriteLoft e a = true ∧ s.loftOn (a.toNat - 0x8000) = true
    s.MayRun e true → f.z = 0 → f.aux = 0 →
    (f.rd = 0 →
      let node := c.w[f.rt]
      free node → free head → free (head + 1) → node ≠ head → node ≠ head + 1 → 5 ≤ s.sbu.act[(actHewer n)].loft →
      s.microWait n ((c.reg f.rs).green || (c.reg f.rt).green) (loftOf head) = none →
      Completes (.lpush e f) s (fun t =>
        (t.eng e).core = c.past true ∧ word t node = word s head ∧ word t head = node ∧ word t (head + 1) = satInc (word s (head + 1)) ∧
        ∀ w, w ≠ node.toNat - 0x8000 → w ≠ head.toNat - 0x8000 → w ≠ (head + 1).toNat - 0x8000 → memRead 0 t.loft w = memRead 0 s.loft w)) ∧
    (f.rt = 0 → free head → free (head + 1) → 5 ≤ s.sbu.act[(actHewer n)].loft →
      s.microWait n (c.reg f.rs).green (loftOf head) = none →
      (word s head = 0 → Completes (.lpop e f) s (fun t =>
        (t.eng e).core = ({ c.put f.rd ⟨0, false⟩ with fl := { c.fl with z := true } } : Core).past true ∧ t.loft = s.loft)) ∧
      (∀ first, word s head = first → 0x8000 ≤ first.toNat → first.toNat < 0x88000 → s.loftOn (first.toNat - 0x8000) = true →
        Completes (.lpop e f) s (fun t =>
          (t.eng e).core = ({ c.put f.rd ⟨first, false⟩ with fl := { c.fl with z := false } } : Core).past true ∧
          word t head = word s first ∧ word t (head + 1) = BitVec.ofNat 20 ((word s (head + 1)).toNat - 1)))) ∧
    (f.rt = 0 → s.lo.tapIn n.val = true → s.microWait n (c.reg f.rs).green none = none →
      Completes (.cfree e f) s (fun t => ∃ m u, State.freeFrames n (c.w[f.rs].toNat % 256) (s.fetched e) = (m, u) ∧
        (t.eng e).core = (({ c.put f.rd ⟨BitVec.ofNat 20 m, false⟩ with fl := { c.fl with z := m == 0 } } : Core).past true) ∧ t.lnd = u.lnd)) ∧
    (f.rt = 0 → s.microWait n (c.reg f.rs).green none = none →
      ∀ (r : GroupRec) (g : Fin 128), g.val = head.toNat → s.lo.grp g.val = some r → r.owner = n.val → r.hostDirect = false → r.req = true →
        s.gal.grp[g].req = false →
        Completes (.pswap e f) s (fun t =>
          (t.eng e).core = (({ c.put f.rd ⟨0, false⟩ with fl := { c.fl with z := true } } : Core).past true) ∧ t.gal.grp[g].req = true)) ∧
    (s.microWait n ((c.reg f.rs).green || (c.reg f.rt).green) none = none → 1 ≤ s.sbu.act[(actHewer n)].loft → s.islandOn 20 = true →
      ∀ k : Fin 64, k.val = head.toNat % 64 → s.sem[k].held = false →
        Completes (.stake e f) s (fun t =>
          t.sem[k] = { held := true, orphan := false, owner := BitVec.ofNat 5 n.val } ∧
          (∀ j : Fin 64, j ≠ k → t.sem[j] = s.sem[j]) ∧
          ∃ v : Word, v.toNat = 2 ^ 19 + 2 ^ 18 * s.sem[k].orphan.toNat + 2 ^ 17 + n.val ∧
            (t.eng e).core = (({ c.put f.rd ⟨v, false⟩ with fl := { c.fl with c := true, v := false } } : Core).past true)) ∧
        (s.sem[k].held = true → s.sem[k].owner ≠ BitVec.ofNat 5 n.val →
          ((s.eng e).tries + 1 < c.w[f.rt].toNat / 4 + 1 → Completes (.stake e f) s (fun t =>
            (t.eng e).stall = some ⟨.stake, .stake e f, 0, none⟩ ∧ (t.eng e).tries = (s.eng e).tries + 1 ∧ (t.eng e).core = c ∧ t.sem = s.sem)) ∧
          (c.w[f.rt].toNat / 4 + 1 ≤ (s.eng e).tries + 1 → Completes (.stake e f) s (fun t =>
            t.sem = s.sem ∧ ∃ v : Word, v.toNat = 2 ^ 19 + 2 ^ 18 * s.sem[k].orphan.toNat + s.sem[k].owner.toNat ∧
              (t.eng e).core = (({ c.put f.rd ⟨v, false⟩ with fl := { c.fl with c := false, v := false } } : Core).past true)))))

/-- The end of a wait (03 R91; 05 R189, R202-R209, R322; 06 R268, R273; 07 R304, R306, R309, R310): its cycles are charged, and where the instruction
no longer waits it is executed as if it had just been reached, with the beats it has paid: LD takes its frame word, verdict or list word, ST enters
the commit queue, releases its semaphore, releases the head frame or pushes its word, PSWAP makes its request. A WAIT with IE = 0 goes on behind it; a
micro-routine whose verdict is bad completes with V = 1 alone; STEP runs one instruction of a halted, unclaimed Hewer, which stays halted. Where the
manual is silent it takes the model's choices of the assumption log, 38, 66, 68, 69. -/
def Obligations.AhfWaitsEnd : Prop :=
  (∀ (s : State) (n : Fin 16) (x : Stall) (a : Ahf) (row : Instr),
    let e : EngineId := .hewer n
    let m := if x.kind = .load then s.moreArrived n 0 else s
    let rerun := ((m.billStall e).modEng e fun y => { y with stall := none, paid := x.paid }).runBody e x.instr a
    (s.eng e).stall = some x → (m.eng e).stall = some x → ahfOf x.instr = some (e, a) → m.executes e = true →
    (m.billStall e).hasCompute e = true → (m.eng e).due = none →
    ((x.kind = .verdictRead ∧ row = .verdictReadStallEnd n) ∨ (x.kind = .store ∧ row = .storeStallEnd n) ∨
      (x.kind = .relDrain ∧ row = .releaseDrainEnd n) ∨ (x.kind = .rxNext ∧ row = .rxNextStallEnd n) ∨
      (x.kind = .push ∧ row = .pushStallEnd n) ∨ (x.kind = .microQueue ∧ row = .microRoutineQueueWaitEnd n) ∨
      (x.kind = .load ∧ row = .loadStallEnd n 0)) →
    (rerun.eng e).stall = none → Completes row s (fun t => t = rerun)) ∧
  (∀ (s : State) (n : Fin 16) (x : Stall) (a : Ahf) (f : Frame) (v : Word),
    let e : EngineId := .hewer n
    s.hw[n].eng.stall = some x → x.kind = .microVerdict → ahfOf x.instr = some (e, a) → s.rxHead n = some f → f.verdict = some v →
    s.executes e = true → (s.billStall e).hasCompute e = true → s.hw[n].eng.due = none →
    let rerun := ((s.billStall e).modEng e fun y => { y with stall := none, paid := x.paid }).runBody e x.instr a
    (v.getLsbD 0 = true → (rerun.eng e).stall = none → Completes (.microRoutineVerdictWaitEnd n) s (fun t => t = rerun)) ∧
    (v.getLsbD 0 = false → Completes (.microRoutineVerdictWaitEnd n) s (fun t =>
      t.hw[n].eng.core = { s.hw[n].eng.core with pc := s.hw[n].eng.core.pc + 2, fl := ⟨false, false, false, true, false⟩ } ∧
      t.hw[n].eng.stall = none ∧ SameDevice s t))) ∧
  (∀ (s : State) (n : Fin 16) (x : Stall) (a : Ahf),
    let e : EngineId := .hewer n
    s.hw[n].eng.stall = some x → x.kind = .listHold → ahfOf x.instr = some (e, a) → s.executes e = true →
    (s.billStall e).hasCompute e = true → s.hw[n].eng.due = none → s.wdn.eng.stall = none →
    let rerun := ((s.billStall e).modEng e fun y => { y with stall := none, paid := x.paid }).runBody e x.instr a
    (rerun.eng e).stall = none → rerun.wdn.eng.stall = none → Completes (.listHoldEnd n) s (fun t => t = rerun)) ∧
  (∀ (s : State) (e : EngineId) (x : Stall) (v : Fin 32), (s.eng e).stall = some x → x.kind = .wait → s.executes e = true →
    s.hasCompute e = true → (s.eng e).dueAny = some v →
    ((s.eng e).core.ie = false → Completes (.waitEnd e) s (fun t =>
      (t.eng e).core = (s.eng e).core.past false ∧ (t.eng e).stall = none ∧ SameDevice s t)) ∧
    ((s.eng e).core.ie = true → Completes (.waitEnd e) s (fun t => t = s.interrupt e v))) ∧
  (∀ (s : State) (n : Fin 16) (f : MemForm) (p : Nat),
    let e : EngineId := .hewer n
    let c := s.hw[n].eng.core
    let a := s.eaOf e f
    let v := c.reg f.reg
    let u := (s.billStall e).unstalled e p
    let long := MemForm.isLong f
    let loaded (v : TWord) (t : State) : Prop := t.hw[n].eng.core = (c.put f.reg v).past long ∧ t.hw[n].eng.stall = none
    let stores (t : State) : Prop := t.hw[n].eng.core = c.past long ∧ t.hw[n].eng.stall = none
    (∀ h w, s.Waits n .verdictRead (.ld e f) p long → a = 0xC9801 → s.lo.tapIn n.val = true → s.rxHead n = some h → h.verdict = some w →
      Completes (.verdictReadStallEnd n) s (fun t => loaded ⟨w, false⟩ t ∧ t.lnd = s.lnd)) ∧
    (∀ (k i : Nat) (h : Frame), s.Waits n .load (.ld e f) p long →
      let m := s.moreArrived n k
      m.Waits n .load (.ld e f) p long → m.hw[n].eng.core = c → a.toNat = 0xC8000 + i → i < h.arrived → i < 0x1800 →
      m.lo.tapIn n.val = true → m.rxHead n = some h →
      Completes (.loadStallEnd n k) s (fun t => loaded ⟨h.rxWord i, h.verdict.isNone⟩ t ∧ t.lnd = m.lnd)) ∧
    (∀ w, s.Waits n .store (.st e f) p long → a.toNat = 0x8000 + w → w < 0x80000 → loftAllowed s.lo n w = true → s.loftHeld w = false →
      s.hw[n].cq ≠ [] → s.hw[n].cq.length < 16 → 1 ≤ s.sbu.act[(actHewer n)].loft →
      Completes (.storeStallEnd n) s (fun t => stores t ∧ t.loft = s.loft ∧ ∃ x : CqEntry, t.hw[n].cq = s.hw[n].cq ++ [x] ∧ x.addr = a ∧ x.val = v.val ∧
        x.green = (v.green || c.ctlG))) ∧
    (∀ k : Fin 64, s.Waits n .relDrain (.st e f) p long → a.toNat = 0xE0440 + k.val → s.hw[n].cq = [] → 1 ≤ s.sbu.act[(actHewer n)].loft →
      s.sem[k].held = true → s.sem[k].owner = BitVec.ofNat 5 n.val →
      Completes (.releaseDrainEnd n) s (fun t => stores t ∧ t.sem[k].held = false ∧ ∀ j : Fin 64, j ≠ k → t.sem[j] = s.sem[j])) ∧
    (∀ h, s.Waits n .rxNext (.st e f) p long → a = 0xC9808 → s.lo.tapIn n.val = true → s.rxHead n = some h → h.verdict.isSome = true →
      Completes (.rxNextStallEnd n) s (fun t => stores t ∧ t.lnd = (u.releaseHead n).lnd)) ∧
    (∀ w, s.Waits n .push (.st e f) p long → a = 0xCA003 → s.lo.tapOut n.val = true → u.txPush e v.val (v.green || c.ctlG) = .ok () w →
      Completes (.pushStallEnd n) s (fun t => stores t ∧ t.lnd = w.lnd ∧ t.hw[n].tx = w.hw[n].tx)) ∧
    (∀ w, s.Waits n .listHold (.ld e f) p long → a.toNat = 0x8000 + w → w < 0x80000 → s.loftHeld w = false → s.loftOn w = true →
      s.hw[n].queued a = none → 1 ≤ s.sbu.act[(actHewer n)].loft → s.wdn.eng.stall = none →
      Completes (.listHoldEnd n) s (fun t => loaded ⟨memRead 0 s.loft w, false⟩ t ∧ t.loft = s.loft))) ∧
  (∀ (s : State) (n : Fin 16) (f : L3) (p : Nat) (r : GroupRec) (g : Fin 128),
    let e : EngineId := .hewer n
    let c := s.hw[n].eng.core
    f.z = 0 → f.aux = 0 → f.rt = 0 → c.ctlG = false → (c.reg f.rs).green = false → s.hw[n].cq = [] →
    g.val = c.w[f.rs].toNat → s.lo.grp g.val = some r → r.owner = n.val → r.hostDirect = false → r.req = true → s.gal.grp[g].req = false →
    let swaps (t : State) : Prop := t.gal.grp[g].req = true ∧ t.hw[n].eng.stall = none ∧
      t.hw[n].eng.core = (({ c.put f.rd ⟨0, false⟩ with fl := { c.fl with z := true } } : Core).past true)
    (s.Waits n .microQueue (.pswap e f) p true → Completes (.microRoutineQueueWaitEnd n) s swaps) ∧
    (∀ h v, s.Waits n .microVerdict (.pswap e f) p true → s.rxHead n = some h → h.verdict = some v → v.getLsbD 0 = true →
      Completes (.microRoutineVerdictWaitEnd n) s swaps)) ∧
  (∀ (s : State) (a : Agent) (n : Fin 16), s.reaches a = true → s.ctrlResult n = 0 → s.hw[n].st = .halted →
    (s.debugOpen a n = true → s.claimed (4 + n.val) = false → s.fetchFault (.hewer n) false = none →
      (s.hw[n].fetchWord s.hw[n].eng.core.pc.toNat).val = 0x40000 → Completes (.hewerStep a n) s (fun t =>
        t.hw[n].eng.core = s.hw[n].eng.core.past false ∧ t.hw[n].st = .halted ∧ t.hw[n].regs.result = 0)) ∧
    ((s.debugOpen a n = false ∨ s.claimed (4 + n.val) = true) → Completes (.hewerStep a n) s (fun t =>
      t.hw[n].eng.core = s.hw[n].eng.core ∧ t.hw[n].st = .halted ∧ t.hw[n].regs.result = 2)))

/-- An engine's accesses to taps, semaphores, coding tables and EVT_RAISE that have commands of their own (05 R193, R196-R198, R204-R208; 09 R374); of
takes that meet in one core cycle the Warden's, then the lowest Hewer's, comes first. Where the manual is silent it takes the model's choices of the
assumption log, 77, 82, 141, 164. -/
def Obligations.EngineAccesses : Prop :=
  (∀ (s : State) (n : Fin 16), s.ready (.hewer n) = true →
    let e : EngineId := .hewer n
    (s.lo.tapOut n.val = true →
      (∀ (i : Fin 3) (v : Word), s.hw[n].tx.building = none → Completes (.txDescWrite e i v) s (fun t => t.hw[n].tx.desc[i] = v)) ∧
      (∀ id, s.hw[n].tx.building = some id → Completes (.txAbort e) s (fun t => t.hw[n].tx.building = none)) ∧
      Completes (.txTsqRead e) s (fun t =>
        t.rd = [(s.hw[n].tx.tsq.headD 0xB0000).setWidth 32] ∧ t.hw[n].tx.tsq = s.hw[n].tx.tsq.tail) ∧
      (∀ (v : Word) (g : Bool) (u : State), s.txPush e v (g || s.hw[n].eng.core.ctlG) = .ok () u →
        Completes (.txPush e v g) s (fun t => t.lnd = u.lnd ∧ t.hw[n].tx = u.hw[n].tx))) ∧
    (∀ (f : Frame) (v : Word), s.lo.tapIn n.val = true → s.rxHead n = some f → f.verdict = some v →
      Completes (.rxNext e) s (fun t => t.lnd = (s.releaseHead n).lnd)) ∧
    (∀ k : Fin 64, s.islandOn 20 = true → 1 ≤ s.sbu.act[(actHewer n)].loft →
      (s.sem[k].held = false → Completes (.semTake e k) s (fun t =>
        t.sem[k] = { held := true, orphan := false, owner := BitVec.ofNat 5 n.val } ∧ ∀ j : Fin 64, j ≠ k → t.sem[j] = s.sem[j])) ∧
      (s.sem[k].held = true → Completes (.semTake e k) s (fun t =>
        t.sem = s.sem ∧ t.rd = [BitVec.ofNat 32 (2 ^ 19 + 2 ^ 18 * s.sem[k].orphan.toNat + s.sem[k].owner.toNat)])) ∧
      (s.hw[n].cq = [] → s.sem[k].held = true → s.sem[k].owner = BitVec.ofNat 5 n.val →
        Completes (.semRelease e k) s (fun t => t.sem[k].held = false ∧ ∀ j : Fin 64, j ≠ k → t.sem[j] = s.sem[j]))) ∧
    Completes (.pvcDataRead n) s (fun t =>
      t.rd = [(s.lo.pvcWord s.hw[n].hio.pvcTable.toNat s.hw[n].hio.pvcIndex.toNat).setWidth 32] ∧
      t.hw[n].hio.pvcIndex = s.hw[n].hio.pvcIndex + 1)) ∧
  (∀ (s : State) (id : BitVec 7), s.awake = true →
    (id.toNat < 112 ∨ 114 < id.toNat → Completes (.evtRaise .warden id) s (fun t => t.evt.status.getLsbD id.toNat = true)) ∧
    (∀ n : Fin 16, Completes (.evtRaise (.hewer n) 39) s (fun t => t.evt.status.getLsbD 39 = true))) ∧
  (∀ (s : State) (f : Frame), s.awake = true → s.wardenHead = some f → Completes (.rxNext .warden) s (fun t => t = s.releaseWarden)) ∧
  (∀ (s : State) (k : Fin 64), s.awake = true → 1 ≤ s.sbu.act[actWarden].loft → s.sem[k].held = true → s.sem[k].owner = 16 →
    Completes (.semRelease .warden k) s (fun t => t.sem[k].held = false ∧ (∀ j : Fin 64, j ≠ k → t.sem[j] = s.sem[j]) ∧
      t.sbu.act[actWarden].loft = s.sbu.act[actWarden].loft - 1)) ∧
  (∀ (s : State) (k : Fin 64) (m n : Fin 16), s.pending = [] → n.val < m.val → s.ready (.hewer n) = true → s.islandOn 20 = true →
    1 ≤ s.sbu.act[(actHewer n)].loft → s.sem[k].held = false →
    ∃ t u, step (s.meet [.semTake (.hewer m) k, .semTake (.hewer n) k]) = .next t ∧ step t = .next u ∧
      t.sem[k] = { held := true, orphan := false, owner := BitVec.ofNat 5 n.val } ∧ u.sem[k] = t.sem[k]) ∧
  (∀ (s : State) (n : Fin 16) (f g : L3),
    (s.meet [.stake (.hewer n) f, .stake .warden g]).pending = s.pending ++ [.stake .warden g, .stake (.hewer n) f]) ∧
  (∀ (s : State) (cs : List Instr), (∀ c ∈ cs, resetOf c = none) →
    ∃ q, (s.meet cs).pending = s.pending ++ q ∧ q.Perm cs ∧ q.Pairwise fun c d => rank c ≤ rank d)

/-! Treads. -/

/-- Instructions of a running Tread that end at their tick (15 R566-R569): registers, flags, shift registers, slots, the offset and the ticks. The
FIFO levels sensed (R564) are left aside. Where the manual is silent it takes the model's choices of the assumption log, 87. -/
def Obligations.TreadInstructions : Prop :=
  ∀ (s : State) (t : Fin 32), s.trd.tread[t].st = .running → s.FlightRuns (flightOf t) →
    let x := s.trd.tread[t]
    let L := s.lo
    let on := L.nextOffset t.val x.pc
    let now := s.toTreadCycle (s.tickCycle t)
    let is (d : Tread) (u : State) : Prop :=
      { u.trd.tread[t] with lvlCyc := 0, txAt := 0, rxAt := 0 } = { d with wait := none, lvlCyc := 0, txAt := 0, rxAt := 0 } ∧
        u.loft = s.loft ∧ u.gal = s.gal ∧
        ∀ j : Fin 32, j ≠ t → u.trd.tread[j] = s.trd.tread[j]
    let one (d : Tread) : State → Prop := is { d with pc := on, ticks := x.ticks + 1 }
    (∀ n : BitVec 10, Completes (.pause t n) s (is { x with pc := on, ticks := x.ticks + (n.toNat + 1) })) ∧
    (∀ data : BitVec 8,
      let set (m v old : BitVec 8) : BitVec 8 := (old &&& ~~~(m &&& L.slotMask t)) ||| (v &&& (m &&& L.slotMask t))
      Completes (.put t 0 data) s (one { x with latch := set (L.putMask t.val) data x.latch }) ∧
      Completes (.put t 1 data) s (one { x with dir := set (L.putMask t.val) data x.dir }) ∧
      Completes (.put t 2 data) s (one { x with latch := set (L.putMask t.val &&& data) (~~~x.latch) x.latch })) ∧
    (∀ (n : BitVec 5) (pins : BitVec 8), 1 ≤ n.toNat → n.toNat ≤ 20 → (L.autoDrain t.val = false ∨ x.icnt + n.toNat < L.inWidth t.val) →
      let si (v : Word) : Tread := { x with si := gatherIn (L.inDir t.val) x.si v n.toNat, icnt := min 20 (x.icnt + n.toNat) }
      Completes (.gather t 0 n pins) s (one (si (gatherPins (L.gatherBase t.val) (pins &&& L.slotMask t)))) ∧
      Completes (.gather t 1 n pins) s (one (si x.x)) ∧ Completes (.gather t 2 n pins) s (one (si x.y)) ∧
      Completes (.gather t 3 n pins) s (one (si 0))) ∧
    (∀ n : BitVec 5, 1 ≤ n.toNat → n.toNat ≤ 20 → L.autoFeed t.val = false →
      let d := scatterOut (L.outDir t.val) x.so n.toNat 20
      let so : Tread := { x with so := d.2, ocnt := min 20 (x.ocnt + n.toNat) }
      Completes (.scatter t 1 n) s (one { so with x := d.1 }) ∧ Completes (.scatter t 2 n) s (one { so with y := d.1 }) ∧
      Completes (.scatter t 3 n) s (one so) ∧
      Completes (.scatter t 0 n) s (fun u => one { so with latch := u.trd.tread[t].latch } u ∧ ∀ i : Nat, i < 8 →
        let k := (L.scatterBase t.val + i) % 8
        u.trd.tread[t].latch.getLsbD k = if i < n.toNat ∧ (L.slotMask t).getLsbD k = true then d.1.getLsbD i else x.latch.getLsbD k)) ∧
    (∀ imm : BitVec 9,
      Completes (.ldi t false imm) s (one { x with x := BitVec.ofNat 20 imm.toNat }) ∧
      Completes (.ldi t true imm) s (one { x with y := BitVec.ofNat 20 imm.toNat }) ∧
      Completes (.treadCmp t true imm) s (one { x with z := decide (x.x.toNat = imm.toNat), c := decide (x.x.toNat < imm.toNat) })) ∧
    Completes (.treadCmp t false 0) s (one { x with z := decide (x.x = x.y), c := decide (x.x.toNat < x.y.toNat) }) ∧
    Completes (.cnt t 0) s (one { x with x := x.x - 1, z := decide (x.x.toNat = 1), c := decide (x.x.toNat = 0) }) ∧
    Completes (.cnt t 1) s (one { x with y := x.y - 1, z := decide (x.y.toNat = 1), c := decide (x.y.toNat = 0) }) ∧
    Completes (.cnt t 2) s (one { x with x := x.x + 1, z := decide (x.x.toNat = 2 ^ 20 - 1), c := decide (x.x.toNat = 2 ^ 20 - 1) }) ∧
    Completes (.cnt t 3) s (one { x with y := x.y + 1, z := decide (x.y.toNat = 2 ^ 20 - 1), c := decide (x.y.toNat = 2 ^ 20 - 1) }) ∧
    (∀ (src : BitVec 3) (opn : BitVec 2) (pins : BitVec 8) (v : Word), opn ≠ 3 →
      ((src = 0 ∧ v = x.x) ∨ (src = 1 ∧ v = x.y) ∨ (src = 2 ∧ v = x.si) ∨ (src = 3 ∧ v = x.so) ∨
        (src = 4 ∧ v = (pins &&& L.slotMask t).setWidth 20) ∨ (src = 7 ∧ v = 0) ∨ (src = 6 ∧ v = now.treadTime) ∨
        (src = 5 ∧ v = now.treadStatus (x.sense (s.tickCycle t)))) →
      let w : Word := if opn = 0 then v else if opn = 1 then ~~~v else v.reverse
      let b : BitVec 8 := w.setWidth 8
      Completes (.copy t 0 src opn pins) s (one { x with x := w }) ∧ Completes (.copy t 1 src opn pins) s (one { x with y := w }) ∧
      Completes (.copy t 2 src opn pins) s (one { x with si := w, icnt := 0 }) ∧
      Completes (.copy t 3 src opn pins) s (one { x with so := w, ocnt := 0 }) ∧
      Completes (.copy t 4 src opn pins) s (one { x with latch := (x.latch &&& ~~~L.slotMask t) ||| (b &&& L.slotMask t) }) ∧
      Completes (.copy t 5 src opn pins) s (one { x with dir := (x.dir &&& ~~~L.slotMask t) ||| (b &&& L.slotMask t) }) ∧
      Completes (.copy t 6 src opn pins) s (is { x with pc := b, ticks := x.ticks + 1 })) ∧
    (∀ (cond : BitVec 4) (rel : BitVec 6) (pins : BitVec 8), cond.toNat < 12 →
      let taken := (s.modTread t (·.sense (s.tickCycle t))).treadCond t pins cond
      Completes (.br t cond rel pins) s (is { x with pc := if taken then x.pc + BitVec.ofInt 8 rel.toInt else on, ticks := x.ticks + 1 })) ∧
    (∀ addr : BitVec 8, Completes (.jump t 0 addr) s (is { x with pc := addr, ticks := x.ticks + 1 })) ∧
    Completes (.jump t 1 0) s (is { x with pc := x.x.setWidth 8, ticks := x.ticks + 1 }) ∧
    Completes (.treadYield t) s (one { x with yielded := true })

/-- Waiting instructions, FIFO words, flags and SIGNAL of a running Tread (15 R565, R567-R571, R584), and the end of a wait; without compute a flight
executes nothing (03 R100). Where the manual is silent it takes the model's choices of the assumption log, 87. -/
def Obligations.TreadWaitsAndFlags : Prop :=
  (∀ (s : State) (t : Fin 32), s.trd.tread[t].st = .running → s.FlightRuns (flightOf t) →
    let x := s.trd.tread[t]
    let L := s.lo
    let f := flightOf t
    let lv := x.sense (s.tickCycle t)
    (∀ (idx : Fin 8) (pol : Bool) (pins : BitVec 8),
      ((pins &&& L.slotMask t).getLsbD idx.val = pol → Completes (.hold t 0 pol idx pins) s (fun u =>
        u.trd.tread[t].st = .running ∧ u.trd.tread[t].pc = L.nextOffset t.val x.pc)) ∧
      ((pins &&& L.slotMask t).getLsbD idx.val ≠ pol → Completes (.hold t 0 pol idx pins) s (fun u =>
        u.trd.tread[t].st = .waiting ∧ u.trd.tread[t].wait = some (.hold 0 pol idx) ∧ u.trd.tread[t].pc = x.pc))) ∧
    (∀ (reg adv lapq : Bool), (lapq = true → reg = false ∧ adv = false) →
      Completes (.atTime t reg adv lapq) s (fun u =>
        u.trd.tread[t].st = .waiting ∧ u.trd.tread[t].wait = some (.at_ reg adv lapq) ∧ u.trd.tread[t].pc = x.pc)) ∧
    (∀ (once : Bool) (v : Word) (q : List Word), x.tx = v :: q → 0 < lv.txAt →
      Completes (.feedTake t once false true) s (fun u => u.trd.tread[t].x = v ∧ u.trd.tread[t].tx = q ∧ u.trd.tread[t].so = x.so) ∧
      Completes (.feedTake t once false false) s (fun u =>
        u.trd.tread[t].so = (if L.outDir t.val then v else v <<< (20 - L.outWidth t.val)) ∧ u.trd.tread[t].ocnt = 0 ∧ u.trd.tread[t].tx = q)) ∧
    (∀ once : Bool, x.rx.length < 8 → lv.rxAt < 8 →
      Completes (.feedGive t once false) s (fun u =>
        u.trd.tread[t].rx = x.rx ++ [if L.inDir t.val then x.si >>> (20 - x.icnt) else x.si] ∧ u.trd.tread[t].si = 0 ∧ u.trd.tread[t].icnt = 0)) ∧
    (∀ (n : BitVec 5) (pins : BitVec 8), 1 ≤ n.toNat → n.toNat ≤ 20 →
      (L.autoFeed t.val = true → L.outWidth t.val ≤ x.ocnt →
        (∀ (v : Word) (q : List Word), x.tx = v :: q → 0 < lv.txAt →
          let d := scatterOut (L.outDir t.val) (if L.outDir t.val then v else v <<< (20 - L.outWidth t.val)) n.toNat (L.outWidth t.val)
          Completes (.scatter t 1 n) s (fun u => u.trd.tread[t].x = d.1 ∧ u.trd.tread[t].so = d.2 ∧ u.trd.tread[t].ocnt = n.toNat ∧
            u.trd.tread[t].tx = q ∧ u.trd.tread[t].pc = L.nextOffset t.val x.pc)) ∧
        (x.tx = [] → Completes (.scatter t 1 n) s (fun u => u.trd.tread[t].st = .waiting ∧ u.trd.tread[t].wait = some (.feed 1 n) ∧
          u.trd.tread[t].so = x.so ∧ u.trd.tread[t].pc = x.pc))) ∧
      (let k := min 20 (x.icnt + n.toNat)
       let si := gatherIn (L.inDir t.val) x.si x.x n.toNat
       L.autoDrain t.val = true → L.inWidth t.val ≤ k →
        (x.rx.length < 8 → lv.rxAt < 8 → Completes (.gather t 1 n pins) s (fun u =>
          u.trd.tread[t].rx = x.rx ++ [if L.inDir t.val then si >>> (20 - k) else si] ∧ u.trd.tread[t].si = 0 ∧ u.trd.tread[t].icnt = 0 ∧
          u.trd.tread[t].pc = L.nextOffset t.val x.pc)) ∧
        (8 ≤ x.rx.length → Completes (.gather t 1 n pins) s (fun u => u.trd.tread[t].st = .waiting ∧ u.trd.tread[t].wait = some .drain ∧
          u.trd.tread[t].si = si ∧ u.trd.tread[t].pc = x.pc)))) ∧
    (∀ i : Fin 8,
      Completes (.fset t i) s (fun u => u.trd.flight[f].flags = s.trd.flight[f].flags ||| BitVec.ofNat 8 (2 ^ i.val)) ∧
      (s.trd.flight[f].setAt[i] ≠ some (s.tickCycle t) →
        Completes (.fclr t i) s (fun u => u.trd.flight[f].flags = s.trd.flight[f].flags &&& ~~~BitVec.ofNat 8 (2 ^ i.val)))) ∧
    Completes (.signal t) s (fun u => u.evt.status.getLsbD (96 + f.val) = true ∧ u.trd.tread[t].pc = L.nextOffset t.val x.pc)) ∧
  (∀ (s : State) (t : Fin 32) (n : BitVec 10), s.tb.stroke.running = true → s.sbu.act[(actFlight (flightOf t))].cpu = 0 →
    exec (.pause t n) s = .next s ∧ exec (.atMatch t) s = .next s ∧ exec (.signal t) s = .next s) ∧
  (∀ (s : State) (t : Fin 32), s.trd.tread[t].st = .waiting → s.FlightRuns (flightOf t) →
    let x := s.trd.tread[t]
    let on := s.lo.nextOffset t.val x.pc
    (∀ (pol : Bool) (idx : Fin 8) (pins : BitVec 8), x.wait = some (.hold 0 pol idx) → (pins &&& s.lo.slotMask t).getLsbD idx.val = pol →
      Completes (.treadWaitEnd t pins) s (fun u => u.trd.tread[t].st = .running ∧ u.trd.tread[t].wait = none ∧ u.trd.tread[t].pc = on)) ∧
    (∀ (reg adv lapq : Bool), x.wait = some (.at_ reg adv lapq) →
      let m := s.atDue x reg lapq
      s.InStroke (s.tb.stroke.cyc0 + 2 * m) →
      Completes (.atMatch t) s (fun u =>
        u.trd.tread[t].st = .running ∧ u.trd.tread[t].wait = none ∧ u.trd.tread[t].pc = on ∧ u.trd.tread[t].c0 = s.trd.base + m ∧
        u.trd.tread[t].ticks = 0 ∧
        u.trd.tread[t].x = (if adv && !reg then x.x + x.y else x.x) ∧ u.trd.tread[t].y = (if adv && reg then x.y + x.x else x.y)))) ∧
  (∀ s : State,
    let k := s.tb.stroke.cyc0 + 2 ^ 21 * ((s.tb.clk.cycles - s.tb.stroke.cyc0) / 2 ^ 21 + 1)
    s.InStroke k →
    Completes .treadTimeWrap s (fun u => u.treadTime = 0 ∧ u.treadLap = s.treadLap + 1 ∧ u.evt = s.evt))

/-- Commands of Treads and flights (15 R552, R564, R565, R572, R575-R578): starts, clock restarts, FIFO accesses by their owner, halt, resume and
reset with their results. Where the manual is silent it takes the model's choices of the assumption log, 85, 148, 169. -/
def Obligations.FlightCommands : Prop :=
  (∀ (s : State) (a : Agent) (f : Fin 4) (mask : BitVec 8), s.heard a (32 + f.val) = true → s.ownsAll a f mask = true →
    ((∃ i : Fin 8, s.trd.tread[(treadOf f i)].st = .stopped) → Completes (.flightStart a f mask) s (fun u => u.trd = s.trd)) ∧
    (s.lo.flightPresent f.val = true → s.flightOn f = true → (∀ i : Fin 8, s.trd.tread[(treadOf f i)].st ≠ .stopped) →
      Completes (.flightStart a f mask) s (fun u => ∀ i : Fin 8, mask.getLsbD i.val = true →
        let x := s.trd.tread[(treadOf f i)]
        let y := u.trd.tread[(treadOf f i)]
        y.st = (if x.st = .parked ∨ x.st = .halted then x.st else .running) ∧ y.pc = s.lo.trdStart (treadOf f i).val ∧ y.x = 0 ∧ y.y = 0 ∧
        y.si = 0 ∧ y.icnt = 0 ∧ y.ocnt = s.lo.outWidth (treadOf f i).val ∧ y.z = false ∧ y.c = false ∧ y.ticks = 0 ∧ y.wait = none ∧
        y.tx = x.tx ∧ y.rx = x.rx)) ∧
    Completes (.clockRestart a f mask) s (fun u => ∀ i : Fin 8,
      u.trd.tread[(treadOf f i)] = if mask.getLsbD i.val then { s.trd.tread[(treadOf f i)] with ticks := 0, c0 := s.trdNow }
        else s.trd.tread[(treadOf f i)])) ∧
  (∀ (s : State) (a : Agent) (t : Fin 32), s.heard a (32 + (flightOf t).val) = true → s.lo.treadOwnerCode t = agentCode a →
    let x := s.trd.tread[t]
    let lv := x.sense s.trdNow
    Completes (.flushRx a t) s (fun u => u.trd.tread[t].rx = [] ∧ u.trd.tread[t].tx = x.tx) ∧
    Completes (.flushTx a t) s (fun u => u.trd.tread[t].tx = [] ∧ u.trd.tread[t].rx = x.rx) ∧
    (∀ v : Word, lv.txAt < 8 → x.tx.length < 8 → Completes (.txfPush a t v) s (fun u => u.trd.tread[t].tx = x.tx ++ [v])) ∧
    (∀ (v : Word) (q : List Word), x.rx = v :: q → 0 < lv.rxAt →
      Completes (.rxfPop a t) s (fun u => u.rd = [v.setWidth 32] ∧ u.trd.tread[t].rx = q))) ∧
  (∀ (s : State) (a : Agent) (f : Fin 4), s.reaches a = true →
    let x := s.trd.flight[f]
    Completes (.programDataRead a f) s (fun u =>
      u.rd = [((if x.plane then s.lay.shadow.getD Layout.blank else s.lo).prog f.val x.index.toNat).toNat % 2 ^ 14].map (BitVec.ofNat 32) ∧
      u.trd.flight[f].index = x.index + 1) ∧
    (s.flightResult f false = 0 →
      Completes (.flightHalt a f) s (fun u => u.trd.flight[f].result = 0 ∧ ∀ i : Fin 8, u.trd.tread[(treadOf f i)].st = .halted) ∧
      Completes (.flightReset a f) s (fun u => u.trd.flight[f].result = 0 ∧ u.trd.flight[f].resetting = true ∧ u.trd.flight[f].resetCyc = u.tb.clk.cycles ∧
        u.trd.flight[f].flags = 0 ∧
        ∀ i : Fin 8, u.trd.tread[(treadOf f i)].st = .stopped ∧ u.trd.tread[(treadOf f i)].tx = [] ∧ u.trd.tread[(treadOf f i)].rx = [])) ∧
    (s.flightResult f true = 0 →
      Completes (.flightResume a f) s (fun u => u.trd.flight[f].result = 0 ∧ ∀ i : Fin 8, s.trd.tread[(treadOf f i)].st = .halted →
        u.trd.tread[(treadOf f i)].st = if s.sbu.act[(actFlight f)].parked then .parked else s.trd.tread[(treadOf f i)].prev)) ∧
    (s.flightResult f false = 1 → Completes (.flightHalt a f) s (fun u => u.trd.flight[f].result = 1 ∧ u.trd.tread = s.trd.tread))) ∧
  (∀ (s : State) (f : Fin 4), s.trd.flight[f].resetting = true → s.lo.flightPresent f.val = true → s.flightOn f = true →
    s.Before (s.trd.flight[f].resetCyc + 1000) →
    Completes (.flightResetEnd f) s (fun u => u.trd.flight[f].resetting = false ∧ ∀ i : Fin 8, s.trd.tread[(treadOf f i)].st = .stopped →
      u.trd.tread[(treadOf f i)].st = if (s.lo.startSet f.val).getLsbD i.val then .running else .idle))

/-- A running Tread that meets an encoding which 15 R568 reserves stops the model; no staged program holds one (R561). Where the manual is silent it
takes the model's choices of the assumption log, 86. -/
def Obligations.TreadReservedEncodingsStop : Prop :=
  ∀ (s : State) (t : Fin 32), s.trd.tread[t].st = .running → s.flightOn (flightOf t) = true →
    let stops (i : Instr) : Prop := exec i s = .fault .reservedEncoding
    (∀ data, stops (.put t 3 data)) ∧ (∀ src pins, stops (.gather t src 0 pins)) ∧ (∀ dst, stops (.scatter t dst 0)) ∧
    (∀ (n : BitVec 5) src pins, 20 < n.toNat → stops (.gather t src n pins) ∧ stops (.scatter t src n)) ∧
    (∀ (cond : BitVec 4) rel pins, 12 ≤ cond.toNat → stops (.br t cond rel pins)) ∧
    (∀ (mode : BitVec 2) addr, 2 ≤ mode.toNat → stops (.jump t mode addr)) ∧
    (∀ src opn pins, stops (.copy t 7 src opn pins)) ∧ (∀ dst src pins, stops (.copy t dst src 3 pins))

/-! The queue, reset and memory. -/

/-- A step takes the command at the front of the queue and runs it with the queue's rest; with nothing waiting one core cycle passes (log 4), and the
clock of a device that is held, Off or in Deep stands still. Where the manual is silent it takes the model's choices of the assumption log, 4. -/
def Obligations.StepRunsTheFrontCommand : Prop :=
  (∀ (c : Instr) (q : List Instr) (s : State), step { s with pending := c :: q } = exec c { s with pending := q }) ∧
  (∀ s : State, s.pending = [] →
    ((s.pwr.held.isSome || s.pwr.off || s.pwr.clockHold) = true → step s = .next s) ∧
    ((s.pwr.held.isSome || s.pwr.off || s.pwr.clockHold) = false → s.tb.clk.slew = 0 → 0 ≤ 2 ^ 40 + s.tb.clk.trim → ∃ t, step s = .next t ∧
      t.tb.clk.cycles = s.tb.clk.cycles + 1 ∧ (t.tb.clk.now : Int) = (s.tb.clk.now + (2 ^ 40 + s.tb.clk.trim)) % timeMod ∧
      t.tb.clk.slew = 0 ∧ t = { s with tb := { s.tb with clk := t.tb.clk } }))

/-- What the device holds after the reset the model starts from, by the Reset columns of the chapters. Where the manual is silent it takes the model's
choices of the assumption log, 1 to 3, 6 to 11. -/
def Obligations.ResetValues : Prop :=
  let r := State.reset
  r.pending = [] ∧ r.lay.active = none ∧ r.lay.shadow = none ∧ r.tb.stroke.count = 0 ∧ r.tb.stroke.running = false ∧
  r.tb.sync.st = .unsynced ∧ r.tb.clk.trim = 0 ∧ r.tb.regs.holdMs = 1000 ∧ r.tb.regs.limit = 1000 ∧ r.tb.regs.lateWin = 4 ∧
  (∀ n : Fin 16, r.tb.sched[n].st = .idle ∧ r.hw[n].st = .absent ∧ r.hw[n].cq = [] ∧ r.hw[n].bankA = [] ∧ r.hw[n].bankB = []) ∧
  (∀ k : Fin 64, r.sem[k].held = false ∧ r.sem[k].orphan = false) ∧
  (∀ e : EventId, bit r.evt.status e.val = false ∧ r.evt.count[e] = 0) ∧
  (∀ c : Fin 168, r.chu.chan[c].st = .empty) ∧
  (∀ i : Fin 96, r.pins.use[i] = .hiZ) ∧
  r.loft = [] ∧ r.gal.mem = [] ∧ r.lnd.frames = [] ∧ r.lnd.low = 1024 ∧ r.lnd.min = 16384 ∧
  (∀ c : Fin 4, r.can[c].st = .errorActive ∧ r.can[c].mode = 0x400) ∧ (∀ t : Fin 32, r.trd.tread[t].st = .idle)

/-- Every command that the surroundings can give runs to its end in a next state: no ordinary data stops the device. Where the manual is silent it
takes the model's choices of the assumption log, 14. -/
def Obligations.WellFormedCommandsComplete : Prop :=
  ∀ (c : Instr) (s : State), WellFormed c → Completes c s fun _ => True

/-- Whatever a command does, the commands behind it keep their places. -/
def Obligations.CommandsLeaveTheQueue : Prop :=
  ∀ (c : Instr) (s t : State), exec c s = .next t → t.pending = s.pending

/-- The Loft keeps its canonical form under every step, and no step makes a waiting command ill-formed. -/
def Obligations.StepsKeepTheInvariant : Prop :=
  ∀ s t : State, s.LoftOk → s.PendingOk → step s = .next t → t.LoftOk ∧ t.PendingOk

/-- After reset the Loft is canonical and reads 0 everywhere; nothing waits. Where the manual is silent it takes the model's choices of the assumption
log, 1, 11. -/
def Obligations.ResetMeetsTheInvariant : Prop :=
  State.reset.LoftOk ∧ State.reset.PendingOk ∧ ∀ w, w < 524288 → memRead (0 : Word) State.reset.loft w = 0

/-! Time and the scheduler. -/

/-- Writes of the time owner (02 R32, R34, R46, R50-R54, R59, R85, R86): the trim saturates at 2^30 units, an adjustment is slewed up to 1 µs and
stepped beyond, a set is a step, a measurement is kept; each takes the lower words held for no more than 1 µs, which are then discarded. A step in the
core cycle of a boundary applies in the following one. Anyone else's write is counted and changes nothing else. -/
def Obligations.TimeOwnerWrites : Prop :=
  (∀ (s : State) (a : Agent), s.heard a 54 = true → agentCode a = s.lo.owner →
    let b := s.tb
    let word (h : Option HeldWord) (v : Word) : Word := match h with
      | some x => if b.clk.cycles ≤ x.cyc + 500 then x.w else v
      | none => v
    let stepped (q : Nat) (t : State) : Prop :=
      t.qns = q ∧ t.tb.clk.slew = 0 ∧ t.tb.regs.steps = satInc b.regs.steps ∧ t.evt.status.getLsbD 1 = true
    let queued (q : Nat) (t : State) : Prop :=
      (b.regs.stepq.length < 8 → t.tb.regs.stepq = b.regs.stepq ++ [(time80 s.qns, time80 q)]) ∧
      (8 ≤ b.regs.stepq.length → t.tb.regs.stepq = b.regs.stepq ∧ t.tb.regs.stepLost = satInc b.regs.stepLost)
    (∀ hi : Word,
      let v : BitVec 40 := hi ++ word b.held.rate (fld (BitVec.ofInt 40 b.clk.trim) 0 20)
      Completes (.rateTrimWrite a hi) s (fun t =>
        t.tb = { b with clk := { b.clk with trim := max (-2 ^ 30) (min (2 ^ 30) v.toInt) }, held := { b.held with rate := none } })) ∧
    (∀ hi : Word,
      let v := (hi ++ word b.held.adj 0 : BitVec 40).toInt
      let x := v * 2 ^ 37 + b.clk.slew
      let q := (((b.clk.now : Int) + x) % timeMod).toNat / 2 ^ 37
      (x.natAbs ≤ 4000 * 2 ^ 37 → Completes (.timeAdjust a hi) s (fun t =>
        t.tb = { b with clk := { b.clk with slew := x }, held := { b.held with adj := none } })) ∧
      (4000 * 2 ^ 37 < x.natAbs → s.StepsNow → Completes (.timeAdjust a hi) s (fun t =>
        t.tb.held.adj = none ∧ stepped q t ∧ queued q t ∧ t.tb.clk.cycles = b.clk.cycles)) ∧
      (4000 * 2 ^ 37 < x.natAbs → ∀ e, b.stroke.ends = some e → e ≤ s.qns → Completes (.timeAdjust a hi) s (fun t =>
        t.tb = { b with held := { b.held with adj := none }, steps := b.steps ++ [.shift (v * 2 ^ 37)] }))) ∧
    (∀ w3 : Word,
      let q := ofTime80 (w3 ++ word b.held.set[2] 0 ++ word b.held.set[1] 0 ++ word b.held.set[0] 0)
      (s.StepsNow → Completes (.timeSet a w3) s (fun t =>
        t.tb.held.set = Vector.replicate 3 none ∧ stepped q t ∧ queued q t ∧ t.tb.clk.cycles = b.clk.cycles)) ∧
      (s.BeforeTime s.qns → b.stroke.running = true → b.clk.cycles = b.stroke.cyc0 → Completes (.timeSet a w3) s (fun t =>
        t.tb.held.set = Vector.replicate 3 none ∧ stepped q t ∧ t.tb.clk.cycles = b.clk.cycles + 1)) ∧
      (∀ e, b.stroke.ends = some e → e ≤ s.qns → Completes (.timeSet a w3) s (fun t =>
        t.tb = { b with held := { b.held with set := Vector.replicate 3 none }, steps := b.steps ++ [.set q] }))) ∧
    (∀ v : Word, Completes (.measWrite a v) s (fun t => t.tb = { b with sync := { b.sync with meas := some v } }))) ∧
  (∀ (s : State) (a : Agent) (v : Word), s.heard a 54 = true → agentCode a ≠ s.lo.owner →
    ∀ c ∈ [Instr.rateTrimWrite a v, .timeAdjust a v, .timeSet a v, .measWrite a v],
      Completes c s (fun t => t.tb = { s.tb with regs := { s.tb.regs with foreign := satInc s.tb.regs.foreign } })) ∧
  (∀ (s : State) (h : HeldWord), s.Before (h.cyc + 501) →
    let at_ (t : State) : Prop := t.tb.clk.cycles = max s.tb.clk.cycles (h.cyc + 501)
    (s.tb.held.rate = some h → Completes (.lowerWordDiscard .rate) s (fun t => t.tb.held = { s.tb.held with rate := none } ∧ at_ t)) ∧
    (s.tb.held.adj = some h → Completes (.lowerWordDiscard .adj) s (fun t => t.tb.held = { s.tb.held with adj := none } ∧ at_ t)) ∧
    (∀ i : Fin 3, s.tb.held.set[i] = some h → (∀ (j : Fin 3) (x : HeldWord), s.tb.held.set[j] = some x → h.cyc ≤ x.cyc) →
      Completes (.lowerWordDiscard .set) s (fun t => at_ t ∧ t.tb.held.set[i] = none ∧ t.tb.held.rate = s.tb.held.rate ∧ t.tb.held.adj = s.tb.held.adj ∧
        ∀ (j : Fin 3) (x : HeldWord), s.tb.held.set[j] = some x →
          t.tb.held.set[j] = if max s.tb.clk.cycles (h.cyc + 501) ≤ x.cyc + 500 then some x else none)))

/-- Time passes as 02 R31, R32, R43 and R50 say: to the next whole second in the least number of core cycles that reach it, each of 2 ns and the trim,
and of what a slew still has to apply, at most 2^-12 of the interval; the carry sets the always-on timekeeper to that second. A slew that runs out
leaves none. Synchronization (02 R46, R47; 11 R424): an interval is good with a measurement within LIMIT, eight alike change the state, the holdover
limit ends in UNSYNCED; captures and pulses (R81-R83). Where the manual is silent it takes the model's choices of the assumption log, 4, 158, 159. -/
def Obligations.TimeAndSynchronization : Prop :=
  (∀ s : State, s.tb.clk.trim.natAbs ≤ 2 ^ 30 → s.BeforeTime ((s.qns / 4000000000 + 1) * 4000000000) →
    let c := s.tb.clk
    let exact (n : Nat) : Int := c.now + n * (2 ^ 40 + c.trim) + max (-(n * 2 ^ 28 : Int)) (min (n * 2 ^ 28 : Int) c.slew)
    let q : Int := (s.qns / 4000000000 + 1) * 4000000000 * 2 ^ 37
    Completes .secondsCarry s (fun t => ∃ n : Nat, t.tb.clk.cycles = c.cycles + n ∧ q ≤ exact n ∧ (∀ k, k < n → exact k < q) ∧
      (t.tb.clk.now : Int) = exact n % timeMod ∧ t.tb.clk.aon = (s.qns / 4000000000 + 1) * 32768 % 2 ^ 63 ∧ t.tb.clk.aonSub = 0)) ∧
  (∀ s : State, s.Before (s.tb.clk.cycles + (s.tb.clk.slew.natAbs + 2 ^ 28 - 1) / 2 ^ 28) → Completes .slewComplete s (fun t =>
    ∃ n : Nat, t.tb.clk.cycles = s.tb.clk.cycles + n ∧ t.tb.clk.slew = 0 ∧ s.tb.clk.slew.natAbs ≤ n * 2 ^ 28 ∧
      (0 < n → (n - 1) * 2 ^ 28 < s.tb.clk.slew.natAbs))) ∧
  (∀ s : State,
    let y := s.tb.sync
    let k := y.ivlCyc0 + (if y.ivl.toInt < 0 then 500000000 / 2 ^ y.ivl.toInt.natAbs else 500000000 * 2 ^ y.ivl.toInt.natAbs)
    (s.Before k → Completes .syncIntervalEnd s (fun t =>
      let good := match y.meas with
        | some v => decide (v.toInt.natAbs ≤ s.tb.regs.limit.toNat)
        | none => false
      let run := if y.good = good then min 8 (y.run + 1) else 1
      let st := if run < 8 then y.st
        else if good then .synced
        else if y.st = .synced then .holdover else y.st
      t.tb.clk.cycles = max k s.tb.clk.cycles ∧
      t.tb.sync.run = run ∧ t.tb.sync.good = good ∧ t.tb.sync.st = st ∧ t.tb.sync.meas = none ∧ t.tb.sync.ivl = s.tb.regs.logIvl ∧
      (y.st ≠ .synced → st = .synced → t.evt.status.getLsbD 3 = true ∧ t.eth.quietHold = false ∧ t.eth.quietBoot = false) ∧
      (y.st = .synced → st = .holdover → t.evt.status.getLsbD 2 = true ∧ t.tb.sync.lostCyc = t.tb.clk.cycles))) ∧
    (y.st = .holdover → s.Before (y.lostCyc + 500000 * s.tb.regs.holdMs.toNat) → Completes .holdoverExpiry s (fun t =>
      t.tb.sync.st = .unsynced ∧ t.eth.quietHold = true ∧
      t.tb.clk.cycles = max s.tb.clk.cycles (y.lostCyc + 500000 * s.tb.regs.holdMs.toNat)))) ∧
  (∀ (s : State) (n : Fin 2), s.tb.cap[n].en = true → Completes (.ppsCapture n) s (fun t =>
    t.tb.cap[n] = { s.tb.cap[n] with time := s.time, valid := true, rep := false,
                                     ovr := if s.tb.cap[n].valid then satInc s.tb.cap[n].ovr else s.tb.cap[n].ovr } ∧
    (∀ m : Fin 2, m ≠ n → t.tb.cap[m] = s.tb.cap[m]) ∧ t.evt.status.getLsbD 4 = true)) ∧
  (∀ (s : State) (n : Fin 2),
    let o := s.tb.pps[n]
    let rises (T : Nat) (t : State) : Prop := t.tb.pps[n].last = some T ∧ t.tb.pps[n].hiUntil = t.tb.clk.cycles + 4 * max 1 o.width.toNat ∧
      t.sent = if s.pins.unfed.getLsbD 0 then s.sent else .pulse n :: s.sent
    (o.quiet = false ∨ s.tb.sync.st ≠ .unsynced) →
    (∀ T, o.mode = 1 →
      let due (x : Nat) : Prop := s.qns < x + 8 ∧ x % 4000000000 = 32 * o.offset.toNat % 4000000000 ∧ o.last ≠ some x
      due T → (∀ x, x < T → ¬due x) → s.BeforeTime T → Completes (.ppsPulse n) s (rises T)) ∧
    (∀ before st rest, o.mode = 2 → o.starts = before ++ st :: rest → (∀ x ∈ before, x + 32 * o.offset.toNat + 8 ≤ s.qns) →
      s.qns < st + 32 * o.offset.toNat + 8 → s.BeforeTime (st + 32 * o.offset.toNat) →
      Completes (.ppsPulse n) s (fun t => rises (st + 32 * o.offset.toNat) t ∧ t.tb.pps[n].starts = rest))) ∧
  (∀ (s : State) (n : Fin 2), s.tb.pps[n].quiet = true → s.tb.sync.st = .unsynced → exec (.ppsPulse n) s = .next s ∧ s.ppsHigh n = false)

/-- Scheduler commands (02 R63, R67-R69, R87): an ARM taken makes the entry PENDING with its owner, a stroke target out of range is refused with
reason RANGE; a CANCEL by the owner or the Warden aborts; entries 0 and 1 hear the Warden alone. SBU.CTRL.CLR_CNT clears every counter (03). Where the
manual is silent it takes the model's choices of the assumption log, 12, 13, 160. -/
def Obligations.SchedulerCommands : Prop :=
  (∀ (s : State) (a : Agent) (n : Fin 16) (v : BitVec 32), s.heard a 54 = true → (2 ≤ n.val ∨ a = .warden) → v.getLsbD 1 = false →
    s.tb.sched[n].st ≠ .pending →
    let e := s.tb.sched[n]
    let d := (e.tgt[1] ++ e.tgt[0] - s.tb.stroke.count : BitVec 40).toNat
    Completes (.schedArm a n v) s (fun t =>
      t.tb.sched[n].action = v.extractLsb' 4 2 ∧ t.tb.sched[n].mask = v.extractLsb' 8 4 ∧ t.tb.sched[n].needSync = v.getLsbD 3 ∧
      t.tb.sched[n].stroke = v.getLsbD 2 ∧ t.tb.sched[n].tgt = e.tgt ∧
      (if v.getLsbD 2 = true ∧ ¬(1 ≤ d ∧ d ≤ 2 ^ 39) then t.tb.sched[n].st = e.st ∧ t.tb.sched[n].reason = .range ∧ t.tb.sched[n].owner = e.owner
       else t.tb.sched[n].st = .pending ∧ t.tb.sched[n].reason = .none ∧ t.tb.sched[n].owner = agentCode a) ∧
      ∀ m : Fin 16, m ≠ n → t.tb.sched[m] = s.tb.sched[m])) ∧
  (∀ (s : State) (a : Agent) (n : Fin 16), s.heard a 54 = true → (2 ≤ n.val ∨ a = .warden) → s.tb.sched[n].st = .pending →
    ((agentCode a = s.tb.sched[n].owner ∨ a = .warden) → Completes (.schedCancel a n) s (fun t =>
      t.tb.sched[n] = { s.tb.sched[n] with st := .aborted, reason := .cancelled } ∧
      (n = 0 → t.lay.abortCnt = satInc s.lay.abortCnt ∧ t.lay.abortReason = 3))) ∧
    (agentCode a ≠ s.tb.sched[n].owner → a ≠ .warden → Completes (.schedCancel a n) s (fun t =>
      t.tb.sched = s.tb.sched ∧ t.tb.regs.foreign = satInc s.tb.regs.foreign))) ∧
  (∀ (s : State) (a : Agent) (n : Fin 16) (v : BitVec 32), n.val < 2 → a ≠ .warden →
    Completes (.schedArm a n v) s (fun t => t.tb = s.tb ∧ t.lay = s.lay) ∧
    Completes (.schedCancel a n) s (fun t => t.tb = s.tb ∧ t.lay = s.lay)) ∧
  (∀ (s : State) (a : Agent), s.reaches a = true → Completes (.sbuCounterClear a) s (fun t => ∀ k : Fin 64,
    t.sbu.cnt[k] = { park := 0, ovr := 0, wait := 0, held := 0, overCyc := 0 }))

/-! Strokes. -/

/-- A boundary at which nothing is armed, held or stalled (01 R20; 02 R38, R40, R59; 03 R97-R99): the counter, the start time and the next grid point;
every budget is refilled from the layout, and what was parked or had yielded runs. A step committed in the boundary's core cycle applies in the next.
A frame that the Warden port takes anew draws on its activity, 37, at once. -/
def Obligations.StrokeBoundaryRefills : Prop :=
  ∀ (s : State) (e : Nat), s.awake = true → s.tb.stroke.ends = some e → s.tb.stroke.running = true → s.pwr.stop = false → s.pwr.req = none →
    (∀ n : Fin 16, s.tb.sched[n].st ≠ .pending) → s.sbu.heldq = [] → s.NoStall → s.wdn.relWait = false →
    (s.tb.steps = [] → Completes .strokeBoundary s (fun t =>
      let k := t.tb.stroke
      k.count = s.tb.stroke.count + 1 ∧ k.running = true ∧ k.start = e ∧ k.cyc0 = t.tb.clk.cycles ∧ k.ends = some (s.lo.gridAfter e) ∧
      (∀ p : Fin 3, k.phases[p] = false) ∧ k.settled = 0 ∧ t.lay = s.lay ∧
      (∀ a : ActId, (a.val ≠ 37 ∨ s.lnd.toWarden.isSome = true) →
        t.sbu.act[a].cpu = (s.lo.compute a.val).toNat ∧ t.sbu.act[a].loft = (s.lo.loft a.val).toNat ∧
        t.sbu.act[a].gal = (s.lo.gallery a.val).toNat ∧ t.sbu.act[a].dma = (s.lo.dma a.val).toNat ∧
        t.sbu.act[a].events = (s.lo.events a.val).toNat ∧ t.sbu.act[a].parked = false ∧ t.sbu.act[a].yielded = false ∧
        t.sbu.act[a].drawnLoft = 0 ∧ t.sbu.act[a].drawnGal = 0) ∧
      (∀ n : Fin 16, (s.hw[n].st = .parked ∨ s.hw[n].st = .yielded) → t.hw[n].st = .running))) ∧
    (∀ q, s.tb.steps = [.set q] → q < 2 ^ 48 * 4000000000 → Completes .strokeBoundary s (fun t =>
      t.qns = q ∧ t.tb.steps = [] ∧ t.tb.stroke.count = s.tb.stroke.count + 1 ∧ t.tb.stroke.start = e ∧
      t.tb.clk.cycles = t.tb.stroke.cyc0 + 1 ∧ t.evt.status.getLsbD 1 = true))

/-- What else a stroke's instants do (02 R39; 03 R100, R126; 04 R162): a phase starts once, an activity without compute parks and is counted, a hinge
ends with CHANGEOVER_DONE and the changed pins in function. A controlled stop or a request to rest takes the boundary's place. Where the manual is
silent it takes the model's choices of the assumption log, 128, 150. -/
def Obligations.StrokeInstants : Prop :=
  (∀ (s : State) (p : Fin 3), s.tb.stroke.phases[p] = false →
    let k := s.tb.stroke.cyc0 + 4 * (s.lo.phaseAt p).toNat
    s.InStroke k →
    Completes (.phaseStart p) s (fun t =>
      t.tb.stroke.phases[p] = true ∧ (∀ q : Fin 3, q ≠ p → t.tb.stroke.phases[q] = s.tb.stroke.phases[q]) ∧
      t.tb.clk.cycles = max k s.tb.clk.cycles ∧
      ∀ n : Fin 16, ∀ i : Fin 16, i.val = 5 + p.val → s.hw[n].eng.vec.lsrc[i].getLsbD 5 = true →
        t.hw[n].eng.vec.ipend.getLsbD (s.hw[n].eng.vec.lsrc[i].toNat % 32) = true)) ∧
  (∀ (s : State) (a : ActId), s.tb.stroke.running = true → s.sbu.act[a].cpu = 0 → s.sbu.act[a].parked = false → s.lo.present a.val = true →
    let parks (t : State) : Prop :=
      t.sbu.act[a].parked = true ∧ t.sbu.cnt[a].park = satInc s.sbu.cnt[a].park ∧ t.evt.status.getLsbD 8 = true
    (∀ n : Fin 16, a.val = n.val → s.executes (.hewer n) = true → s.hw[n].eng.stall = none →
      Completes (.budgetPark a) s (fun t => parks t ∧ t.hw[n].st = .parked)) ∧
    (∀ f : Fin 4, a.val = 16 + f.val → s.awake = true → (∃ i : Fin 8, s.trd.tread[(treadOf f i)].st = .running) →
      Completes (.budgetPark a) s (fun t => parks t ∧ ∀ i : Fin 8, s.trd.tread[(treadOf f i)].st = .running ∨ s.trd.tread[(treadOf f i)].st = .waiting →
        t.trd.tread[(treadOf f i)].st = .parked)) ∧
    (a.val = 29 → s.executes .warden = true → s.wdn.eng.stall = none → Completes (.budgetPark a) s parks)) ∧
  (∀ s : State, s.awake = true → s.plans.hinge.active = true → s.Before (s.plans.hinge.cyc + 1000) →
    Completes .hingeEnd s (fun t => t.plans.hinge.active = false ∧ t.evt.status.getLsbD 14 = true ∧
      t.tb.clk.cycles = max s.tb.clk.cycles (s.plans.hinge.cyc + 1000) ∧ ∀ i ∈ s.plans.hinge.pins, t.pins.use[i] = .func)) ∧
  (∀ (s : State) (e : Nat), s.awake = true → s.tb.stroke.ends = some e →
    (s.pwr.stop = false → s.pwr.req.isSome = true → exec .strokeBoundary s = .next s.enterRest.lateSteps) ∧
    (s.pwr.stop = true → s.stopping = true → s.beforeEnd s.stopCycle = false →
      Completes .strokeBoundary s (fun t => t = s.endStroke.haltAll.lateSteps)))

/-! The Gallery. -/

/-- A settle point reached by one group alone (10 R383-R389, R392, R393, R395): a swap copies every word of the write view into the settled view; a
stopped owner, a missing request or a lease within its limit keeps it from happening; a lease acquired in its core cycle does not. The head of a
commit queue, once marked, takes effect outside (08 R320; 05 R193, R195; 10 R378): a Loft word is written, a Gallery word by its owner, a foreign one
counted; the queue moves on. Where the manual is silent it takes the model's choices of the assumption log, 70. -/
def Obligations.SettlePointsAndCommitQueues : Prop :=
  (∀ (s : State) (g : Fin 128) (r : GroupRec), s.lo.grp g.val = some r →
    s.unsettled.filter (fun q => s.lo.settleAt q == s.lo.settleAt r) = [r] → r.group = g.val → s.tb.stroke.settled.getLsbD g.val = false →
    s.plans.hinge.active = false → s.InStroke (s.tb.stroke.cyc0 + 4 * s.lo.settleAt r) →
    memWf (0 : Word) s.gal.mem = true → memWf none s.gal.flaws = true →
    let now := max s.tb.clk.cycles (s.tb.stroke.cyc0 + 4 * s.lo.settleAt r)
    let holders := (List.finRange 16).filter fun i => s.gal.lease[i].held && decide (s.gal.lease[i].grp.toNat = g.val) &&
      decide (s.gal.lease[i].since ≠ some now)
    let limit := if r.lease2 then 2 else 1
    let kept (t : State) : Prop := t.gal.mem = s.gal.mem ∧ t.tb.stroke.settled.getLsbD g.val = true
    let swapped (t : State) : Prop :=
      (∀ k, k < 512 * r.npages → memRead 0 t.gal.mem (512 * (r.frame + r.npages) + k) = memRead 0 s.gal.mem (512 * r.frame + k)) ∧
      (∀ w, (w < 512 * (r.frame + r.npages) ∨ 512 * (r.frame + 2 * r.npages) ≤ w) → memRead 0 t.gal.mem w = memRead 0 s.gal.mem w) ∧
      t.gal.grp[g].req = false ∧ t.gal.grp[g].stroke = s.tb.stroke.count.setWidth 20 ∧ t.gal.settled.getLsbD g.val = true ∧
      t.tb.stroke.settled.getLsbD g.val = true ∧ (r.evt = true → s.gal.doneCyc ≠ some now → t.evt.status.getLsbD 34 = true)
    (r.hostDirect = true → Completes (.settlePoint g 0) s kept) ∧
    (r.hostDirect = false → s.ownerStopped r = true → Completes (.settlePoint g 0) s (fun t => kept t ∧ t.gal.grp[g].stop = true)) ∧
    (r.hostDirect = false → s.ownerStopped r = false →
      (r.req = true → s.gal.grp[g].req = false → Completes (.settlePoint g 0) s kept) ∧
      ((r.req = false ∨ s.gal.grp[g].req = true) →
        (holders = [] → Completes (.settlePoint g 0) s swapped) ∧
        ((∃ i ∈ holders, limit ≤ s.gal.lease[i].defers) → Completes (.settlePoint g 0) s (fun t =>
          swapped t ∧ t.evt.status.getLsbD 35 = true ∧ ∀ i ∈ holders, t.gal.lease[i].held = false ∧ t.gal.lease[i].broken = true)) ∧
        (holders ≠ [] → (∀ i ∈ holders, s.gal.lease[i].defers < limit) → Completes (.settlePoint g 0) s (fun t =>
          kept t ∧ t.gal.grp[g].deferred = satInc s.gal.grp[g].deferred ∧ ∀ i ∈ holders, t.gal.lease[i].defers = s.gal.lease[i].defers + 1))))) ∧
  (∀ (s : State) (n : Fin 16) (e : CqEntry) (q : List CqEntry), s.hw[n].cq = e :: q →
    let a := e.addr.toNat
    let moved (t : State) : Prop := t.hw[n].cq = q ∧ t.hw[n].regs.cqCommit = satInc s.hw[n].regs.cqCommit
    (e.commit = false → exec (.commitWrite n) s = .next s) ∧
    (e.commit = true → 0x8000 ≤ a → a < 0x88000 → s.islandOn (20 + (a - 0x8000) / 131072) = true →
      Completes (.commitWrite n) s (fun t => moved t ∧ memRead 0 t.loft (a - 0x8000) = e.val ∧
        (∀ w, w ≠ a - 0x8000 → memRead 0 t.loft w = memRead 0 s.loft w) ∧ t.gal = s.gal)) ∧
    (∀ r : GroupRec, e.commit = true → 0x88000 ≤ a → a < 0xC8000 → s.lo.grpOfPage ((a - 0x88000) / 512) = some r →
      let w := 512 * (r.frame + ((a - 0x88000) / 512 - r.first)) + (a - 0x88000) % 512
      (r.owner = n.val → Completes (.commitWrite n) s (fun t => moved t ∧ memRead 0 t.gal.mem w = e.val ∧
        (∀ k, k ≠ w → memRead 0 t.gal.mem k = memRead 0 s.gal.mem k) ∧ t.loft = s.loft)) ∧
      (r.owner ≠ n.val → Completes (.commitWrite n) s (fun t => moved t ∧ t.gal.mem = s.gal.mem ∧ t.gal.forCount = satInc s.gal.forCount ∧
        t.gal.forAgent = BitVec.ofNat 5 n.val ∧ t.evt.status.getLsbD 36 = true))) ∧
    (e.commit = true → e.addr = 0xE0018 → e.val.toNat % 128 = 39 → Completes (.commitWrite n) s (fun t => moved t ∧ t.evt.status.getLsbD 39 = true)))

/-- Gallery commands (10 R385, R386, R388, R390, R394, R395, R398-R402): requests and their results, leases taken and released, the host's view of
words, the swaps that waited for a host read; a release in the core cycle of a deferral lets the swap take place, and a write in the core cycle of a
swap is in the new settled view. -/
def Obligations.GalleryCommands : Prop :=
  (∀ (s : State) (g : Fin 128),
    let code := s.lo.grp g.val
    let res (a : Agent) (t : State) (v : BitVec 2) : Prop := match a with
      | .host => t.gal.swapRes = v
      | .warden => t.wdn.swapRes = v
      | .hewer _ => True
    ∀ a : Agent,
      (code = none → Completes (.swapRequest a g) s (fun t => res a t 2)) ∧
      (∀ r, code = some r →
        ((agentCode a).toNat ≠ r.owner → Completes (.swapRequest a g) s (fun t => res a t 1 ∧ t.gal.grp = s.gal.grp)) ∧
        ((agentCode a).toNat = r.owner → r.hostDirect = true → Completes (.swapRequest a g) s (fun t => res a t 2 ∧ t.gal.grp = s.gal.grp)) ∧
        ((agentCode a).toNat = r.owner → r.hostDirect = false → r.req = false →
          Completes (.swapRequest a g) s (fun t => res a t 0 ∧ t.gal.grp = s.gal.grp)) ∧
        ((agentCode a).toNat = r.owner → r.hostDirect = false → r.req = true → s.gal.grp[g].req = false →
          Completes (.swapRequest a g) s (fun t => res a t 0 ∧ t.gal.grp[g] = { s.gal.grp[g] with req := true })) ∧
        ((agentCode a).toNat = r.owner → r.hostDirect = false → r.req = true → s.gal.grp[g].req = true →
          Completes (.swapRequest a g) s (fun t => res a t 3 ∧ t.gal.grp = s.gal.grp)))) ∧
  (∀ (s : State) (mask : BitVec 16), s.hostWorks = true →
    Completes (.leaseAcquire mask) s (fun t => t.gal.mem = s.gal.mem ∧ ∀ i : Fin 16,
      t.gal.lease[i] = if mask.getLsbD i.val = true ∧ s.gal.lease[i].held = false ∧ s.leasable s.gal.lease[i] = true
        then { s.gal.lease[i] with held := true, defers := 0, since := some s.tb.clk.cycles } else s.gal.lease[i]) ∧
    Completes (.leaseRelease mask) s (fun t =>
      ((∀ g : Fin 128, s.gal.grp[g].deferCyc ≠ some s.tb.clk.cycles) → t.gal.mem = s.gal.mem) ∧
      (∀ (g : Fin 128) (r : GroupRec), r ∈ s.lo.groups → r.group = g.val → s.gal.grp[g].deferCyc = some s.tb.clk.cycles →
        (∀ i : Fin 16, s.gal.lease[i].held = true → s.gal.lease[i].grp.toNat = g.val → s.gal.lease[i].since ≠ some s.tb.clk.cycles →
          mask.getLsbD i.val = true) →
        t.gal.settled.getLsbD g.val = true ∧ t.gal.grp[g].stroke = s.tb.stroke.count.setWidth 20) ∧
      ∀ i : Fin 16, t.gal.lease[i] = if mask.getLsbD i.val then { s.gal.lease[i] with held := false } else s.gal.lease[i])) ∧
  (∀ (s : State) (w : Nat) (r : GroupRec), s.hostWorks = true → w < 262144 → s.lo.grpOfPage (w / 512) = some r →
    let a := 512 * r.viewFrame 17 (w / 512) + w % 512
    memRead none s.gal.flaws a = none →
    Completes (.hostGalleryRead (4 * w) 4 []) s (fun t =>
      let v := memRead 0 s.gal.mem a
      let top := if r.signed ∧ v.msb = true then 0xF else 0
      t.rd = [BitVec.ofNat 32 (v.toNat % 256), BitVec.ofNat 32 (v.toNat / 256 % 256), BitVec.ofNat 32 (v.toNat / 65536 + 16 * top),
        BitVec.ofNat 32 (if top = 0 then 0 else 255)] ∧ t.gal.mem = s.gal.mem)) ∧
  (∀ (s : State) (w : Nat) (r : GroupRec) (b0 b1 b2 b3 : Octet), s.hostWorks = true → w < 262144 → s.lo.grpOfPage (w / 512) = some r → r.owner = 17 →
    memWf (0 : Word) s.gal.mem = true →
    let a := 512 * (r.frame + (w / 512 - r.first)) + w % 512
    let b := a + 512 * r.npages
    let v := BitVec.ofNat 20 (b0.toNat + 256 * b1.toNat + 65536 * b2.toNat)
    let swaps := s.gal.grp[(ix 128 r.group)].swapCyc = some s.tb.clk.cycles ∧ s.gal.waiting.getLsbD r.group = false
    Completes (.hostGalleryWrite (4 * w) [some b0, some b1, some b2, some b3]) s (fun t =>
      memRead 0 t.gal.mem a = v ∧ (swaps → memRead 0 t.gal.mem b = v) ∧
      ∀ k, k ≠ a → ¬(swaps ∧ k = b) → memRead 0 t.gal.mem k = memRead 0 s.gal.mem k)) ∧
  (∀ s : State, Completes .deferredSwap s (fun t => t.gal.waiting = 0 ∧
    ∀ r ∈ s.lo.groups, s.gal.waiting.getLsbD r.group = true → r.group < 128 → t.gal.settled.getLsbD r.group = true))

/-! Layouts. -/

/-- Staging and activation commands (04 R148-R151, R157-R159): each refusal by its STATUS, a layout that passes every check goes to the write phase,
its completion makes the shadow plane VALID, an activation arms entry 0 of the scheduler, a cancel aborts it. Where the manual is silent it takes the
model's choices of the assumption log, 12, 18, 19, 29, 162. -/
def Obligations.LayoutCommands : Prop :=
  (∀ (s : State) (src : CmdSource) (tag : BitVec 8), s.Takes src →
    let idle := s.upd.trial = none ∧ s.stageBusy = false
    (∀ slot : BitVec 3,
      (s.upd.trial.isSome = true → Completes (.layoutStage src tag slot) s (fun t => t.Answers src tag 0x10 19 [] ∧ t.lay = s.lay)) ∧
      (s.upd.trial = none → s.stageBusy = true → Completes (.layoutStage src tag slot) s (fun t =>
        t.Answers src tag 0x10 1 [] ∧ t.lay = { s.lay with code := 1, word := 0, slot := slot } ∧ t.evt.status.getLsbD 13 = true)) ∧
      (idle → (s.flash.slot 2 slot.toNat).st ≠ .valid → Completes (.layoutStage src tag slot) s (fun t =>
        t.Answers src tag 0x10 2 [] ∧ t.lay = { s.lay with code := 2, word := 0, slot := slot } ∧ t.evt.status.getLsbD 13 = true)) ∧
      (∀ L, idle → (s.checkSlot slot.toNat).1 = .inr L → Completes (.layoutStage src tag slot) s (fun t =>
        t.lay.st = .writing ∧ t.lay.shadow = none ∧ t.lay.slot = slot ∧ t.lay.active = s.lay.active ∧
        t.lay.staging = some { slot := slot, layout := L, reply := some (src, tag) } ∧
        ∀ i : Fin 56, L.marks i.val = true → t.pwr.islOn.getLsbD i.val = true ∧ t.sec.wclaim.getLsbD i.val = true)) ∧
      (∀ f, idle → (s.checkSlot slot.toNat).1 = .inl f → Completes (.layoutStage src tag slot) s (fun t =>
        t.Answers src tag 0x10 f.code [] ∧ t.lay.staging = none ∧ t.lay.active = s.lay.active ∧ t.evt.status.getLsbD 13 = true))) ∧
    (s.upd.trial = none → s.lay.st = .valid → s.tb.sched[(0 : Fin 16)].st ≠ .pending →
      let n := s.tb.stroke.count + 1
      Completes (.layoutActivate src tag) s (fun t =>
        t.Answers src tag 0x11 0 [n.extractLsb' 0 20, n.extractLsb' 20 20, 0, 0] ∧
        t.tb.sched[(0 : Fin 16)] = armedEntry true false #v[n.extractLsb' 0 20, n.extractLsb' 20 20, 0, 0]) ∧
      ∀ (loc kind : Bool) (tgt : Vector Word 4),
        let d := (tgt[1] ++ tgt[0] - s.tb.stroke.count : BitVec 40).toNat
        ((kind = false ∨ (1 ≤ d ∧ d ≤ 2 ^ 39)) → Completes (.layoutActivateAt src tag loc kind tgt) s (fun t =>
          t.Answers src tag 0x12 0 tgt.toList ∧
          t.tb.sched[(0 : Fin 16)] = armedEntry kind (!loc) tgt)) ∧
        (kind = true → ¬(1 ≤ d ∧ d ≤ 2 ^ 39) → Completes (.layoutActivateAt src tag loc kind tgt) s (fun t =>
          t.Answers src tag 0x12 18 [] ∧ t.tb.sched[(0 : Fin 16)].st = s.tb.sched[(0 : Fin 16)].st))) ∧
    (∀ k, s.activateRefusal = some k →
      Completes (.layoutActivate src tag) s (fun t => t.Answers src tag 0x11 k [] ∧ t.tb = s.tb) ∧
      ∀ loc kind tgt, Completes (.layoutActivateAt src tag loc kind tgt) s (fun t => t.Answers src tag 0x12 k [] ∧ t.tb = s.tb)) ∧
    (s.tb.sched[(0 : Fin 16)].st = .pending → Completes (.layoutActivateCancel src tag) s (fun t =>
      t.Answers src tag 0x12 0 [] ∧ t.tb.sched[(0 : Fin 16)].st = .aborted ∧ t.tb.sched[(0 : Fin 16)].reason = .cancelled ∧
      t.lay.abortCnt = satInc s.lay.abortCnt ∧ t.lay.abortReason = 3 ∧ t.upd.lay = none)) ∧
    (s.tb.sched[(0 : Fin 16)].st ≠ .pending → Completes (.layoutActivateCancel src tag) s (fun t =>
      t.Answers src tag 0x12 0 [] ∧ t.tb = s.tb ∧ t.lay = s.lay))) ∧
  (∀ (s : State) (g : Staging), s.lay.staging = some g → s.wardenRuns = true →
    Completes .stageWriteComplete s (fun t =>
      t.lay.st = .valid ∧ t.lay.shadow = some g.layout ∧ t.lay.staging = none ∧ t.lay.code = 0 ∧ t.lay.active = s.lay.active ∧
      t.evt.status.getLsbD 12 = true ∧ (∀ src tag, g.reply = some (src, tag) → s.upd.wait = none → t.Answers src tag 0x10 0 [])))

/-- The planes beside the commands (04 R152, R155, R181; 02 R42): an error in the shadow plane ends a staging or aborts an armed changeover; the boot
slot, else the fallback slot, becomes the active plane, and the first stroke starts at the next grid point. Where the manual is silent it takes the
model's choices of the assumption log, 104 to 106. -/
def Obligations.PlaneFaultAndBoot : Prop :=
  (∀ s : State,
    (∀ g, s.lay.staging = some g → Completes .planeFault s (fun t => t.lay = { s.lay with st := .invalid, staging := none } ∧
      (∀ src tag, g.reply = some (src, tag) → s.upd.wait = none → t.Answers src tag 0x10 0x84 []))) ∧
    (s.lay.staging = none → s.tb.sched[(0 : Fin 16)].st = .pending → Completes .planeFault s (fun t =>
      t.tb.sched[(0 : Fin 16)].st = .aborted ∧ t.lay.st = .invalid ∧ t.lay.abortCnt = satInc s.lay.abortCnt ∧ t.lay.abortReason = 4 ∧
      t.lay.active = s.lay.active ∧ t.upd.lay = none ∧ t.evt.status.getLsbD 15 = true)) ∧
    (s.lay.staging = none → s.tb.sched[(0 : Fin 16)].st ≠ .pending → exec .planeFault s = .next s)) ∧
  (∀ s : State, s.wardenRuns = true → s.lay.active = none →
    let first := s.checkBoot s.flash.bootSlot
    let second := first.2.checkBoot s.flash.fallback
    let boots (L : Layout) (fb : Bool) (t : State) : Prop :=
      t.lay.active = some L ∧ t.lay.usedFallback = fb ∧ t.tb.stroke.ends = some (L.gridAfter t.qns) ∧
      (∀ i : Fin 96, t.pins.recs[i] = L.pin i.val ∧ t.pins.use[i] = .func) ∧ ∀ i : Fin 56, L.marks i.val = true → t.pwr.islOn.getLsbD i.val = true
    (∀ L, first.1 = some L → Completes .bootLayoutLoad s (boots L false)) ∧
    (∀ L, first.1 = none → second.1 = some L → Completes .bootLayoutLoad s (boots L true)) ∧
    (first.1 = none → second.1 = none → Completes .bootLayoutLoad s (fun t =>
      t.lay.active = none ∧ t.lay.usedFallback = true ∧ t.tb = s.tb ∧ t.pins = s.pins)))

/-! The life of a Hewer. -/

/-- Halt, resume and reset of a Hewer (05 R216-R222, R224; 04 R166-R168): the results, the states, what a reset gives up, where a start begins, and
what a fault records. Where the manual is silent it takes the model's choices of the assumption log, 94 to 96, 175. -/
def Obligations.HewerLife : Prop :=
  (∀ (s : State) (a : Agent) (n : Fin 16), s.reaches a = true →
    let h := s.hw[n]
    (s.ctrlResult n = 0 →
      ((h.st = .running ∨ h.st = .yielded ∨ h.st = .parked) →
        ((∀ y, h.eng.stall = some y → y.kind ≠ .slack) → Completes (.hewerHalt a n) s (fun t =>
          t.hw[n].st = .halted ∧ t.hw[n].regs.result = 0 ∧ t.hw[n].prev = (if h.st = .yielded then .yielded else .running) ∧
          t.hw[n].eng.core = h.eng.core)) ∧
        (∀ y, h.eng.stall = some y → y.kind = .slack → Completes (.hewerHalt a n) s (fun t =>
          t.hw[n].st = h.st ∧ t.hw[n].regs.result = 0 ∧ t.hw[n].load.haltReq = true ∧ t.hw[n].eng = h.eng))) ∧
      (h.st = .halted → 0 < s.sbu.act[(actHewer n)].cpu → Completes (.hewerResume a n) s (fun t =>
        t.hw[n].st = h.prev ∧ t.hw[n].regs.result = 0 ∧ t.hw[n].eng.core = h.eng.core)) ∧
      (h.st = .halted → s.sbu.act[(actHewer n)].cpu = 0 → Completes (.hewerResume a n) s (fun t =>
        t.hw[n].st = .parked ∧ t.hw[n].regs.result = 0)) ∧
      (h.st ≠ .halted → Completes (.hewerResume a n) s (fun t => t.hw[n].st = h.st ∧ t.hw[n].regs.result = 1)) ∧
      (∀ reload, h.cq = [] → Completes (.engineReset a n reload) s (fun t =>
        t.hw[n].st = .stopped ∧ t.hw[n].load = { HewerLoad.idle with resetting := true, resetCyc := s.tb.clk.cycles, reload := reload } ∧
        t.hw[n].regs.result = 0 ∧ t.hw[n].regs.dbgAddr = 0 ∧ t.hw[n].bank = h.bank ∧
        ∀ k : Fin 64, s.sem[k].held = true → s.sem[k].owner = BitVec.ofNat 5 n.val → t.sem[k].held = false ∧ t.sem[k].orphan = true))) ∧
    (s.ctrlResult n ≠ 0 → ∀ reload, ∀ c ∈ [Instr.hewerHalt a n, .hewerResume a n, .engineReset a n reload],
      Completes c s (fun t => t.hw[n].st = h.st ∧ t.hw[n].regs.result = s.ctrlResult n))) ∧
  (∀ (s : State) (n : Fin 16),
    let h := s.hw[n]
    let entry : Word := match s.flash.packageFor s.lo n.val with
      | some p => p.entry
      | none => 0
    let starts (t : State) : Prop :=
      t.hw[n].st = .running ∧ t.hw[n].eng.core.pc = entry ∧ t.hw[n].eng.core.lvl = 32 ∧ t.hw[n].eng.core.ie = false ∧
      (∀ r : Fin 16, t.hw[n].eng.core.w[r] = if r = 14 then (if s.lo.bothBanks n.val then 0x8000 else 0x4000) else 0) ∧
      t.hw[n].eng.core.tag = 0 ∧ t.hw[n].load = HewerLoad.idle
    let faults (cause : BitVec 4) (t : State) : Prop :=
      t.hw[n].regs.faultCnt = satInc h.regs.faultCnt ∧ t.hw[n].regs.faultCause = cause ∧ t.hw[n].regs.faultPc = h.eng.core.pc ∧
      t.evt.status.getLsbD (16 + n.val) = true
    let due := s.Before (h.load.resetCyc + 1000)
    (h.load.resetting = true → h.load.reload = false → due → Completes (.engineResetEnd n) s starts) ∧
    (h.load.resetting = true → h.load.reload = true → due → Completes (.engineResetEnd n) s (fun t => t.hw[n].st = .loading ∧ t.hw[n].load.loading = true)) ∧
    (h.load.pause = some 0 → h.load.loading = false → h.st = .loading → Completes (.coldPauseEnd n) s starts) ∧
    (h.st = .loading → h.load.loading = true → h.load.reapply = false →
      (∀ ws, s.flash.image s.lo n.val = some ws →
        (h.load.pause = none → Completes (.coldLoadComplete n) s starts) ∧
        (∀ k, h.load.pause = some k → s.lo.bothBanks n.val = false → Completes (.coldLoadComplete n) s (fun t =>
          t.hw[n].st = .loading ∧ t.hw[n].load.loading = false ∧ t.hw[n].load.pause = some k ∧
          ∀ i, i < 16384 → t.hw[n].word i = TWord.plain (ws.getD i 0)))) ∧
      (s.flash.image s.lo n.val = none → Completes (.coldLoadComplete n) s (fun t => faults 4 t ∧ t.hw[n].st = .faulted))) ∧
    (∀ cause : BitVec 4, h.executing = true → (cause = 1 ∨ cause = 2 ∨ cause = 3 ∨ cause = 5) →
      (h.regs.faultAct = false → Completes (.hewerFault n cause) s (fun t => faults cause t ∧ t.hw[n].st = .faulted ∧
        (cause = 3 → t.evt.status.getLsbD 38 = true))) ∧
      (h.regs.faultAct = true → h.cq = [] → Completes (.hewerFault n cause) s (fun t => faults cause t ∧ t.hw[n].st = .stopped ∧ t.hw[n].load.resetting = true))))

/-! Ports and the Landing. -/

/-- Commands of ports and their diagnostics (11 R409-R414, R436-R439, R874): link state and its event, bursts, diagnostics and their results, Tally
snapshots, MDIO. Where the manual is silent it takes the model's choices of the assumption log, 81. -/
def Obligations.PortCommands : Prop :=
  (∀ (s : State) (p : Fin 6), s.lo.portIf p.val ≠ 0 → s.islandOn (40 + p.val) = true →
    let k := s.eth.port[p].link
    let v := s.lo.portSpeed p.val
    ∀ (up full : Bool) (speed : BitVec 3) (mdix anDone noHcd : Bool), (up = true → s.eth.port[p].diag = false) →
      let moved (l : Link) : Prop := k.up ≠ l.up ∨ (l.up = true ∧ (k.speed ≠ l.speed ∨ k.full ≠ l.full))
      Completes (.linkStateChange p up full speed mdix anDone noHcd) s (fun t =>
        let l := t.eth.port[p].link
        ((moved l → l.changes = satInc k.changes ∧ t.evt.status.getLsbD (40 + p.val) = true) ∧ (¬moved l → l.changes = k.changes)) ∧
        l.mdix = mdix ∧ (l.up = false → t.eth.port[p].tx = none ∨ k.up = false) ∧ (up = false → l.up = false) ∧
        (l.full = false → l.up = true → s.lo.portIf p.val = 1 ∧ s.lo.allowHalf p.val = true) ∧
        (s.lo.portIf p.val ≠ 4 → v = 0 →
          l.speed = speed ∧ l.full = full ∧ l.anDone = anDone ∧ (noHcd = true → l.up = false ∧ l.noHcd = true) ∧
          (noHcd = false → (l.up = true ↔ up = true ∧ s.lo.offersMode p.val speed full = true) ∧
            (l.noHcd = true ↔ up = true ∧ ¬s.lo.offersMode p.val speed full = true))) ∧
        (s.lo.portIf p.val ≠ 4 → v ≠ 0 → l.up = up ∧ l.speed = BitVec.ofNat 3 v ∧ l.anDone = false ∧ l.noHcd = false))) ∧
  (∀ (s : State) (p : Fin 4) (q : Fin 6), q.val = p.val →
    (s.lo.portIf q.val = 1 → s.islandOn (36 + p.val) = true → Completes (.burstDetected p) s (fun t =>
      t.eth.port[q].freeze = some (s.tb.clk.cycles + 1000000) ∧
      (s.eth.port[q].freeze = none → t.evt.status.getLsbD (46 + p.val) = true ∧
        t.eth.port[q].tally.live[(52 : Fin 64)] = satInc s.eth.port[q].tally.live[(52 : Fin 64)]))) ∧
    (∀ k, s.eth.port[q].freeze = some k → s.Before k → Completes (.freezeEnd p) s (fun t =>
      t.eth.port[q].freeze = none ∧ t.tb.clk.cycles = max k s.tb.clk.cycles)) ∧
    (∀ r : BitVec 24, s.eth.port[q].diag = true → Completes (.diagComplete p r) s (fun t =>
      t.eth.port[q].diag = false ∧ t.eth.port[q].diagRes = { data := r, valid := true, rep := false } ∧ t.eth.port[q].link.up = false))) ∧
  (∀ (s : State) (a : Agent), s.reaches a = true →
    (∀ p : Fin 6,
      Completes (.diagStart a p) s (fun t => t.eth.port[p].diagRes.valid = false ∧
        t.eth.port[p].diag = (s.eth.port[p].diag ||
          (decide (p.val < 4) && (!s.eth.port[p].link.up || decide (s.lo.portIf p.val = 0)) && s.islandOn (36 + p.val)))) ∧
      Completes (.anRestart a p) s (fun t => t.eth.port[p].link.up = false ∧ t.eth.port[p].link.anDone = false ∧
        t.eth.port[p].link.changes = if s.eth.port[p].link.up then satInc s.eth.port[p].link.changes else s.eth.port[p].link.changes)) ∧
    (∀ clr, Completes (.tallySnapshot a clr) s (fun t =>
      (∀ (p : Fin 6) (i : Fin 64), t.eth.port[p].tally.snap[i] = s.eth.port[p].tally.live[i] ∧
        t.eth.port[p].tally.live[i] = if clr then 0 else s.eth.port[p].tally.live[i]) ∧
      (∀ i : Fin 64, t.lnd.tally.snap[i] = s.lnd.tally.live[i] ∧ t.lnd.tally.live[i] = if clr then 0 else s.lnd.tally.live[i]) ∧
      t.eth.snapStroke = s.tb.stroke.count.setWidth 20 ∧ t.evt.status.getLsbD 59 = true)) ∧
    (∀ cmd : BitVec 30,
      (s.eth.mdio.running = none → Completes (.mdioCommand a cmd) s (fun t => t.eth.mdio = { s.eth.mdio with running := some cmd })) ∧
      (s.eth.mdio.running.isSome = true → Completes (.mdioCommand a cmd) s (fun t =>
        t.eth.mdio = { s.eth.mdio with refused := satInc s.eth.mdio.refused })))) ∧
  (∀ (s : State) (cmd : BitVec 30) (d : BitVec 16), s.eth.mdio.running = some cmd → Completes (.mdioComplete d) s (fun t =>
    let reads := if cmd.toNat / 2 ^ 28 = 1 then 2 ≤ cmd.toNat / 2 ^ 26 % 4 else cmd.toNat / 2 ^ 26 % 4 = 2
    t.eth.mdio.running = none ∧ t.eth.mdio.res = { data := if reads then d else 0, valid := true, rep := false } ∧ t.evt.status.getLsbD 51 = true))

/-- The tables that look after themselves (12 R471, R472, R478; 13 R488, R506-R511): aging, its visits evenly spaced over half the aging time,
flushes, the ends of histories and lifetimes, and the Grader's table window. -/
def Obligations.TableUpkeep : Prop :=
  (∀ (s : State) (race : Option Nat),
    let i := s.lnd.sweep.toNat
    let due := s.lnd.pass + (i + 1) * (s.lo.age * 250000000) / 8192
    s.Before due →
    let moved (t : State) : Prop := t.tb.clk.cycles = max due s.tb.clk.cycles ∧
      t.lnd = { s.lnd with sweep := s.lnd.sweep + 1, pass := if i = 8191 then due else s.lnd.pass }
    (s.lnd.lt i = none → Completes (.agingVisit race) s moved) ∧
    (∀ e, s.lnd.lt i = some e →
      (e.static = true → Completes (.agingVisit race) s moved) ∧
      (e.static = false → e.hit = true → Completes (.agingVisit race) s (fun t =>
        t.lnd.sweep = s.lnd.sweep + 1 ∧ t.lnd.lt i = some { e with hit := false } ∧ ∀ k, k ≠ i → t.lnd.lt k = s.lnd.lt k)) ∧
      (e.static = false → e.hit = false → race = none → memWf none s.lnd.table = true → Completes (.agingVisit race) s (fun t =>
        t.lnd.sweep = s.lnd.sweep + 1 ∧ t.lnd.lt i = none ∧ (∀ k, k ≠ i → t.lnd.lt k = s.lnd.lt k) ∧
        t.lnd.tally.live[(7 : Fin 64)] = satInc s.lnd.tally.live[(7 : Fin 64)])))) ∧
  (∀ (s : State) (a : Agent), s.reaches a = true →
    (∀ ports : BitVec 8, memWf none s.lnd.table = true → Completes (.ltFlush a ports) s (fun t => t.lnd.flush = true ∧ ∀ k,
      t.lnd.lt k = (s.lnd.lt k).filter fun e => e.static || e.ports &&& ports == 0)) ∧
    Completes (.offcutFlush a) s (fun t => t.grd.pend = [] ∧ ∀ e : Fin 64, t.grd.ofc[e] = none) ∧
    Completes (.tableDataRead a) s (fun t =>
      let L := if s.grd.plane then s.lay.shadow.getD Layout.blank else s.lo
      t.rd = [(L.grdWord s.grd.index.toNat).setWidth 32] ∧ t.grd = { s.grd with index := s.grd.index + 1 })) ∧
  (∀ s : State, Completes .ltFlushDone s (fun t => t.lnd = { s.lnd with flush := false })) ∧
  (∀ (s : State) (k : Fin 256) (h : Frer), memRead none s.lnd.frer k.val = some h → s.Before (h.last + 500000 * s.lo.resetMs k.val) → memWf none s.lnd.frer = true →
    Completes (.frerReset k) s (fun t => memRead none t.lnd.frer k.val = none ∧
      (∀ j, j ≠ k.val → memRead none t.lnd.frer j = memRead none s.lnd.frer j) ∧
      t.lnd.tally.live[(19 : Fin 64)] = satInc s.lnd.tally.live[(19 : Fin 64)] ∧
      t.tb.clk.cycles = max (h.last + 500000 * s.lo.resetMs k.val) s.tb.clk.cycles)) ∧
  (∀ (s : State) (e : Fin 64) (x : OfcEntry), s.grd.ofc[e] = some x → s.Before x.until_ → Completes (.offcutExpiry e) s (fun t =>
    t.grd.ofc[e] = none ∧ (∀ j : Fin 64, j ≠ e → t.grd.ofc[j] = s.grd.ofc[j]) ∧ t.grd.cnt[(8 : Fin 9)] = satInc s.grd.cnt[(8 : Fin 9)] ∧
    t.tb.clk.cycles = max x.until_ s.tb.clk.cycles))

/-- Frames (11 R415-R423, R873; 12 R459, R462; 08 R313-R316, R325): one that arrives is stored without its FCS, its verdict counts it once, a port
sends the whole frame with a true FCS or, without a GOOD verdict, with a complemented one, keeps a gap of twelve octets behind it, and sends a frame
again after a collision. Where the manual is silent it takes the model's choices of the assumption log, 20, 71, 74 to 76, 165, 166, 168. -/
def Obligations.FramesThroughTheLanding : Prop :=
  (∀ (s : State) (p : Fin 6) (os : List Octet) (k : Nat), s.eth.port[p].link.up = true → s.landingOn = true → s.islandOn (40 + p.val) = true →
    (os ≠ [] → 8192 ≤ s.lnd.frames.length → Completes (.rxFrame p os k) s (fun t => t.lnd.frames = s.lnd.frames ∧
      t.lnd.tally.live[(20 : Fin 64)] = satInc s.lnd.tally.live[(20 : Fin 64)] ∧ t.eth.port[p].tally = s.eth.port[p].tally ∧
      t.eth.port[p].rx = s.eth.port[p].rx ++ [s.lnd.nextId] ∧ ∃ errs, t.eth.port[p].bare = s.eth.port[p].bare ++ [(s.lnd.nextId, errs)])) ∧
    (64 ≤ os.length → os.length ≤ s.lo.maxLen p.val → s.lnd.frames.length < 8192 → (∀ f ∈ s.lnd.frames, f.id < s.lnd.nextId) →
      (os.length - 4 + 127) / 128 ≤ s.freeCells → Completes (.rxFrame p os k) s (fun t =>
        t.lnd.nextId = s.lnd.nextId + 1 ∧ t.eth.port[p].rx = s.eth.port[p].rx ++ [s.lnd.nextId] ∧
        ∃ f ∈ t.lnd.frames, f.id = s.lnd.nextId ∧ f.src = p.val ∧ f.octets = os.take (os.length - 4) ∧ f.fcs = os.drop (os.length - 4) ∧
          f.verdict = none))) ∧
  (∀ (s : State) (p : Fin 6) (id : Nat) (errs : BitVec 8) (rest : List Nat) (symbol align lost : Bool), s.eth.port[p].rx = id :: rest →
    s.eth.port[p].bare.find? (fun b => b.1 == id) = some (id, errs) → Completes (.frameVerdict p symbol align lost) s (fun t =>
      t.eth.port[p].rx = rest ∧ t.eth.port[p].tally.live[(11 : Fin 64)] = satInc s.eth.port[p].tally.live[(11 : Fin 64)] ∧
      (errs = 0 → symbol = false → align = false → lost = false →
        t.eth.port[p].tally.live[(49 : Fin 64)] = satInc s.eth.port[p].tally.live[(49 : Fin 64)]))) ∧
  (∀ (s : State) (p : Fin 6) (f : Frame) (symbol align lost : Bool), s.lnd.frames = [f] → s.eth.port[p].rx = [f.id] → s.eth.port[p].bare = [] →
    f.verdict = none → f.decided = true → f.wait = .none → f.uncounted = false → f.refused = false → f.mirrorRefused = false →
    (f.octets.length + f.fcs.length + 127) / 128 ≤ f.chain.length → (∀ q : Fin 6, s.eth.port[q].tx = none) → f.rxLen ≥ 64 →
    let slow := s.eth.port[p].link.speed.toNat ≤ 2
    let counted (i : Fin 64) (t : State) : Prop := t.eth.port[p].rx = [] ∧ t.eth.port[p].tally.live[i] = satInc s.eth.port[p].tally.live[i]
    let done (i : Fin 64) : Prop := Completes (.frameVerdict p symbol align lost) s (counted i)
    (lost = true → done 15) ∧
    (lost = false → f.errs.getLsbD 3 = true → done 10) ∧
    (lost = false → f.errs.getLsbD 3 = false → align = true → slow → done 8) ∧
    (lost = false → f.errs.getLsbD 3 = false → symbol = true → (align = false ∨ ¬slow) → done 9) ∧
    (lost = false → f.errs.getLsbD 3 = false → symbol = false → align = false → f.errs.getLsbD 2 = false →
      (f.errs.getLsbD 7 = true → done 14) ∧ (f.errs.getLsbD 7 = false → f.errs.getLsbD 1 = true → done 7) ∧
      (f.errs = 0 → f.macDrop = none → f.onGood = [] → done 0))) ∧
  (∀ (s : State) (p : Fin 6), s.macOn p = true → s.eth.port[p].tx = none →
    (s.tb.clk.cycles < s.eth.port[p].gap → exec (.egressFrameStart p) s = .next s) ∧
    (s.eth.port[p].gap ≤ s.tb.clk.cycles →
      let started (f : Frame) (q tries : Nat) (t : State) : Prop :=
        ∃ x, t.eth.port[p].tx = some x ∧ x.frame = f.id ∧ x.queue = q ∧ x.stomp = none ∧ x.tries = tries ∧ s.qns ≤ x.start
      let c := s.candidates p
      let need (f : Frame) : Nat := if f.eof = true ∨ f.src < 6 then f.wireLen else s.lo.maxLen p.val
      let d := c.2.pick (⟨p.val, by omega⟩ : SwPort) fun t => (c.1.getD t.val none).map need
      (s.eth.port[p].retry = [] → d.1 = none → Completes (.egressFrameStart p) s (fun t => t = d.2 ∧ t.eth.port[p].tx = none)) ∧
      (∀ t' f, s.eth.port[p].retry = [] → d.1 = some t' → c.1.getD t'.val none = some f →
        Completes (.egressFrameStart p) s (started f (8 * p.val + t'.val) 0)) ∧
      (∀ f t' n, s.retryHead p = some (f, t', n) → s.retryGoes p f t' = true →
        Completes (.egressFrameStart p) s (started f (8 * p.val + t'.val) n)))) ∧
  (∀ (s : State) (p : Fin 6) (x : TxActive) (f : Frame), s.eth.port[p].tx = some x → s.frame? x.frame = some f → f.eof = true → f.bound = none →
    f.desc = none → f.tsTap = none → oneStepAt s.lo p f = none → clockedAt s.lo p f = none → f.wireLen ≤ s.lo.maxLen p.val →
    let idle (t : State) : Prop := t.eth.port[p].tx = none ∧
      t.eth.port[p].gap = t.tb.clk.cycles + (octetsQ s.eth.port[p].link.speed 12 + 7) / 8
    (x.stomp = none → (6 ≤ f.src ∨ f.verdict.isSome = true) → Completes (.egressFrameEnd p) s (fun t =>
      idle t ∧ t.sent = .frame p (padded f.octets) true :: s.sent ∧
      t.eth.port[p].tally.live[(32 : Fin 64)] = satInc s.eth.port[p].tally.live[(32 : Fin 64)])) ∧
    (x.stomp = none → f.src < 6 → f.verdict = none → Completes (.egressFrameEnd p) s (fun t =>
      idle t ∧ t.sent = .frame p (padded f.octets) false :: s.sent ∧
      t.eth.port[p].tally.live[(39 : Fin 64)] = satInc s.eth.port[p].tally.live[(39 : Fin 64)])) ∧
    (∀ k, x.stomp = some k → Completes (.egressFrameEnd p) s (fun t =>
      idle t ∧ t.sent = .frame p (padded (f.octets.take k)) false :: s.sent))) ∧
  (∀ (s : State) (p : Fin 4) (q : Fin 6) (x : TxActive), q.val = p.val → s.eth.port[q].tx = some x → s.eth.port[q].link.full = false →
    let counted (i : Fin 64) (t : State) : Prop := t.eth.port[q].tally.live[i] = satInc s.eth.port[q].tally.live[i]
    (x.tries < 15 → Completes (.collision p false) s (fun t => t.eth.port[q].tx = none ∧ counted 43 t ∧
      t.eth.port[q].retry = (x.frame, x.tries + 1) :: s.eth.port[q].retry)) ∧
    (15 ≤ x.tries → Completes (.collision p false) s (fun t => t.eth.port[q].tx = none ∧ counted 43 t ∧ counted 45 t)) ∧
    Completes (.collision p true) s (fun t => t.eth.port[q].tx = none ∧ counted 43 t ∧ counted 44 t)) ∧
  (∀ (s : State) (p : Fin 6) (g : GateEntry) (gs : List GateEntry), s.lo.gates p.val = g :: gs →
    let k := (s.lnd.entry[p]).toNat + 1
    let n := gs.length + 1
    let e := if k < n then k else 0
    let c := if k < n then s.lnd.cycle[p] else s.lnd.cycle[p] + 1
    let at_ := s.tb.stroke.cyc0 + 4 * (c * s.lo.gateCycle p.val + ((g :: gs)[e]?.elim 0 (·.start)))
    s.InStroke at_ → Completes (.gateEntryChange p) s (fun t =>
      t.lnd.entry[p] = BitVec.ofNat 6 e ∧ t.lnd.cycle[p] = c ∧ t.lnd.turn[p] = (if k < n then s.lnd.turn[p] else s.lnd.turn[p] + 1) ∧ t.tb.clk.cycles = max at_ s.tb.clk.cycles))

/-! CAN. -/

/-- Transmission on CAN (14 R517, R534-R539, R545): requests with their results, aborts, the start, the success (in a loop mode with the frame
received too), a lost arbitration, a missed window. Where the manual is silent it takes the model's choices of the assumption log, 92, 178, 179. -/
def Obligations.CanTransmission : Prop :=
  (∀ (s : State) (a : Agent) (c : Fin 4) (b : Fin 128), s.heard a (48 + c.val / 2) = true →
    let h := s.canHdr c b
    let dir := (h 1).extractLsb' 18 2
    let txs := (h 0).extractLsb' 10 3
    let waits := txs = 1 ∨ txs = 4
    let keeps (t : State) : Prop := t.loft = s.loft
    (agentCode a = s.lo.canOwnerCode c →
      (dir ≠ 2 → Completes (.canTxRequest a c b) s (fun t => t.can[c].txres = 1 ∧ keeps t)) ∧
      (dir = 2 → (waits ∨ txs = 2) → Completes (.canTxRequest a c b) s (fun t => t.can[c].txres = 2 ∧ keeps t)) ∧
      (dir = 2 → ¬waits → txs ≠ 2 → (h 1).getLsbD 17 = true → s.can[c].mode.getLsbD 8 = false →
        Completes (.canTxRequest a c b) s (fun t => t.can[c].txres = 3 ∧ keeps t)) ∧
      (s.requestResult c b = 4 → Completes (.canTxRequest a c b) s (fun t => t.can[c].txres = 4 ∧ keeps t)) ∧
      (s.requestResult c b = 0 → Completes (.canTxRequest a c b) s (fun t => t.can[c].txres = 0 ∧ t.canHdr c b 0 = withTxs (h 0) 1)) ∧
      (waits → Completes (.canTxAbort a c b) s (fun t => t.canHdr c b 0 = withTxs (h 0) 6)) ∧
      (∀ x, ¬waits → s.can[c].tx = some x → x.buf = b → Completes (.canTxAbort a c b) s (fun t =>
        t.can[c].tx = some { x with abort := true } ∧ keeps t)) ∧
      (∀ v : Word, v.getLsbD 8 = false → v.toNat % 128 = b.val → Completes (.canAck a c v) s (fun t =>
        t.canHdr c b 0 = if (h 0).extractLsb' 15 4 = v.extractLsb' 16 4 then h 0 &&& 0x7DFFF else h 0)) ∧
      (∀ (v : Word) (k : Fin 4), v.getLsbD 8 = true → v.toNat % 4 = k.val →
        let w := s.can[c].hpm[k][0]
        Completes (.canAck a c v) s (fun t =>
          t.can[c].hpm[k][0] = (if w.extractLsb' 15 4 = v.extractLsb' 16 4 then w &&& 0x7DFFF else w) ∧ keeps t))) ∧
    (agentCode a ≠ s.lo.canOwnerCode c → ∀ v mode, ∀ i ∈ [Instr.canTxRequest a c b, .canTxAbort a c b, .canRecover a c, .canAck a c v, .canModeWrite a c mode],
      Completes i s (fun t => keeps t ∧ t.can[c] = { s.can[c] with cnt := vset s.can[c].cnt 7 (satInc s.can[c].cnt[(7 : Fin 8)]) }))) ∧
  (∀ (s : State) (c : Fin 4) (b : Fin 128), s.canBus c = true → s.can[c].tx = none → (s.can[c].op = 1 ∨ s.can[c].op = 4 ∨ s.can[c].op = 5) →
    s.arbWinner c = some b → Completes (.canTxStart c) s (fun t =>
      t.can[c].tx = some { buf := b, frame := s.canFrame c b, stamp := s.canStamp c 0, abort := false, late := decide (s.txs c b = 4) } ∧
      t.canHdr c b 0 = withTxs (s.canHdr c b 0) 2)) ∧
  (∀ (s : State) (c : Fin 4) (x : CanTx), s.can[c].tx = some x → s.canOn c = true →
    (s.can[c].looped = true → Completes (.canTxDone c) s (fun t => t = (s.canDeliver c x.frame x.stamp).canSent c x)) ∧
    (s.can[c].looped = false → Completes (.canTxDone c) s (fun t => t.can[c].tx = none ∧ t.canHdr c x.buf 0 = withTxs (s.canHdr c x.buf 0) 3 ∧
      (∀ j, j < 4 → t.canHdr c x.buf (8 + j) = word80 x.stamp j) ∧ t.can[c].cnt[(2 : Fin 8)] = satInc s.can[c].cnt[(2 : Fin 8)] ∧
      t.can[c].tecC = (if s.can[c].op = 2 ∨ s.can[c].tecC = 0 then s.can[c].tecC else s.can[c].tecC - 1) ∧
      t.sent = .can c x.buf x.frame :: s.sent ∧ t.evt.status.getLsbD (64 + 8 * c.val + 5) = true)) ∧
    Completes (.canArbitrationLoss c) s (fun t => t.can[c].tx = none ∧ t.can[c].cnt[(3 : Fin 8)] = satInc s.can[c].cnt[(3 : Fin 8)] ∧
      t.canHdr c x.buf 0 = withTxs (s.canHdr c x.buf 0) (if x.abort then 6 else if x.late then 4 else 1))) ∧
  (∀ (s : State) (c : Fin 4) (b : Fin 128), s.canOn c = true → s.isAt c b = true → s.tb.stroke.running = true → s.canDir c b = 2 →
    memRead none s.can[c].missed b.val ≠ some s.tb.stroke.count →
    (s.txs c b = 1 → (s.canHdr c b 1).getLsbD 16 = false → Completes (.canWindowMiss c b) s (fun t =>
      t.canHdr c b 0 = withTxs (s.canHdr c b 0) 4 ∧ memRead none t.can[c].missed b.val = some s.tb.stroke.count ∧
      t.can[c].cnt[(5 : Fin 8)] = satInc s.can[c].cnt[(5 : Fin 8)] ∧ t.evt.status.getLsbD (64 + 8 * c.val + 7) = true)) ∧
    (((s.txs c b = 1 ∧ (s.canHdr c b 1).getLsbD 16 = true) ∨ s.txs c b = 4) →
      Completes (.canWindowMiss c b) s (fun t => t.canHdr c b 0 = withTxs (s.canHdr c b 0) 5 ∧
        t.can[c].cnt[(5 : Fin 8)] = satInc s.can[c].cnt[(5 : Fin 8)] ∧ t.evt.status.getLsbD (64 + 8 * c.val + 7) = true)))

/-- Reception, errors and modes of CAN (14 R519-R521, R527, R530, R531, R546-R549): where a valid frame goes and what its buffer then holds, what a
bus error records, recovery, and the passage between INIT and the operating modes. Where the manual is silent it takes the model's choices of the
assumption log, 25, 84, 92, 178, 179. -/
def Obligations.CanReceptionAndModes : Prop :=
  (∀ (s : State) (c : Fin 4) (f : CanFrame) (ago : Nat), s.canBus c = true → s.can[c].looped = false → (f.fdf = true → s.can[c].mode.getLsbD 4 = true) →
    (f.xlf = true → s.can[c].mode.getLsbD 5 = true) →
    (s.canTarget c f = .discard → Completes (.canFrameValid c f ago) s (fun t => t.loft = s.loft ∧ t.can[c].cnt[(0 : Fin 8)] = s.can[c].cnt[(0 : Fin 8)])) ∧
    (∀ b fil, s.canTarget c f = .buffer b fil →
      let h := s.canHdr c b
      let data := canData f
      let takes := s.canDir c b = 1 ∧ s.usable c b = true ∧ data.length ≤ s.dataWords c b ∧ ((h 0).getLsbD 19 = false ∨ (h 1).getLsbD 15 = true)
      (takes → Completes (.canFrameValid c f ago) s (fun t =>
        (t.canHdr c b 0).getLsbD 19 = true ∧ (t.canHdr c b 0).extractLsb' 15 4 = (h 0).extractLsb' 15 4 + 1 ∧
        (t.canHdr c b 0).getLsbD 13 = ((h 0).getLsbD 13 || (h 0).getLsbD 19) ∧
        (∀ j, j < 9 → t.canHdr c b (3 + j) = (canHeader f fil (s.canStamp c ago)).getD j 0) ∧
        (∀ i, i < data.length → t.canWord c (s.dataPtr c b + i) = data.getD i 0) ∧
        t.can[c].cnt[(0 : Fin 8)] = satInc s.can[c].cnt[(0 : Fin 8)] ∧ t.evt.status.getLsbD (64 + 8 * c.val + 4) = true)) ∧
      (¬takes → Completes (.canFrameValid c f ago) s (fun t => t.canHdr c b 0 = h 0 ||| 0x02000 ∧
        t.can[c].cnt[(1 : Fin 8)] = satInc s.can[c].cnt[(1 : Fin 8)] ∧ ∀ j, 0 < j → j < 12 → t.canHdr c b j = h j))) ∧
    (∀ k i, s.canTarget c f = .hpm k i → s.can[c].hpm[k][0].getLsbD 19 = false → (canData f).length ≤ 32 →
      Completes (.canFrameValid c f ago) s (fun t => t.loft = s.loft ∧ t.can[c].hpm[k][0].getLsbD 19 = true ∧
        (∀ j : Fin 44, 3 ≤ j.val → j.val < 12 → t.can[c].hpm[k][j] = (canHeader f (some i) (s.canStamp c ago)).getD (j.val - 3) 0) ∧
        (∀ j : Fin 44, 12 ≤ j.val → j.val - 12 < (canData f).length → t.can[c].hpm[k][j] = (canData f).getD (j.val - 12) 0) ∧
        t.evt.status.getLsbD (64 + 8 * c.val + k.val) = true))) ∧
  (∀ (s : State) (c : Fin 4) (ty : BitVec 3) (ph : BitVec 2) (tec rec : Nat), s.canBus c = true →
    Completes (.canBusError c ty ph tec rec) s (fun t => t.can[c].errType = ty ∧ t.can[c].errPhase = ph ∧ t.can[c].tx = none ∧
      t.can[c].cnt[(4 : Fin 8)] = satInc s.can[c].cnt[(4 : Fin 8)] ∧
      (s.can[c].op ≠ 2 → t.can[c].tecC.toNat = min tec 511 ∧ t.can[c].recC.toNat = min rec 255 ∧
        (255 < tec → t.can[c].st = if s.can[c].mode.getLsbD 9 then .busOff else .recovering) ∧
        (tec ≤ 255 → (128 ≤ tec ∨ 128 ≤ rec) → t.can[c].st = .errorPassive) ∧
        (tec < 128 → rec < 128 → (96 ≤ tec ∨ 96 ≤ rec) → t.can[c].st = .warning) ∧
        (tec < 96 → rec < 96 → t.can[c].st = .errorActive)) ∧
      ∀ x, s.can[c].tx = some x → t.canHdr c x.buf 0 = withTxs (s.canHdr c x.buf 0)
        (if x.abort then 6 else if (s.canHdr c x.buf 1).getLsbD 15 then 7 else if x.late then 4 else 1))) ∧
  (∀ (s : State) (a : Agent) (c : Fin 4), s.heard a (48 + c.val / 2) = true → agentCode a = s.lo.canOwnerCode c →
    (s.can[c].st = .busOff → Completes (.canRecover a c) s (fun t => t.can[c].st = .recovering ∧ t.evt.status.getLsbD (64 + 8 * c.val + 6) = true)) ∧
    (∀ v : BitVec 32,
      let op := v.toNat % 8
      ((op = 0 ∨ 5 < op) → Completes (.canModeWrite a c v) s (fun t => t.can[c].op = 0 ∧ t.can[c].tx = none ∧ t.can[c].joined = false)) ∧
      (s.can[c].op = 0 → 1 ≤ op → op ≤ 5 →
        let m : BitVec 13 := v.setWidth 13 &&& 0x1770
        (s.can[c].badTiming m = false → Completes (.canModeWrite a c v) s (fun t =>
          t.can[c].mode = m ||| BitVec.ofNat 13 op ∧ t.can[c].cfgErr = false ∧ t.can[c].joined = false)) ∧
        (s.can[c].badTiming m = true → Completes (.canModeWrite a c v) s (fun t => t.can[c].mode = m ∧ t.can[c].cfgErr = true))))) ∧
  (∀ (s : State) (c : Fin 4), s.canOn c = true →
    (s.can[c].st = .recovering → Completes (.canRecoveryDone c) s (fun t => t.can[c].st = .errorActive ∧ t.can[c].tecC = 0 ∧ t.can[c].recC = 0)) ∧
    (s.can[c].op ≠ 0 → Completes (.canBusIntegration c) s (fun t => t.can[c] = { s.can[c] with joined := true })))

/-! Two-wire bus. -/

/-- Controller transfers on the two-wire bus (16 R589, R592-R598, R602-R608): descriptors, starts, results with the PEC's check, a lost arbitration,
holds, timeouts and recovery. Where the manual is silent it takes the model's choices of the assumption log, 88. -/
def Obligations.TwoWireTransfers : Prop :=
  (∀ (s : State) (a : Agent) (b : Fin 3), s.heard a 50 = true →
    let x := s.twb[b]
    (s.lo.twbOwnerCode b = agentCode a →
      (∀ v : Word, x.queue.length < 4 → Completes (.twbXfer a b v) s (fun t => t.twb[b] = { x with queue := x.queue ++
        [{ rd := x.xaddr.getLsbD 11, ten := x.xaddr.getLsbD 10, addr := x.xaddr.setWidth 10, pec := v.getLsbD 9, stop := v.getLsbD 8, len := v.setWidth 8 }] })) ∧
      (∀ v : Word, 4 ≤ x.queue.length → Completes (.twbXfer a b v) s (fun t => t.twb[b].queue = x.queue ∧ t.twb[b].cnt[(3 : Fin 5)] = satInc x.cnt[(3 : Fin 5)])) ∧
      (∀ v : Octet, x.stretch = none →
        (x.txd.length < 32 → Completes (.twbTxdPush a b v) s (fun t => t.twb[b] = { x with txd := x.txd ++ [v] })) ∧
        (32 ≤ x.txd.length → Completes (.twbTxdPush a b v) s (fun t => t.twb[b].txd = x.txd ∧ t.twb[b].cnt[(3 : Fin 5)] = satInc x.cnt[(3 : Fin 5)]))) ∧
      (∀ o os, x.stretch = none → x.rxd = o :: os → Completes (.twbRxdPop a b) s (fun t => t.rd = [o.setWidth 32] ∧ t.twb[b] = { x with rxd := os })) ∧
      (x.rxd = [] → Completes (.twbRxdPop a b) s (fun t => t.rd = [0x80000] ∧ t.twb = s.twb)) ∧
      Completes (.twbRecover a b) s (fun t => t.twb[b] = { x with recover := true }) ∧
      Completes (.twbFlush a b) s (fun t => t.twb[b].txd = [] ∧
        (x.role = .idle → t.twb[b].queue = [] ∧ t.twb[b].holds = false ∧ t.twb[b].attnGo = false))) ∧
    (s.lo.twbOwnerCode b ≠ agentCode a → ∀ v o, ∀ i ∈ [Instr.twbXfer a b v, .twbTxdPush a b o, .twbTtxPush a b o, .twbRecover a b, .twbFlush a b, .alertSet a b,
        .alertClr a b, .attnGo a b],
      Completes i s (fun t => t.twb[b] = { x with cnt := vset x.cnt 4 (satInc x.cnt[(4 : Fin 5)]) }))) ∧
  (∀ (s : State) (b : Fin 3), s.twbOn = true →
    let x := s.twb[b]
    let event (t : State) : Prop := t.evt.status.getLsbD (104 + b.val) = true
    let reports (count status : Nat) (t : State) : Prop := x.res.queue.length < 8 →
      t.twb[b].res.queue = x.res.queue ++ [BitVec.ofNat 14 (count % 512 * 16 + status)]
    (x.role = .idle → x.recover = false → x.res.queue.length < 8 → (x.attnGo = false ∨ x.holds = true) →
      ∀ d q, x.queue = d :: q → Completes (.twbTransferStart b) s (fun t =>
        t.twb[b] = { x with role := .controller false, crc := pec (if x.holds then x.crc else 0) (addressOctets d.ten d.rd x.holds d.addr) })) ∧
    (x.role = .idle → x.recover = false → x.res.queue.length < 8 → x.attnGo = true → x.holds = false → Completes (.twbTransferStart b) s (fun t =>
      t.twb[b].role = .controller true ∧ t.twb[b].queue = x.queue)) ∧
    (∀ d q, x.role = .controller false → x.stretch = none → x.ending = false → x.queue = d :: q →
      (∀ count, d.rd = false → d.len.toNat ≤ x.txd.length → count ≤ d.len.toNat → d.stop = true → Completes (.twbTransferDone b 0 count []) s (fun t =>
        t.twb[b].role = .idle ∧ t.twb[b].queue = q ∧ t.twb[b].txd = x.txd.drop count ∧ t.twb[b].holds = false ∧ t.twb[b].cause.getLsbD 0 = true ∧
        reports count 0 t ∧ event t)) ∧
      (∀ rx, d.rd = true → d.pec = false → rx.length = d.len.toNat → x.rxd.length + rx.length ≤ 32 → Completes (.twbTransferDone b 0 0 rx) s (fun t =>
        t.twb[b].role = .idle ∧ t.twb[b].queue = q ∧ t.twb[b].rxd = x.rxd ++ rx ∧ t.twb[b].holds = !d.stop ∧ reports rx.length 0 t ∧ event t)) ∧
      (∀ rx o, d.rd = true → d.pec = true → rx.length = d.len.toNat → x.rxd.length + rx.length ≤ 32 → o ≠ pec x.crc rx → q = [] →
        Completes (.twbTransferDone b 0 0 (rx ++ [o])) s (fun t => t.twb[b].role = .idle ∧ t.twb[b].rxd = x.rxd ++ rx ∧ reports rx.length 5 t ∧
          t.twb[b].cnt[(1 : Fin 5)] = satInc x.cnt[(1 : Fin 5)]))) ∧
    (∀ attn seen, x.role = .controller attn → x.losses < x.retryMax → Completes (.twbArbitrationLoss b false seen) s (fun t =>
      t.twb[b].role = .idle ∧ t.twb[b].losses = x.losses + 1 ∧ t.twb[b].queue = x.queue ∧ t.twb[b].cnt[(0 : Fin 5)] = satInc x.cnt[(0 : Fin 5)])) ∧
    (∀ d seen, x.role = .controller false → x.retryMax ≤ x.losses → x.ending = false → x.queue = [d] → Completes (.twbArbitrationLoss b false seen) s (fun t =>
      t.twb[b].role = .idle ∧ t.twb[b].losses = 0 ∧ t.twb[b].queue = [] ∧ reports 0 3 t)) ∧
    (x.holds = true → x.role = .idle → x.queue = [] → s.Before (x.holdCyc + 500000) → Completes (.twbHoldStop b) s (fun t =>
      t.twb[b].holds = false ∧ t.twb[b].cause.getLsbD 4 = true ∧ event t)) ∧
    (∀ d, x.timeoutEn = true → x.role = .controller false → x.ending = false → x.stretch = none → x.queue = [d] → Completes (.twbTimeout b) s (fun t =>
      t.twb[b].role = .idle ∧ t.twb[b].queue = [] ∧ reports 0 4 t ∧ t.twb[b].cnt[(2 : Fin 5)] = satInc x.cnt[(2 : Fin 5)])) ∧
    (x.timeoutEn = true → x.role = .target → Completes (.twbTimeout b) s (fun t =>
      t.twb[b].role = .idle ∧ t.twb[b].tlast = 3 ∧ t.twb[b].cause.getLsbD 1 = true ∧ event t)) ∧
    (x.role = .idle → x.holds = false → Completes (.twbStuck b) s (fun t =>
      t.twb[b].cause.getLsbD 3 = true ∧ t.twb[b].recover = (x.autoRecover || x.recover) ∧ event t)) ∧
    (x.recover = true → x.queue = [] → ∀ high, Completes (.twbRecoveryEnd b high) s (fun t => t.twb[b] = { x with recover := false, holds := false })) ∧
    (∀ d, x.recover = true → x.queue = [d] → Completes (.twbRecoveryEnd b false) s (fun t =>
      t.twb[b].recover = false ∧ t.twb[b].queue = [] ∧ t.twb[b].role = .idle ∧ reports 0 6 t)))

/-- Targets, ALERT and attention messages on the two-wire bus (16 R599-R601, R605, R609-R612): what a target stores and gives, what ends its transfer,
the ALERT line, messages received and read once. Where the manual is silent it takes the model's choices of the assumption log, 88, 180. -/
def Obligations.TwoWireTargets : Prop :=
  (∀ (s : State) (b : Fin 3), s.twbOn = true →
    let x := s.twb[b]
    let event (t : State) : Prop := t.evt.status.getLsbD (104 + b.val) = true
    (x.targetEn = true → x.role = .idle → x.stretch = none → ∀ (ten : Bool) (addr : BitVec 10) (i : Fin 2), x.slotOf ten addr = some i →
      (∀ o os, x.alertLow = false → twbSlotPec x.taddr[i] = false → x.trx.length + (o :: os).length ≤ 32 →
        Completes (.twbTargetTransfer b ten addr false (o :: os) 0) s (fun t =>
          t.twb[b].role = .idle ∧ t.twb[b].tlast = 1 ∧ t.twb[b].cause.getLsbD 1 = true ∧ event t ∧
          t.twb[b].trx = x.trx ++ trxEntries i false (o :: os))) ∧
      (∀ n, x.alertLow = false → n ≤ x.ttx.length → Completes (.twbTargetTransfer b ten addr true [] n) s (fun t =>
        t.twb[b].role = .idle ∧ t.twb[b].tlast = 1 ∧ t.twb[b].ttx = x.ttx.drop n ∧ event t)) ∧
      (∀ n, x.alertLow = false → x.ttx.length < n → Completes (.twbTargetTransfer b ten addr true [] n) s (fun t =>
        t.twb[b].role = .target ∧ t.twb[b].ttx = [] ∧ t.twb[b].stretch = some (.targetRead (n - x.ttx.length))))) ∧
    (x.targetEn = true → x.role = .idle → x.stretch = none → x.alertLow = true → ∀ os n, Completes (.twbTargetTransfer b false 0x00C true os n) s (fun t =>
      t.twb[b].alertLow = false ∧ t.twb[b].tlast = 1)) ∧
    (x.timeoutEn = true → x.role = .target → x.stretch.isSome = true → Completes (.twbStretchTimeout b) s (fun t =>
      t.twb[b].role = .idle ∧ t.twb[b].stretch = none ∧ t.twb[b].tlast = 2 ∧ t.twb[b].cause.getLsbD 1 = true ∧ event t)) ∧
    ((s.lo.pinOf 3 b.val 2).isSome = true → Completes (.twbAlertIn b) s (fun t => t.twb[b].cause.getLsbD 2 = true ∧ event t)) ∧
    (x.attnRxa.getLsbD 8 = true → x.attnRxa.getLsbD 7 = false → x.role = .idle → x.stretch = none → x.attn.length < 4 →
      ∀ os, 1 ≤ os.length → os.length ≤ 4 → Completes (.twbAttentionReceive b os) s (fun t =>
        t.twb[b].attn = x.attn ++ [(false, os)] ∧ t.twb[b].cause.getLsbD 5 = true ∧ event t ∧ t.evt.status.getLsbD 107 = true)) ∧
    (x.attnRxa.getLsbD 8 = true → x.attnRxa.getLsbD 7 = true → x.role = .idle → x.stretch = none → x.attn.length < 4 →
      ∀ os o, 1 ≤ os.length → os.length ≤ 4 →
        let c := pec (pec 0 (addressOctets false false false ((x.attnRxa.setWidth 7).setWidth 10))) os
        (o = c → Completes (.twbAttentionReceive b (os ++ [o])) s (fun t => t.twb[b].attn = x.attn ++ [(true, os)] ∧ event t)) ∧
        (o ≠ c → Completes (.twbAttentionReceive b (os ++ [o])) s (fun t => t.twb[b].attn = x.attn ∧ t.twb[b].cnt[(1 : Fin 5)] = satInc x.cnt[(1 : Fin 5)] ∧
          t.twb[b].cause.getLsbD 1 = true)))) ∧
  (∀ (s : State) (a : Agent) (b : Fin 3), s.heard a 50 = true → s.lo.twbOwnerCode b = agentCode a →
    let x := s.twb[b]
    (∀ v : Octet, x.stretch = none → x.ttx.length < 32 → Completes (.twbTtxPush a b v) s (fun t => t.twb[b] = { x with ttx := x.ttx ++ [v] })) ∧
    (∀ v es, x.stretch = none → x.trx = v :: es → Completes (.twbTrxPop a b) s (fun t => t.rd = [v.setWidth 32] ∧ t.twb[b] = { x with trx := es })) ∧
    (x.trx = [] → Completes (.twbTrxPop a b) s (fun t => t.rd = [0x80000] ∧ t.twb = s.twb)) ∧
    Completes (.alertSet a b) s (fun t => t.twb[b] = { x with alertLow := true }) ∧
    Completes (.alertClr a b) s (fun t => t.twb[b] = { x with alertLow := false }) ∧
    Completes (.attnGo a b) s (fun t => t.twb[b] = { x with attnGo := true }) ∧
    (∀ pecOk m rest, x.attn = (pecOk, m) :: rest → m.length ≤ 4 → 1 ≤ m.length → Completes (.attnRxHdRead a b) s (fun t =>
      t.rd = [BitVec.ofNat 32 (2 ^ 31 + 2 ^ 9 * pecOk.toNat + 2 ^ 7 * (m.length - 1))] ∧ t.twb[b].attn = rest ∧ t.twb[b].attnLast = some (pecOk, m) ∧
      t.twb[b].attnD[0] = m.getD 1 0 ++ m.getD 0 0 ∧ t.twb[b].attnD[1] = m.getD 3 0 ++ m.getD 2 0)) ∧
    (x.attn = [] → Completes (.attnRxHdRead a b) s (fun t => t.twb = s.twb ∧ ∃ v : BitVec 32, t.rd = [v] ∧ v.getLsbD 31 = false)))

/-! The host and its windows. -/

/-- Register accesses by any agent that the unit hears (00 R9, R10, R13; 17 R646, R647, R649): a written value, its limits, a read that latches the
other word of a pair, a result register consumed by its read, and offsets that name nothing. Where the manual is silent it takes the model's choices
of the assumption log, 133, 134. -/
def Obligations.RegisterAccesses : Prop :=
  (∀ (s : State) (a : Agent), (a = .host ∨ a = .warden) → s.reaches a = true → s.islandOn 54 = true →
    (∀ v : BitVec 32,
      Completes (.registerWrite a 0x1060 v) s (fun t =>
        t.tb.regs.holdMs = (if v.extractLsb' 16 16 = 0 then 1 else v.extractLsb' 16 16) ∧
        t.tb.regs.logIvl = (let k : BitVec 4 := v.extractLsb' 12 4
          if k.toInt < -7 then -7 else if 3 < k.toInt then 3 else k) ∧ t.tb.regs.limit = s.tb.regs.limit) ∧
      Completes (.registerWrite a 0x1064 v) s (fun t =>
        t.tb.regs.limit = (if v.extractLsb' 0 20 = 0 then 1 else v.extractLsb' 0 20) ∧ t.tb.regs.holdMs = s.tb.regs.holdMs) ∧
      (agentCode a ≠ s.lo.owner → Completes (.registerWrite a 0x1044 v) s (fun t =>
        t.tb.clk = s.tb.clk ∧ t.tb.regs.foreign = satInc s.tb.regs.foreign)) ∧
      (∀ off, (off = 0x3000 ∨ off = 0x16000 ∨ off = 0x2CC00 ∨ 0x40000 ≤ off) → Completes (.registerWrite a off v) s (fun t =>
        t.tb = s.tb ∧ t.lay = s.lay ∧ t.gal = s.gal ∧ t.eth = s.eth ∧ t.lnd = s.lnd ∧ t.grd = s.grd ∧ t.can = s.can ∧ t.trd = s.trd ∧ t.twb = s.twb ∧
        t.chu = s.chu ∧ t.sec = s.sec ∧ t.upd = s.upd ∧ t.pwr = s.pwr ∧ t.loft = s.loft))) ∧
    Completes (.latchedRead a 0x1014) s (fun t =>
      t.rd = [(s.tb.stroke.count.extractLsb' 0 20).setWidth 32] ∧ t.latched (readerOf a) 0x1018 = (s.tb.stroke.count.extractLsb' 20 20).setWidth 32 ∧
      t.tb = s.tb) ∧
    Completes (.latchedRead a 0x1018) s (fun t => t.rd = [s.latched (readerOf a) 0x1018] ∧ t.tb = s.tb) ∧
    Completes (.latchedRead a 0x40000) s (fun t => t.rd = [0])) ∧
  (∀ (s : State) (a : Agent), (a = .host ∨ a = .warden) → s.reaches a = true →
    let r := s.eth.mdio.res
    Completes (.resultRead a 0x10F1C) s (fun t =>
      (r.valid = true → t.rd = [0x80000000 ||| r.data.setWidth 32]) ∧ (r.valid = false → r.rep = true → t.rd = [0x40000000 ||| r.data.setWidth 32]) ∧
      (r.valid = false → r.rep = false → t.rd = [0]) ∧ t.eth.mdio.res = { r with valid := false, rep := r.valid || r.rep })) ∧
  (∀ (s : State) (n : Fin 16) (off : Nat) (v : BitVec 32), (off < 0x1000 ∨ (0x2000 ≤ off ∧ off < 0x20000)) →
    exec (.registerWrite (.hewer n) off v) s = .next s)

/-- Quad SPI and the parallel bus (17 R634-R642): what is read and refused, the status octet, halves held and committed, the write buffer; and Window
C's view of the Loft (R621). Where the manual is silent it takes the model's choices of the assumption log, 45 to 51, 53. -/
def Obligations.HostInterfaces : Prop :=
  (∀ s : State, s.busSelected 1 = true → s.host.resetting = false →
    let refused (code : BitVec 4) (t : State) : Prop := t.host.qErr = true ∧ t.host.errLast = code ∧ t.host.errCount = satInc s.host.errCount
    Completes (.qspiRead 0 3) s (fun t => t.rd = [0x00, 0x42, 0x06, 0x00]) ∧
    Completes (.qspiRead 2 3) s (fun t => refused 2 t ∧ t.rd = [0, 0, 0, 0]) ∧
    Completes (.qspiRead 0 2) s (fun t => refused 3 t ∧ t.rd = [0, 0, 0]) ∧
    (∀ p : Octet, Completes (.qspiWrite 0x10 3 [p, 0, 0, 0]) s (fun t => t.host.page = p ∧ t.host.qErr = s.host.qErr)) ∧
    (∀ os, Completes (.qspiWrite 0x800000 3 os) s (fun t => refused 5 t ∧ t.loft = s.loft)) ∧
    (∀ os, Completes (.qspiWrite 0x3FFFFF 1 os) s (fun t => refused 4 t ∧ t.gal = s.gal)) ∧
    Completes (.qspiStatus 0x05) s (fun t => t.host.qErr = false ∧
      t.rd = [BitVec.ofNat 32 (2 * s.host.qErr.toNat + (if s.host.wbuf = [] then 0 else 1))]) ∧
    (∀ op : Octet, op ≠ 0x05 → op ≠ 0x0B → op ≠ 0x02 → Completes (.qspiStatus op) s (refused 1))) ∧
  (∀ s : State, s.busSelected 2 = true → s.host.resetting = false →
    (s.host.wbuf = [] →
      Completes (.parallelRead 0) s (fun t => t.rd = [0x4200] ∧ t.host.half = 0x0006) ∧
      (∀ a : BitVec 17, a.toNat < 0x10000 → a.toNat % 4 = 2 → Completes (.parallelRead a) s (fun t => t.rd = [s.host.half.setWidth 32]))) ∧
    (∀ a d be, s.host.wbuf.length < 8 → Completes (.parallelWrite a d be) s (fun t =>
      t.host = { s.host with wbuf := s.host.wbuf ++ [{ addr := a, data := d, be := be }] })) ∧
    (∀ w ws a d be, s.host.wbuf = w :: ws → 8 ≤ s.host.wbuf.length → s.drainOne.host.wbuf = ws → Completes (.parallelWrite a d be) s (fun t =>
      t.host.wbuf = ws ++ [{ addr := a, data := d, be := be }]))) ∧
  (∀ (s : State) (w : ParWrite) (ws : List ParWrite), s.host.wbuf = w :: ws → s.host.resetting = false →
    (w.addr.toNat < 0x10000 → w.be ≠ 3 → w.be ≠ 0 → Completes .writeBufferDrain s (fun t =>
      t.host.wbuf = ws ∧ t.host.errLast = 6 ∧ t.host.errCount = satInc s.host.errCount)) ∧
    (w.addr = 0x10 → w.be = 3 → Completes .writeBufferDrain s (fun t => t.host.wbuf = ws ∧ t.host.heldLow = some (0x10, 0x10, w.data) ∧
      t.host.page = s.host.page)) ∧
    (∀ low, w.addr = 0x12 → w.be = 3 → s.host.heldLow = some (0x10, 0x10, low) → s.hostLets = true → Completes .writeBufferDrain s (fun t =>
      t.host.wbuf = ws ∧ t.host.heldLow = none ∧ t.host.page = low.setWidth 8))) ∧
  (∀ (s : State) (w : Nat), s.hostWorks = true → w < 0x80000 → s.loftOn w = true → Completes (.windowCRead (4 * w) 4) s (fun t =>
    let v := (memRead 0 s.loft w).toNat
    t.rd = [BitVec.ofNat 32 (v % 256), BitVec.ofNat 32 (v / 256 % 256), BitVec.ofNat 32 (v / 65536), 0] ∧ t.loft = s.loft))

/-- DMA channels (17 R626-R633; 03 R113): descriptors without OWN, sends that are too short, beyond any budget, held or taken, received frames written
back, bus errors, CFG and TAIL; the link, D3hot and the H reset with its completion (R623, R652, R653). Where the manual is silent it takes the
model's choices of the assumption log, 89 to 91, 93. -/
def Obligations.DmaAndHostReset : Prop :=
  (∀ (s : State) (c : Fin 8) (info aux : BitVec 32) (os : List Octet), s.dmaOn c false = true →
    let d := s.host.dma[c]
    let len := info.toNat % 2 ^ 17
    let back (status : Nat) (t : State) : Prop :=
      t.sent.head? = some (.dma c d.head ((info &&& 0x00FE0000) ||| BitVec.ofNat 32 (status * 2 ^ 24 + len)) aux []) ∧
      t.host.dma[c].head.toNat = (d.head.toNat + 1) % 2 ^ d.ring.toNat % 4096 ∧ t.host.dma[c].done = satInc d.done ∧ t.host.dma[c].busy = false
    (info.getLsbD 31 = false → Completes (.dmaTxDescriptor c info aux os) s (fun t => t.host.dma[c] = { d with asleep := true } ∧ t.lnd = s.lnd)) ∧
    (info.getLsbD 31 = true → info.getLsbD 20 = false →
      ((len < 14 ∨ 9212 < len) → Completes (.dmaTxDescriptor c info aux os) s (fun t => back 2 t ∧ t.lnd = s.lnd)) ∧
      (14 ≤ len → len ≤ 9212 →
        ((s.lo.dma (20 + c.val)).toNat < len → Completes (.dmaTxDescriptor c info aux os) s (fun t => back 3 t ∧ t.lnd = s.lnd)) ∧
        (len ≤ (s.lo.dma (20 + c.val)).toNat →
          (s.sbu.act[(actDma c)].dma < len → d.held = false → Completes (.dmaTxDescriptor c info aux os) s (fun t =>
            t.host.dma[c] = { d with busy := true, held := true } ∧ t.sbu.cnt[(actDma c)].held = satInc s.sbu.cnt[(actDma c)].held ∧ t.lnd = s.lnd)) ∧
          (len ≤ s.sbu.act[(actDma c)].dma → s.landingOn = true → s.lnd.frames.length < 8192 → Completes (.dmaTxDescriptor c info aux os) s (fun t =>
            back 0 t ∧ t.sbu.act[(actDma c)].dma = s.sbu.act[(actDma c)].dma - len ∧ t.lnd.nextId = s.lnd.nextId + 1)))))) ∧
  (∀ (s : State) (c : Fin 8) (info aux : BitVec 32), s.dmaOn c true = true →
    let d := s.host.dma[c]
    (info.getLsbD 31 = false → Completes (.dmaRxFrame c info aux) s (fun t => t.host.dma[c] = { d with asleep := true })) ∧
    (∀ f, info.getLsbD 31 = true → s.hostHead c = some f → f.good = true → f.wait = .none → f.src < 8 → f.octets.length < 2 ^ 17 →
      let n := f.octets.length
      let back (status : Nat) (data : List Octet) (t : State) : Prop :=
        t.sent.head? = some (.dma c d.head ((info &&& 0x00FE0000) ||| BitVec.ofNat 32 (status * 2 ^ 24 + n)) (BitVec.ofNat 32 (f.src + 256 * c.val)) data) ∧
        t.host.dma[c].done = satInc d.done ∧ t.lnd.queue[(portQ 6 c)] = s.lnd.queue[(portQ 6 c)].filter (· != f.id)
      (info.toNat % 2 ^ 17 < n → Completes (.dmaRxFrame c info aux) s (back 5 [])) ∧
      (n ≤ info.toNat % 2 ^ 17 → (s.lo.dma (20 + c.val)).toNat < n → Completes (.dmaRxFrame c info aux) s (back 3 [])) ∧
      (n ≤ info.toNat % 2 ^ 17 → n ≤ (s.lo.dma (20 + c.val)).toNat → n ≤ s.sbu.act[(actDma c)].dma → Completes (.dmaRxFrame c info aux) s (back 0 f.octets)))) ∧
  (∀ (s : State) (c : Fin 8) (wb : Bool) (info aux : BitVec 32), s.host.hsel = 0 → (s.host.dma[c].en = true ∨ s.host.dma[c].busy = true) →
    Completes (.dmaBusError c wb info aux) s (fun t => t.host.dma[c].en = false ∧ t.host.dma[c].halt = true ∧ t.host.dma[c].busy = false ∧
      t.host.dma[c].done = if wb then satInc s.host.dma[c].done else s.host.dma[c].done)) ∧
  (∀ (s : State) (c : Fin 8), s.hostLets = true →
    let d := s.host.dma[c]
    (∀ v : BitVec 12, Completes (.dmaTailWrite c v) s (fun t => t.host.dma[c] = { d with tail := v, asleep := false })) ∧
    (∀ v : BitVec 32, Completes (.dmaCfgWrite c v) s (fun t => t.host.dma[c].en = v.getLsbD 31 ∧
      (d.en = false → d.busy = false → t.host.dma[c].dir = v.getLsbD 30 ∧ t.host.dma[c].vec = v.extractLsb' 16 5 ∧
        t.host.dma[c].ring = if 4 ≤ v.toNat % 16 ∧ v.toNat % 16 ≤ 12 then v.extractLsb' 0 4 else 4) ∧
      ((d.en = true ∨ d.busy = true) → t.host.dma[c].dir = d.dir ∧ t.host.dma[c].vec = d.vec ∧ t.host.dma[c].ring = d.ring)))) ∧
  (∀ s : State, s.host.hsel = 0 →
    Completes .d3hotEntry s (fun t => t = { s with host := { s.host with d3 := true } }) ∧
    Completes .d0Return s (fun t => t = { s with host := { s.host with d3 := false } }) ∧
    (∀ sp w, Completes (.pcieLinkUp sp w) s (fun t =>
      t = { s with host := { s.host with linkUp := true, linkSpeed := sp, linkWidth := w, linkWait := false } })) ∧
    Completes (.hostReset .linkDown) s (fun t => t.host.resetting = true ∧ t.host.linkWait = true ∧ t.host.linkUp = false)) ∧
  (∀ (s : State) (cause : HostResetCause),
    ((∃ v, cause = .key v ∧ v = 0x04852 ∧ s.hostLets = true) ∨ ((cause = .hotReset ∨ cause = .flr ∨ cause = .linkDown) ∧ s.host.hsel = 0)) →
    Completes (.hostReset cause) s (fun t => t.host.resetting = true ∧ t.host.ready = false ∧ t.host.page = 0 ∧ t.host.pba = 0 ∧
      (∀ c : Fin 8, t.host.dma[c] = Dma.reset) ∧ (∀ h : Fin 4, t.chu.ctx[h] = ChuteCtx.reset) ∧
      (∀ e : EventId, t.evt.route[e] = { s.evt.route[e] with pins := 0, msix := 0 }) ∧ (∀ i : Fin 16, t.gal.lease[i].held = false) ∧
      ∀ c : Fin 168, (∃ h, chanReceiver c = .ctx h) → t.chu.chan[c].st ≠ .full ∨ s.host.hsel = 3 ∨ s.host.resetting = true)) ∧
  (∀ s : State, s.host.resetting = true → s.host.linkWait = false → Completes .hostResetComplete s (fun t =>
    t.host.resetting = false ∧ t.host.ready = true ∧ t.evt.status.getLsbD 111 = true))

/-! Chutes and events. -/

/-- Chutes (18 R655-R661, R666-R669): slot words, SEND, FREE and ACK_ABORT by the channel's own ends; discarded writes are counted, and no other
channel changes. A host's notices are delivered at once; those of a Hewer are charged, or held. Where the manual is silent it takes the model's
choices of the assumption log, 17. -/
def Obligations.Chutes : Prop :=
  ∀ (s : State) (a : ChuteEnd) (c : Fin 168), s.chuteOpen a = true →
    let x := s.chu.chan[c]
    let others (t : State) : Prop := ∀ d : Fin 168, d ≠ c → t.chu.chan[d] = s.chu.chan[d]
    let misused (t : State) : Prop := t.chu.chan = s.chu.chan ∧
      (∀ h, a = .ctx h → t.chu.ctx[h].misuse = satInc s.chu.ctx[h].misuse) ∧
      (a = .warden → t.chu.wdnMisuse = satInc s.chu.wdnMisuse) ∧
      (∀ n, a = .hewer n → t.hw[n].regs.accCnt = satInc s.hw[n].regs.accCnt)
    let vector (lsrc : Vector (BitVec 6) 16) (i : Fin 16) (ipend : BitVec 32) : Prop :=
      lsrc[i].getLsbD 5 = true → ipend.getLsbD (lsrc[i].toNat % 32) = true
    (a = chanSender c →
      (∀ i v, x.st ≠ .full → Completes (.chuteSlotWrite a c i v) s (fun t =>
        t.chu.chan[c].slot[i] = v ∧ (∀ j : Fin 16, j ≠ i → t.chu.chan[c].slot[j] = x.slot[j]) ∧ t.chu.chan[c].st = x.st ∧
        t.chu.chan[c].len = x.len ∧ others t)) ∧
      (∀ i v, x.st = .full → Completes (.chuteSlotWrite a c i v) s misused) ∧
      (∀ len : BitVec 5, x.st = .empty → 1 ≤ len.toNat → len.toNat ≤ 16 →
        (s.available (chanReceiver c) = true → Completes (.chuteSend a c len) s (fun t =>
          t.chu.chan[c] = { x with st := .full, len := len } ∧ others t ∧
          (∀ h n, a = .ctx h → chanReceiver c = .hewer n → ∀ i : Fin 16, i.val = 8 + h.val →
            vector s.hw[n].eng.vec.lsrc i t.hw[n].eng.vec.ipend) ∧
          (∀ h, a = .ctx h → chanReceiver c = .warden → ∀ i : Fin 16, i.val = h.val →
            vector s.wdn.eng.vec.lsrc i t.wdn.eng.vec.ipend) ∧
          (∀ h, chanReceiver c = .ctx h → t.evt.status.getLsbD 108 = true))) ∧
        (s.available (chanReceiver c) = false → Completes (.chuteSend a c len) s (fun t =>
          t.chu.chan[c] = { x with st := .aborted, len := len } ∧ others t ∧
          (∀ n, a = .hewer n → vector s.hw[n].eng.vec.lsrc 14 t.hw[n].eng.vec.ipend) ∧
          (a = .warden → vector s.wdn.eng.vec.lsrc 6 t.wdn.eng.vec.ipend) ∧
          (∀ h, a = .ctx h → t.evt.status.getLsbD 109 = true ∧
            (∀ n, chanReceiver c = .hewer n → t.chu.ctx[h].aborted.getLsbD (1 + n.val) = true) ∧
            (chanReceiver c = .warden → t.chu.ctx[h].aborted.getLsbD 0 = true))))) ∧
      (∀ len : BitVec 5, (x.st ≠ .empty ∨ len = 0 ∨ 16 < len.toNat) → Completes (.chuteSend a c len) s misused) ∧
      (x.st = .aborted → Completes (.chuteAckAbort a c) s (fun t => t.chu.chan[c] = { x with st := .empty } ∧ others t)) ∧
      (x.st ≠ .aborted → Completes (.chuteAckAbort a c) s misused)) ∧
    (a = chanReceiver c →
      (x.st = .full → Completes (.chuteFree a c) s (fun t =>
        t.chu.chan[c] = { x with st := .empty } ∧ others t ∧ (∀ k, HeldDelivery.bell c k ∉ t.sbu.heldq) ∧
        (∀ h n, a = .ctx h → chanSender c = .hewer n → vector s.hw[n].eng.vec.lsrc 13 t.hw[n].eng.vec.ipend) ∧
        (∀ h, a = .ctx h → chanSender c = .warden → vector s.wdn.eng.vec.lsrc 5 t.wdn.eng.vec.ipend) ∧
        (∀ n h, a = .hewer n → chanSender c = .ctx h → t.evt.status.getLsbD 110 = true ∧
          (s.freedCost c ≤ s.sbu.act[(actHewer n)].events → (∀ y ∈ s.sbu.heldq, y.act ≠ actHewer n) →
            t.chu.ctx[h].freed.getLsbD (1 + n.val) = true ∧
            t.sbu.act[(actHewer n)].events = s.sbu.act[(actHewer n)].events - s.freedCost c) ∧
          (s.sbu.act[(actHewer n)].events < s.freedCost c → HeldDelivery.freed c (actHewer n) ∈ t.sbu.heldq ∧
            t.chu.ctx[h].freed = s.chu.ctx[h].freed)))) ∧
      (x.st ≠ .full → Completes (.chuteFree a c) s misused)) ∧
    (a ≠ chanSender c → ∀ i v len, Completes (.chuteSlotWrite a c i v) s (fun t => t.chu = s.chu) ∧
      Completes (.chuteSend a c len) s (fun t => t.chu = s.chu) ∧ Completes (.chuteAckAbort a c) s (fun t => t.chu = s.chu)) ∧
    (a ≠ chanReceiver c → Completes (.chuteFree a c) s (fun t => t.chu = s.chu))

/-- The event router (18 R675-R677, R681; 17 R623, R624): each agent writes its own part of a route and no other route changes; status bits written 1
clear, counts clear together; a waiting MSI-X message goes out unless its entry is masked or the function sleeps. Where the manual is silent it takes
the model's choices of the assumption log, 135. -/
def Obligations.EventRouter : Prop :=
  (∀ (s : State) (e : EventId) (v : BitVec 32), s.awake = true →
    let r := s.evt.route[e]
    let only (q : EvRoute) (t : State) : Prop := t.evt.route[e] = q ∧ ∀ f : EventId, f ≠ e → t.evt.route[f] = s.evt.route[f]
    (∀ a : Agent, (a = .warden ∨ (a = .host ∧ s.hostLets = true)) →
      Completes (.eventRouteWrite a e .pins v) s (only { r with pins := v.extractLsb' 0 4 }) ∧
      Completes (.eventRouteWrite a e .msix v) s (only { r with msix := v }) ∧
      (∀ k : Fin 4, Completes (.eventStatusClear a k v) s (fun t =>
        (∀ i : Fin 32, v.getLsbD i.val = true → t.evt.status.getLsbD (32 * k.val + i.val) = false) ∧
        (a = .warden → t.evt.status = s.evt.status &&& ~~~(v.setWidth 128 <<< (32 * k.val))))) ∧
      Completes (.eventCountClear a) s (fun t => ∀ f : EventId, t.evt.count[f] = 0)) ∧
    Completes (.eventRouteWrite .warden e .wdn v) s (only { r with wdn := v }) ∧
    (∀ n : Fin 16, Completes (.eventRouteWrite (.hewer n) e .hewer v) s (fun t =>
      only { r with hewers := t.evt.route[e].hewers } t ∧ t.evt.route[e].hewers[n] = v.extractLsb' 0 6 ∧
      ∀ m : Fin 16, m ≠ n → t.evt.route[e].hewers[m] = r.hewers[m])) ∧
    (∀ a part, (part = .wdn ∧ a ≠ .warden) ∨ (part = .hewer ∧ ∀ n, a ≠ .hewer n) ∨ ((part = .pins ∨ part = .msix) ∧ ∃ n, a = .hewer n) →
      Completes (.eventRouteWrite a e part v) s (fun t => t.evt.route = s.evt.route))) ∧
  (∀ (s : State) (v : Fin 32), s.host.hsel = 0 → s.host.resetting = false → s.host.d3 = false →
    (s.host.pba.getLsbD v.val = true → s.host.msix[v].mask = false → Completes (.msixMessage v) s (fun t =>
      t.sent = .msix v :: s.sent ∧ t.host.pba.getLsbD v.val = false ∧
      ∀ w : Fin 32, w ≠ v → t.host.pba.getLsbD w.val = s.host.pba.getLsbD w.val)) ∧
    ((s.host.pba.getLsbD v.val = false ∨ s.host.msix[v].mask = true) → Completes (.msixMessage v) s (fun t => t = s)) ∧
    Completes (.msixMessage v) { s with host := { s.host with d3 := true } } (fun t => t.sent = s.sent ∧ t.host.pba = s.host.pba))

/-! The Warden: commands, flash, restarts. -/

/-- Commands to the Warden (19 R713, R714, R716, R717, R721; 20 R733-R735): what is answered to each, the channel freed first, NOT_ALLOWED without a
session, and no command taken while a response waits. Where the manual is silent it takes the model's choices of the assumption log, 18, 19, 28, 109.
-/
def Obligations.ManagementCommands : Prop :=
  (∀ (s : State) (src : CmdSource) (tag : BitVec 8), s.Takes src →
    let trial := s.upd.trial.any fun t => t.act.type == 0
    Completes (.status src tag) s (fun t => t.Answers src tag 1 0
      [(0#14 ++ (if s.flash.big then 2#2 else 1#2) ++ 1#4 : BitVec 20), s.wdn.version,
        BitVec.ofNat 20 (s.wdn.slot.toNat + 2 * trial.toNat + 4 * s.wdn.session.toNat),
        s.flash.seq.extractLsb' 0 20, s.flash.seq.extractLsb' 20 20, s.wdn.restart.count.setWidth 20, s.lo.id, s.lo.rev]) ∧
    (∀ key, Completes (.systemReset src tag key) s (fun t =>
      t.Answers src tag 2 (if key = 0x57A5E then 0 else 1) [] ∧ t.pwr = s.pwr ∧
      ∀ h, src = .ctx h → s.chu.chan[(wardenIn h.val)].st = .full → t.queued = s.queued ++
        [.free h, .response src [(tag ++ 2#12 : BitVec 20), if key = 0x57A5E then 0 else 1]])) ∧
    (∀ seq, (∀ r, s.flash.logFind seq.toNat = some r → Completes (.logRead src tag seq) s (fun t =>
        t.Answers src tag 0x30 (if recordSeq r = seq.toNat then 0 else 1) ((r.drop 1).take 14))) ∧
      (s.flash.logFind seq.toNat = none → Completes (.logRead src tag seq) s (fun t => t.Answers src tag 0x30 2 []))) ∧
    (Completes (.sensorRead src tag 0) s (fun t => t.Answers src tag 0x40 0 (s.wdn.sens.temp.toList.map (·.signExtend 20))) ∧
      Completes (.sensorRead src tag 1) s (fun t =>
        t.Answers src tag 0x40 0 (s.wdn.sens.vin.setWidth 20 :: s.wdn.sens.iin.setWidth 20 :: s.wdn.sens.rail.toList.map fun r => r.mv.setWidth 20)) ∧
      Completes (.sensorRead src tag 2) s (fun t => t.Answers src tag 0x40 0 [BitVec.ofNat 20 (2 ^ 16 * (s.wdn.sens.ppm.toNat % 16) + s.wdn.sens.clkOk.toNat), s.wdn.sens.ppm.signExtend 20]) ∧
      Completes (.sensorRead src tag 3) s (fun t => t.Answers src tag 0x40 1 [])) ∧
    Completes (.snapshot src tag) s (fun t =>
      t.Answers src tag 0x60 0 [s.tb.stroke.count.extractLsb' 0 20] ∧ t.eth.snapStroke = s.tb.stroke.count.extractLsb' 0 20 ∧
      (∀ p : Fin 6, t.eth.port[p].tally = s.eth.port[p].tally.snapshot false) ∧ t.evt.status.getLsbD 59 = true) ∧
    (∀ code : BitVec 12, (code = 0 ∨ (2 < code.toNat ∧ code.toNat < 0x10) ∨ 0x70 < code.toNat) →
      Completes (.commandUnknown src tag code) s (fun t => t.Answers src tag code 0x80 [])) ∧
    (∀ i : BitVec 6,
      (i.toNat ≤ 55 → Completes (.islandClaim src tag i) s (fun t =>
        t.Answers src tag 0x50 0 [] ∧ t.sec.claim.getLsbD i.toNat = true ∧
        ∀ k, k ≠ i.toNat → t.sec.claim.getLsbD k = s.sec.claim.getLsbD k)) ∧
      (55 < i.toNat → Completes (.islandClaim src tag i) s (fun t => t.Answers src tag 0x50 1 [] ∧ t.sec = s.sec)) ∧
      (i.toNat ≤ 55 → s.sec.wclaim.getLsbD i.toNat = false → s.sec.claim.getLsbD i.toNat = true →
        Completes (.islandRelease src tag i) s (fun t => t.Answers src tag 0x51 0 [] ∧ t.sec.claim.getLsbD i.toNat = false)) ∧
      (i.toNat ≤ 55 → s.sec.wclaim.getLsbD i.toNat = true →
        Completes (.islandRelease src tag i) s (fun t => t.Answers src tag 0x51 2 [] ∧ t.sec = s.sec)) ∧
      (i.toNat ≤ 55 → s.sec.wclaim.getLsbD i.toNat = false → s.sec.claim.getLsbD i.toNat = false →
        Completes (.islandRelease src tag i) s (fun t => t.Answers src tag 0x51 3 [] ∧ t.sec = s.sec)) ∧
      (55 < i.toNat → Completes (.islandRelease src tag i) s (fun t => t.Answers src tag 0x51 1 [] ∧ t.sec = s.sec)))) ∧
  (∀ (s : State) (tag : BitVec 8), s.takesCommand .svp = true → s.wdn.session = false →
    (∀ key, Completes (.systemReset .svp tag key) s (fun t => t.Answers .svp tag 2 0x82 [])) ∧
    (∀ i, Completes (.islandClaim .svp tag i) s (fun t => t.Answers .svp tag 0x50 0x82 [] ∧ t.sec = s.sec)) ∧
    Completes (.updateConfirm .svp tag) s (fun t => t.Answers .svp tag 0x25 0x82 []) ∧
    Completes (.status .svp tag) s (fun t => ∃ results, t.Answers .svp tag 1 0 results)) ∧
  (∀ (s : State) (src : CmdSource) (tag : BitVec 8), (s.wdn.answering src = true ∨ s.wardenRuns = false) →
    (∀ key, exec (.systemReset src tag key) s = .next s) ∧ exec (.status src tag) s = .next s ∧ exec (.updateEnd src tag) s = .next s)

/-- The flash interface, STEPQ_POP and the release queue (19 R685-R690, FADDR to FSTAT; 02 R54; 03 R109; 06 R275, R280): one operation at a time, what
it leaves, and what each kind of entry does when it goes out, in order, ahead of a mark; the step queue's head goes with the release behind its
record; an entry without a beat waits. Where the manual is silent it takes the model's choices of the assumption log, 31, 33, 55, 56, 108. -/
def Obligations.FlashAndReleaseQueue : Prop :=
  (∀ s : State, s.wardenRuns = true →
    (s.wdn.fcmd = none →
      Completes .flashProgram s (fun t => t.wdn.fcmd = some (.program s.wdn.faddr.toNat (octets3 s.wdn.fbuf.toList)) ∧ t.wdn.ferror = false ∧ t.flash = s.flash) ∧
      Completes .flashErase s (fun t => t.wdn.fcmd = some (.erase (s.wdn.faddr.toNat / 4096 * 4096)) ∧ t.wdn.ferror = false ∧ t.flash = s.flash)) ∧
    (s.wdn.fcmd.isSome = true → exec .flashProgram s = .next s ∧ exec .flashErase s = .next s) ∧
    Completes .flashTakeLock s (fun t => t = { s with wdn := { s.wdn with flocked := true } }) ∧
    Completes .flashReleaseLock s (fun t => t = { s with wdn := { s.wdn with flocked := false } })) ∧
  (∀ (s : State) (o : FlashOp), s.wdn.fcmd = some o →
    Completes (.flashOperationComplete false) s (fun t => t.wdn.fcmd = none ∧ t.wdn.ferror = true ∧ t.flash = s.flash) ∧
    Completes (.flashOperationComplete true) s (fun t => t.wdn.fcmd = none ∧ t.wdn.ferror = false ∧
      (s.wdn.eng.vec.lsrc[(11 : Fin 16)].getLsbD 5 = true → t.wdn.eng.vec.ipend.getLsbD (s.wdn.eng.vec.lsrc[(11 : Fin 16)].toNat % 32) = true) ∧
      (∀ a os, o = .program a os → ∀ k, memRead 0xFF t.flash.raw k =
        if a ≤ k ∧ k < a + os.length then os.getD (k - a) 0 else memRead 0xFF s.flash.raw k) ∧
      (∀ a, o = .erase a → ∀ k, memRead 0xFF t.flash.raw k = if a ≤ k ∧ k < a + 4096 then 0xFF else memRead 0xFF s.flash.raw k))) ∧
  (∀ (s : State) (e : REntry) (q : List REntry), s.awake = true → s.wdn.relWait = false → s.wdn.relq = e :: q →
    REntry.mark ∈ q →
    let rest (t : State) : Prop := t.queued = q.dropWhile (· == .mark) ++ s.wdn.late ∧ t.wdn.relWait = false ∧
      (s.wdn.mode = .run → t.wdn.late = s.wdn.late.drop (64 - relLevel (q.dropWhile (· == .mark))))
    (e = .write (.word 0xF0026) 1 →
      Completes .stepqPop s (fun t => rest t ∧ t.tb.regs.stepq = s.tb.regs.stepq.tail) ∧
      Completes .releaseQueueRelease s (fun t => rest t ∧ t.tb.regs.stepq = s.tb.regs.stepq.tail)) ∧
    (e ≠ .mark → e ≠ .write (.word 0xF0026) 1 → exec .stepqPop s = .next s) ∧
    (∀ ws, e = .response .svp ws → Completes .releaseQueueRelease s (fun t => rest t ∧ t.sent = .svp 2 ws :: s.sent ∧ t.evt.status.getLsbD 115 = true ∧
      ((ws.getD 0 0).toNat % 4096 = 2 → ws.getD 1 0 = 0 → t.pwr.resetAt = some (s.tb.clk.cycles + 5000)))) ∧
    (∀ h ws, e = .response (.ctx h) ws → s.chu.chan[(wardenOut h.val)].st = .empty → 1 ≤ ws.length → ws.length ≤ 16 → s.available (.ctx h) = true →
      Completes .releaseQueueRelease s (fun t => rest t ∧ t.chu.chan[(wardenOut h.val)].st = .full ∧
        t.chu.chan[(wardenOut h.val)].len = BitVec.ofNat 5 ws.length ∧
        (∀ i : Fin 16, i.val < ws.length → t.chu.chan[(wardenOut h.val)].slot[i] = ws.getD i.val 0) ∧ t.evt.status.getLsbD 115 = true)) ∧
    (∀ h ws, e = .response (.ctx h) ws → s.chu.chan[(wardenOut h.val)].st = .empty → s.available (.ctx h) = false →
      1 ≤ ws.length → ws.length ≤ 16 → Completes .releaseQueueRelease s (fun t => rest t ∧ t.chu.chan[(wardenOut h.val)].st = .empty)) ∧
    (∀ h, e = .free h → s.chu.chan[(wardenIn h.val)].st = .full → Completes .releaseQueueRelease s (fun t =>
      rest t ∧ t.chu.chan[(wardenIn h.val)].st = .empty)) ∧
    (∀ k ws, e = .message k ws → Completes .releaseQueueRelease s (fun t => rest t ∧ t.sent = .svp k ws :: s.sent)) ∧
    (∀ k, e = .fuse (.revoke k) → Completes .releaseQueueRelease s (fun t =>
      rest t ∧ t.flash.revoked.getLsbD k.val = true ∧ t.flash.pkDisabled = s.flash.pkDisabled)) ∧
    (∀ k, e = .fuse (.pkey k) → Completes .releaseQueueRelease s (fun t =>
      rest t ∧ t.flash.pkDisabled.getLsbD k.val = true ∧ t.flash.revoked = s.flash.revoked)) ∧
    (∀ type arg time sync p, e = .log type arg time sync p → s.flash.record < 84 → p.length ≤ 7 → Completes .releaseQueueRelease s (fun t =>
      let r := memRead [] t.flash.log (85 * s.flash.sector.toNat + s.flash.record)
      rest t ∧ t.wdn.logSector = t.flash.sector ∧ t.flash.seq = s.flash.seq + 1 ∧ t.flash.record = s.flash.record + 1 ∧ t.flash.sector = s.flash.sector ∧ r.length = 16 ∧
      recordOk r = true ∧ recordSeq r = s.flash.seq.toNat ∧ r.getD 7 0 = type ++ sync ++ arg ∧
      (∀ i : Nat, i < 4 → r.getD (3 + i) 0 = time.extractLsb' (20 * i) 20) ∧ ∀ i : Nat, i < p.length → r.getD (8 + i) 0 = p.getD i 0)) ∧
    (∀ w v, e = .write (.word (BitVec.ofNat 20 (0x30000 + w))) v → w < 0x80000 → s.loftHeld w = false → s.loftOn w = true →
      0 < s.sbu.act[(actWarden)].loft → Completes .releaseQueueRelease s (fun t => rest t ∧ memRead 0 t.loft w = v ∧
        (∀ k, k ≠ w → memRead 0 t.loft k = memRead 0 s.loft k) ∧ t.sbu.act[(actWarden)].loft = s.sbu.act[(actWarden)].loft - 1)) ∧
    (∀ w v, e = .write (.word (BitVec.ofNat 20 (0x30000 + w))) v → w < 0x80000 → s.loftHeld w = false → (s.beat actWarden .loft).granted = false →
      Completes .releaseQueueRelease s (fun t => t.wdn.relq = s.wdn.relq ∧ t.wdn.relWait = true ∧ t.loft = s.loft))) ∧
  (∀ s : State, (REntry.mark ∉ s.wdn.relq ∨ s.wdn.relWait = true) → exec .releaseQueueRelease s = .next s ∧ exec .stepqPop s = .next s)

/-- Management restarts and MGMT_DOWN (19 R685, R686, R696-R703; 06 R276): what begins a restart, what it rolls back and drops, the third within a
second, and the resumption from the checkpoint. Where the manual is silent it takes the model's choices of the assumption log, 31, 119. -/
def Obligations.ManagementRestarts : Prop :=
  (∀ s : State, s.wardenRuns = true → s.lay.staging = none →
    let recent := s.wdn.restart.recent.filter fun k => decide (s.tb.clk.cycles < k + 500000000)
    let begins (cause : BitVec 4) (group : BitVec 6) (t : State) : Prop :=
      t.wdn.mode = .restart ∧ t.wdn.why = some (cause, group) ∧ t.wdn.journal = [] ∧ t.wdn.restart.recent = s.tb.clk.cycles :: recent ∧
      (s.wdn.journal = [] → t.wdn.ram = s.wdn.ram) ∧
      (∀ a old, s.wdn.journal = [.ram a old] → memRead 0 t.wdn.ram a.toNat = old ∧
        ∀ k, k ≠ a.toNat → memRead 0 t.wdn.ram k = memRead 0 s.wdn.ram k) ∧
      (REntry.mark ∉ s.wdn.relq → t.wdn.relq = []) ∧
      (∀ v q, s.wdn.relq = v ++ .mark :: q → REntry.mark ∉ q → t.wdn.relq = v ++ [.mark]) ∧
      (∀ x v, .write x v ∉ t.wdn.late ∧ .consume x ∉ t.wdn.late)
    let down (cause : BitVec 4) (t : State) : Prop :=
      t.wdn.mode = .down ∧ t.pwr.faultN = true ∧ t.evt.status.getLsbD 113 = true ∧ t.wdn.session = false ∧
      memRead 0 t.wdn.ram 0x1FFF0 = 0x47A50 ∧ memRead 0 t.wdn.ram 0x1FFF1 = cause.setWidth 20 ∧
      ∀ c : Fin 168, chanReceiver c = .warden → t.chu.chan[c].st ≠ .full
    (∀ g : Fin 48,
      (recent.length < 2 → Completes (.comparatorFlag g) s (fun t => begins 1 (BitVec.ofNat 6 g.val) t ∧ t.evt.status.getLsbD 114 = true)) ∧
      (2 ≤ recent.length → Completes (.comparatorFlag g) s (fun t => down 1 t ∧ t.evt.status.getLsbD 114 = true))) ∧
    (∀ a, Completes (.wardenRamEcc a true) s (fun t => t.evt.status.getLsbD 37 = true ∧ t.wdn.mode = .run ∧ t.wdn.ram = s.wdn.ram) ∧
      (recent.length < 2 → Completes (.wardenRamEcc a false) s (fun t => begins 4 0 t ∧ t.evt.status.getLsbD 38 = true)) ∧
      (2 ≤ recent.length → Completes (.wardenRamEcc a false) s (fun t => down 4 t ∧ t.evt.status.getLsbD 38 = true))) ∧
    (s.wdn.ageOn = true → 250000 * s.wdn.limit.toNat ≤ s.wdn.age →
      (recent.length < 2 → Completes .ckptLimitExpiry s (begins 5 0)) ∧ (2 ≤ recent.length → Completes .ckptLimitExpiry s (down 5))) ∧
    (s.wdn.ageOn = false ∨ s.wdn.age < 250000 * s.wdn.limit.toNat → exec .ckptLimitExpiry s = .next s)) ∧
  (∀ (s : State) (cause : BitVec 4) (group : BitVec 6), s.wdn.mode = .restart → s.wdn.why = some (cause, group) → s.awake = true →
    let c := s.wdn.ckpt[s.wdn.done]
    Completes (.managementRestartResume none true true) s (fun t =>
      t.wdn.mode = .run ∧ t.wdn.why = none ∧ t.wdn.age = 0 ∧ t.wdn.stPass = true ∧ t.wdn.restart.count = satInc s.wdn.restart.count ∧
      t.wdn.restart.cause = cause ∧ (cause = 1 → t.wdn.restart.group = group) ∧ t.evt.status.getLsbD 112 = true ∧
      t.wdn.eng.core.w = c.w ∧ t.wdn.eng.core.pc = c.next ∧ t.wdn.eng.core.fl = c.fl ∧ t.wdn.eng.core.ie = c.ie ∧ t.wdn.eng.core.lvl = c.lvl ∧
      ∃ p, t.queued.getLast? = some (.log 3 (cause.setWidth 10) s.time (syncCode s.tb.sync.st) p)) ∧
    (∀ d j, (d && j) = false → Completes (.managementRestartResume none d j) s (fun t => t.wdn.mode = .down ∧ t.evt.status.getLsbD 113 = true)) ∧
    (∀ g d j, Completes (.managementRestartResume (some g) d j) s (fun t =>
      t.wdn.mode = .down ∧ t.wdn.stPass = false ∧ t.wdn.stGroup = BitVec.ofNat 6 g.val)))

/-! The security island. -/

/-- Random numbers, TRNG tests and attestation (20 R747-R757): a request pends or fails, a generate call completes it, what a failing and a passing
test leave, reseeds, and the digest that a signature is made over. Where the manual is silent it takes the model's choices of the assumption log, 26,
151, 173. -/
def Obligations.RandomNumbersAndAttestation : Prop :=
  (∀ s : State, s.hostWorks = true →
    (s.sec.host.pending = false → s.sec.trng = .ok → Completes (.rngRequest .host) s (fun t => t.sec.host = { s.sec.host with pending := true })) ∧
    (s.sec.host.pending = false → s.sec.trng ≠ .ok → Completes (.rngRequest .host) s (fun t =>
      t.sec.host = { pending := false, res := { data := 0, valid := true, rep := false }, status := 1 })) ∧
    (s.sec.host.pending = true → Completes (.rngRequest .host) s (fun t => t.sec = s.sec))) ∧
  (∀ (s : State) (n : Fin 16),
    (s.sec.hewer[n].pending = false → s.sec.trng = .ok → Completes (.rngRequest (.hewer n)) s (fun t =>
      t.sec.hewer[n] = { s.sec.hewer[n] with pending := true } ∧ ∀ m : Fin 16, m ≠ n → t.sec.hewer[m] = s.sec.hewer[m])) ∧
    (s.sec.wdn.pending = false → s.sec.trng ≠ .ok → Completes (.rngRequest .warden) s (fun t =>
      t.sec.wdn = { pending := false, res := { data := 0, valid := true, rep := false }, status := 1 } ∧ t.sec.hewer = s.sec.hewer)) ∧
    (s.sec.trng = .ok → s.sec.host.pending = true → Completes (.rngResult .host) s (fun t => t.sec.calls = s.sec.calls + 1 ∧
      ∃ v, t.sec.host = { pending := false, res := { data := v, valid := true, rep := false }, status := 0 })) ∧
    (s.sec.trng = .ok → s.sec.hewer[n].pending = true → Completes (.rngResult (.hewer n)) s (fun t => t.sec.calls = s.sec.calls + 1 ∧
      ∃ v, t.sec.hewer[n] = { pending := false, res := { data := v, valid := true, rep := false }, status := 0 })) ∧
    (s.sec.trng = .ok → s.sec.wdn.pending = true → Completes (.rngResult .warden) s (fun t => t.sec.calls = s.sec.calls + 1 ∧
      ∃ v, t.sec.wdn = { pending := false, res := { data := v, valid := true, rep := false }, status := 0 })) ∧
    (∀ c, s.sec.trng ≠ .ok → exec (.rngResult c) s = .next s)) ∧
  (∀ s : State,
    (s.sec.trng ≠ .dead → ∀ (b : Bool) (bs : List Bool),
      let k := s.sec.health
      let run := if k.last = some b then k.run + 1 else 1
      let same := if k.seen = 0 then 1 else if b = k.first then k.same + 1 else k.same
      let fails (apt : Bool) (t : State) : Prop :=
        t.sec.trng = .fail ∧ t.sec.testing = true ∧ t.sec.seeding = false ∧ t.sec.fails = satInc s.sec.fails ∧ t.sec.lastApt = apt ∧
        t.sec.host.pending = false ∧ (∀ n : Fin 16, t.sec.hewer[n].pending = false) ∧ t.sec.wdn.pending = false ∧ t.sec.att = none ∧
        (s.sec.host.pending = true → t.sec.host.status = 1 ∧ t.sec.host.res.data = 0 ∧ t.sec.host.res.valid = true) ∧
        (s.sec.att.isSome = true → t.sec.attRes.data = 1 ∧ t.sec.attRes.valid = true ∧ t.sec.attSig = 0) ∧ t.evt.status.getLsbD 118 = true
      (41 ≤ run → Completes (.healthTestFail (b :: bs)) s (fails false)) ∧
      (run < 41 → 794 ≤ same → Completes (.healthTestFail (b :: bs)) s (fails true)) ∧
      (run < 41 → same < 794 → Completes (.healthTestFail [b]) s (fun t =>
        t = { s with sec := { s.sec with health := { last := some b, run := run, first := if k.seen = 0 then b else k.first,
                                                     seen := (k.seen + 1) % 1024, same := same } } } ∧
        exec (.healthTestFail (b :: bs)) s = exec (.healthTestFail bs) t))) ∧
    (s.sec.trng ≠ .dead → s.sec.testing = true → ∀ bits : List Bool, bits.length = 4096 →
      let r := s.sec.health.bits bits
      (r.2 = none → Completes (.startupTestComplete bits) s (fun t =>
        t.sec = { s.sec with health := r.1, testing := false, seeding := true, run := 0 })) ∧
      (∀ apt, r.2 = some apt →
        (s.sec.run.toNat < 7 → Completes (.startupTestComplete bits) s (fun t =>
          t.sec.trng = .fail ∧ t.sec.testing = true ∧ t.sec.run = s.sec.run + 1 ∧ t.sec.fails = satInc s.sec.fails ∧ t.sec.lastApt = apt ∧
          t.evt.status.getLsbD 118 = true)) ∧
        (7 ≤ s.sec.run.toNat → Completes (.startupTestComplete bits) s (fun t =>
          t.sec.trng = .dead ∧ t.sec.testing = false ∧ t.sec.run = 8 ∧ t.sec.fails = satInc s.sec.fails)))) ∧
    (∀ bits : List Bool, s.sec.trng = .dead → exec (.startupTestComplete bits) s = .next s ∧ exec (.healthTestFail bits) s = .next s) ∧
    (s.sec.seeding = true → Completes .reseedComplete s (fun t =>
      t.sec = { s.sec with seeding := false, trng := .ok, reseeds := satInc s.sec.reseeds, calls := 0, lastSeed := s.tb.clk.cycles })) ∧
    (s.sec.trng = .ok → (65536 ≤ s.sec.calls ∨ s.sec.lastSeed + 5000000000 ≤ s.tb.clk.cycles) → Completes .drbgReseed s (fun t =>
      t.sec = { s.sec with reseeds := satInc s.sec.reseeds, calls := 0, lastSeed := s.tb.clk.cycles }))) ∧
  (∀ (s : State) (a : Agent), s.reaches a = true →
    let flags := (s.flash.present &&& ~~~s.flash.revoked).toNat + 16 * s.sec.scope.toNat + 64 * s.flash.debugOff.toNat + 128 * s.flash.svpOff.toNat
    let block : List Word := [0x47A62, s.flash.uid.extractLsb' 0 20, s.flash.uid.extractLsb' 20 20, s.wdn.version, s.lo.id, s.lo.rev] ++
      ((s.sec.auth.toList.drop 5).take 7) ++ [BitVec.ofNat 20 flags, 0, 0]
    (s.sec.att = none → s.sec.trng = .ok → Completes (.attestationStart a) s (fun t =>
      t.sec = { s.sec with att := some (sha256 (octets3 block)) })) ∧
    (s.sec.att = none → s.sec.trng ≠ .ok → Completes (.attestationStart a) s (fun t =>
      t.sec = { s.sec with attRes := { data := 1, valid := true, rep := false }, attSig := 0 })) ∧
    (s.sec.att.isSome = true → Completes (.attestationStart a) s (fun t => t.sec = s.sec))) ∧
  (∀ (s : State) (d : BitVec 256), s.sec.att = some d → Completes .attestationComplete s (fun t => ∃ k,
    t.sec = { s.sec with att := none, attRes := { data := 0, valid := true, rep := false }, attSig := Config.ecdsaSign k d, calls := s.sec.calls + 1 }))

/-- Authenticated requests (20 R739-R746): a challenge's nonce and its 60 s, the checks that refuse a statement, and what UNLOCK, REVOKE, PKEY_DISABLE
and RELOCK do when it passes them all. Where the manual is silent it takes the model's choices of the assumption log, 18, 19, 26. -/
def Obligations.AuthenticatedRequests : Prop :=
  (∀ (s : State) (src : CmdSource) (tag : BitVec 8), s.Takes src →
    let now := s.tb.clk.cycles
    let w (k : Nat) : Word := s.sec.auth.toList.getD k 0
    let key := (w 1).toNat / 16
    let arg := (w 2).toNat
    let locked := 8 ≤ s.sec.lock.run.toNat ∧ now < s.sec.lock.last + 30000000000
    let fresh (v : BitVec 128) : Prop := ∃ k, s.sec.nonce = some (v, k) ∧ now < k + 30000000000
    let form (op argMax : Nat) (v : BitVec 128) : Prop :=
      w 0 = 0x47A61 ∧ (w 1).toNat = op + 16 * key ∧ key < 4 ∧ arg ≤ argMax ∧ w 3 = s.flash.uid.extractLsb' 0 20 ∧
      w 4 = s.flash.uid.extractLsb' 20 20 ∧ (∀ k : Nat, k < 7 → w (5 + k) = v.extractLsb' (20 * k) 20) ∧ ∀ k : Nat, k < 4 → w (12 + k) = 0
    let holds (k : Nat) (o : OwnerKey) : Prop := k < 4 ∧ s.flash.owner[(ix 4 k)] = some o ∧ sha256 (octets256 o.x ++ octets256 o.y) = o.digest ∧
      s.flash.revoked.getLsbD k = false
    let usable (k : Nat) : Prop := ∃ o, holds k o
    let signed (b : Bool) : Prop := ∀ o, holds key o → Config.ecdsaVerify o.x o.y (sha256 (octets3 s.sec.auth.toList))
      (unpack256 s.sec.sig.toList) (unpack256 (s.sec.sig.toList.drop 13)) = b
    let good (op argMax : Nat) : Prop := ¬locked ∧ (∃ v, fresh v ∧ form op argMax v) ∧ usable key ∧ signed true
    let passed (status : Nat) (t : State) : Prop := t.Answers src tag 0x70 status [] ∧ t.sec.nonce = none ∧
      (status = 0 → t.sec.lock.run = 0) ∧ t.flash = s.flash
    let refused (status : Nat) (t : State) : Prop := passed status t ∧ t.sec.scope = s.sec.scope ∧ (∀ b, .fuse b ∈ t.queued → .fuse b ∈ s.queued)
    (s.sec.trng = .ok → Completes (.challenge src tag) s (fun t => ∃ v : BitVec 128, t.sec.nonce = some (v, now) ∧ t.sec.nonceReg = v ∧
      t.Answers src tag 0x70 0 ((List.range 7).map fun k => v.extractLsb' (20 * k) 20))) ∧
    (s.sec.trng ≠ .ok → Completes (.challenge src tag) s (fun t => t.Answers src tag 0x70 9 [] ∧ t.sec = s.sec)) ∧
    Completes (.relock src tag) s (fun t => t.Answers src tag 0x70 0 [] ∧ t.sec = { s.sec with scope := 0 }) ∧
    (good 1 3 → s.flash.debugOff = false → Completes (.unlock src tag) s (fun t => passed 0 t ∧ t.sec.scope = BitVec.ofNat 2 arg)) ∧
    (good 1 3 → s.flash.debugOff = true → Completes (.unlock src tag) s (refused 5)) ∧
    (good 3 3 → (∃ k : Nat, k < 4 ∧ k ≠ arg ∧ usable k) →
      (s.keyInUse arg = false → Completes (.revoke src tag) s (fun t => passed 0 t ∧ ∀ k : Fin 4, k.val = arg → .fuse (.revoke k) ∈ t.queued)) ∧
      (s.keyInUse arg = true → Completes (.revoke src tag) s (refused 7))) ∧
    (good 3 3 → (∀ k : Nat, k < 4 → k ≠ arg → ¬usable k) → Completes (.revoke src tag) s (refused 6)) ∧
    (good 4 15 →
      (s.pkeyInUse arg = false → Completes (.pkeyDisable src tag) s (fun t => passed 0 t ∧ ∀ k : Fin 16, k.val = arg → .fuse (.pkey k) ∈ t.queued)) ∧
      (s.pkeyInUse arg = true → Completes (.pkeyDisable src tag) s (refused 7))) ∧
    (∀ c op argMax, (c = .unlock src tag ∧ op = 1 ∧ argMax = 3) ∨ (c = .revoke src tag ∧ op = 3 ∧ argMax = 3) ∨
        (c = .pkeyDisable src tag ∧ op = 4 ∧ argMax = 15) →
      (locked → Completes c s (refused 8)) ∧
      (¬locked → s.sec.nonce = none → Completes c s (refused 1)) ∧
      (∀ v, ¬locked → fresh v → ¬form op argMax v → Completes c s (refused 2)) ∧
      (∀ v, ¬locked → fresh v → form op argMax v → ¬usable key → Completes c s (refused 3)) ∧
      (∀ v, ¬locked → fresh v → form op argMax v → usable key → signed false → Completes c s (fun t =>
        refused 4 t ∧ t.sec.lock.last = now ∧ (s.sec.lock.run.toNat < 8 → t.sec.lock.run = s.sec.lock.run + 1) ∧ t.evt.status.getLsbD 117 = true)))) ∧
  (∀ (s : State) (v : BitVec 128) (k : Nat), s.sec.nonce = some (v, k) → s.Before (k + 30000000000) →
    Completes .nonceExpiry s (fun t => t.sec = { s.sec with nonce := none } ∧ t.tb.clk.cycles = max s.tb.clk.cycles (k + 30000000000)))

/-! Field updates. -/

/-- Opening, feeding, closing and confirming an update (21 R760, R762-R767, R776, R786): each refusal by its STATUS in the manual's order, and what a
command that passes leaves in the slot directory, the open update and the boot slots. Where the manual is silent it takes the model's choices of the
assumption log, 18, 19, 26, 181. -/
def Obligations.FieldUpdates : Prop :=
  (∀ (s : State) (src : CmdSource) (tag : BitVec 8), s.Takes src →
    let now := s.tb.clk.cycles
    let kept (t : State) : Prop := t.upd.cur = s.upd.cur ∧ t.flash = s.flash
    (∀ (ts size : Word) (digest : BitVec 256),
      let ty := ts.toNat / 256 % 4
      let k := ts.toNat % 128
      let slots := if ty = 0 then 2 else if ty = 1 then (if s.flash.big then 96 else 32) else if ty = 2 then 8 else 0
      let most := if ty = 0 then 344208 else if ty = 1 then 98538 else 393216
      let mine := ∀ u, s.upd.cur = some u → u.src = src
      let begins := Completes (.updateBegin src tag ts size digest) s
      (∀ u, s.upd.cur = some u → u.src ≠ src → begins (fun t => t.Answers src tag 0x20 1 [] ∧ kept t)) ∧
      (mine → slots ≤ k → begins (fun t => t.Answers src tag 0x20 2 [] ∧ kept t)) ∧
      (mine → k < slots → s.slotInUse ty k = true → begins (fun t => t.Answers src tag 0x20 3 [] ∧ kept t)) ∧
      (mine → k < slots → s.slotInUse ty k = false → (size = 0 ∨ most < size.toNat) → begins (fun t => t.Answers src tag 0x20 4 [] ∧ kept t)) ∧
      (mine → k < slots → s.slotInUse ty k = false → size ≠ 0 → size.toNat ≤ most → begins (fun t => t.Answers src tag 0x20 0 [] ∧
        t.upd.cur = some { src := src, type := BitVec.ofNat 2 ty, slot := BitVec.ofNat 7 k, size := size.toNat, digest := digest, bitmap := 0, last := now } ∧
        (t.flash.slot ty k).st = .receiving ∧
        ∀ u, s.upd.cur = some u → 128 * u.type.toNat + u.slot.toNat ≠ 128 * ty + k → (t.flash.slot u.type.toNat u.slot.toNat).st = .invalid))) ∧
    ((∀ u, s.upd.cur = some u → u.src ≠ src) →
      (∀ off count ok, Completes (.updateBlock src tag off count ok) s (fun t => t.Answers src tag 0x21 5 [0, 0, 0, 0, 0, 0] ∧ kept t)) ∧
      Completes (.updateEnd src tag) s (fun t => t.Answers src tag 0x22 5 [0, 0, 0, 0, 0, 0] ∧ kept t)) ∧
    (∀ u, s.upd.cur = some u → u.src = src →
      let words (b : BitVec 96) : List Word := (List.range 5).map fun k => b.extractLsb' (20 * k) 20
      let results (b : BitVec 96) : List Word := BitVec.ofNat 20 (ones b) :: words b
      let u' := { u with last := now }
      let ty := u.type.toNat
      let k := u.slot.toNat
      let blocks := (u.size + 4095) / 4096
      let os := (s.flash.slot ty k).octets.take u.size
      (∀ (off count : Word) (ok : Bool),
        let o := off.toNat
        let fits := o % 4096 = 0 ∧ o < u.size ∧ count.toNat = min 4096 (u.size - o)
        let source := match src with
          | .ctx _ => s.upd.ubuf
          | .svp => s.upd.sbuf
        let b := u.bitmap ||| (1#96 <<< (o / 4096))
        (¬fits → Completes (.updateBlock src tag off count ok) s (fun t =>
          t.Answers src tag 0x21 6 (results u.bitmap) ∧ t.upd.cur = some u' ∧ t.flash = s.flash)) ∧
        (fits → ok = false → Completes (.updateBlock src tag off count ok) s (fun t =>
          t.Answers src tag 0x21 18 (results u.bitmap) ∧ t.upd.cur = some u' ∧ ∀ i : Nat, i < o →
            (t.flash.slot ty k).octets.getD i 0xFF = (s.flash.slot ty k).octets.getD i 0xFF)) ∧
        (fits → ok = true → Completes (.updateBlock src tag off count ok) s (fun t =>
          t.Answers src tag 0x21 0 (results b) ∧ t.upd.cur = some { u' with bitmap := b } ∧
          (∀ i : Nat, i < count.toNat → (t.flash.slot ty k).octets.getD (o + i) 0xFF = memRead 0 source i) ∧
          (∀ i : Nat, i < o → (t.flash.slot ty k).octets.getD i 0xFF = (s.flash.slot ty k).octets.getD i 0xFF) ∧
          (t.flash.slot ty k).st = (s.flash.slot ty k).st))) ∧
      (ones u.bitmap ≠ blocks → Completes (.updateEnd src tag) s (fun t =>
        t.Answers src tag 0x22 7 (BitVec.ofNat 20 (blocks - ones u.bitmap) :: words u.bitmap) ∧ t.upd.cur = some u' ∧ t.flash = s.flash)) ∧
      (ones u.bitmap = blocks →
        (sha256 os ≠ u.digest → Completes (.updateEnd src tag) s (fun t =>
          t.Answers src tag 0x22 8 (0 :: words u.bitmap) ∧ t.upd.cur = none ∧ (t.flash.slot ty k).st = .invalid)) ∧
        (∀ sub, sha256 os = u.digest → imageFail s.flash ty os = some sub → Completes (.updateEnd src tag) s (fun t =>
          t.Answers src tag 0x22 9 (BitVec.ofNat 20 sub :: words u.bitmap) ∧ t.upd.cur = none ∧ (t.flash.slot ty k).st = .invalid)) ∧
        (sha256 os = u.digest → imageFail s.flash ty os = none → Completes (.updateEnd src tag) s (fun t =>
          t.Answers src tag 0x22 0 (0 :: words u.bitmap) ∧ t.upd.cur = none ∧ t.flash.slot ty k = { st := .valid, octets := os } ∧
          t.evt.status.getLsbD 116 = true)))) ∧
    (s.upd.trial = none → Completes (.updateConfirm src tag) s (fun t =>
      t.Answers src tag 0x25 (if s.upd.missed then 13 else 12) [] ∧ t.flash = s.flash)) ∧
    (∀ t0, s.upd.trial = some t0 →
      ((∃ d, t0.deadline = some d ∧ d < now) → Completes (.updateConfirm src tag) s (fun t =>
        t.Answers src tag 0x25 13 [] ∧ t.upd.trial = s.upd.trial ∧ t.flash = s.flash)) ∧
      ((∀ d, t0.deadline = some d → now ≤ d) → Completes (.updateConfirm src tag) s (fun t =>
        t.Answers src tag 0x25 0 [] ∧ t.upd.trial = none ∧
        (t0.act.type = 0 → t.flash.fwConfirmed = t0.act.slot.getLsbD 0 ∧ t.flash.bootSlot = s.flash.bootSlot) ∧
        (t0.act.type = 2 → t.flash.fwConfirmed = s.flash.fwConfirmed ∧
          (t0.act.boot = true → t.flash.fallback = s.flash.bootSlot ∧ t.flash.bootSlot = t0.act.slot.setWidth 3) ∧
          (t0.act.boot = false → t.flash = s.flash)))))) ∧
  (∀ (s : State) (u : OpenUpdate), s.upd.cur = some u → s.wardenRuns = true → s.Before (u.last + 300000000000) → Completes .updateTimeout s (fun t =>
    t.upd.cur = none ∧ (t.flash.slot u.type.toNat u.slot.toNat).st = .invalid ∧ t.tb.clk.cycles = max s.tb.clk.cycles (u.last + 300000000000)))

/-- Activation and trials (21 R762, R771-R775, R781-R787; 19 R691-R694): refusals in order, firmware activated at once or through entry 1, a slot's
layout staged first, CANCEL, a missed deadline, and the switch to a slot that verifies or that does not. Where the manual is silent it takes the
model's choices of the assumption log, 18, 19, 113, 114, 117, 182. -/
def Obligations.ActivationAndTrials : Prop :=
  (∀ (s : State) (src : CmdSource) (tag : BitVec 8) (ts flags timeout hewers : Word) (tgt : Vector Word 4), s.Takes src →
    let ty := ts.toNat / 256 % 4
    let k := ts.toNat % 128
    let slots := if ty = 0 then 2 else if ty = 1 then (if s.flash.big then 96 else 32) else if ty = 2 then 8 else 0
    let bad := 32 ≤ flags.toNat ∨ (flags.getLsbD 0 = true ∧ (timeout = 0 ∨ 3600 < timeout.toNat)) ∨ (flags.getLsbD 1 = true ∧ ty ≠ 2) ∨
      (hewers ≠ 0 ∧ ty ≠ 1)
    let act (at_ : Bool) : Activation :=
      { type := BitVec.ofNat 2 ty, slot := BitVec.ofNat 7 k, trial := if flags.getLsbD 0 then some timeout.toNat else none,
        boot := flags.getLsbD 1, subst := [], at_ := at_, src := src }
    let runs (P : BitVec 12 → State → Prop) : Prop :=
      (flags.toNat < 4 → Completes (.updateActivate src tag ts flags timeout hewers) s (P 0x23)) ∧
      (flags.getLsbD 2 = false → Completes (.updateActivateAt src tag ts flags timeout hewers tgt) s (P 0x24))
    let refused (status : Nat) : Prop := runs fun code t => t.Answers src tag code status [0, 0] ∧ t.flash = s.flash ∧ t.tb.sched = s.tb.sched ∧
      t.lay = s.lay ∧ t.upd.fw = s.upd.fw
    let clear := s.upd.trial = none ∧ s.activationBusy = false ∧ k < slots ∧ (s.flash.slot ty k).st = .valid
    (bad → refused 20) ∧
    (4 ≤ flags.toNat → Completes (.updateActivate src tag ts flags timeout hewers) s (fun t => t.Answers src tag 0x23 20 [0, 0])) ∧
    (¬bad → s.upd.trial.isSome = true → refused 11) ∧
    (¬bad → s.upd.trial = none → s.activationBusy = true → refused 1) ∧
    (¬bad → s.upd.trial = none → s.activationBusy = false → slots ≤ k → refused 2) ∧
    (¬bad → s.upd.trial = none → s.activationBusy = false → k < slots → ((s.flash.slot ty k).st ≠ .valid ∨ (ty = 0 ∧ k = s.wdn.slot.toNat)) → refused 10) ∧
    (¬bad → clear → ty = 0 → k ≠ s.wdn.slot.toNat →
      (flags.toNat < 4 → Completes (.updateActivate src tag ts flags timeout hewers) s (fun t =>
        t.Answers src tag 0x23 0 [0, 0] ∧ t.upd.fw = some (act false) ∧ t.wdn.slot = s.wdn.slot)) ∧
      (flags.getLsbD 2 = false → flags.getLsbD 4 = false → Completes (.updateActivateAt src tag ts flags timeout hewers tgt) s (fun t =>
        t.Answers src tag 0x24 0 [0, 0] ∧ t.upd.fw = some (act true) ∧ t.tb.sched[(1 : Fin 16)] = armedEntry false (!flags.getLsbD 3) tgt))) ∧
    (¬bad → clear → ty = 2 →
      (∀ f, (s.checkSlot k).1 = .inl f → runs fun code t => t.Answers src tag code 14 [BitVec.ofNat 20 f.code, 0] ∧ t.lay.staging = none) ∧
      (∀ L, (s.checkSlot k).1 = .inr L →
        (flags.toNat < 4 → Completes (.updateActivate src tag ts flags timeout hewers) s (fun t =>
          t.lay.staging = some { slot := BitVec.ofNat 3 k, layout := L, reply := none } ∧
          t.upd.wait = some { act := act false, src := src, tag := tag, hewers := 0, target := none })) ∧
        (flags.getLsbD 2 = false → Completes (.updateActivateAt src tag ts flags timeout hewers tgt) s (fun t =>
          t.lay.staging = some { slot := BitVec.ofNat 3 k, layout := L, reply := none } ∧
          t.upd.wait = some { act := act true, src := src, tag := tag, hewers := 0, target := some (flags.getLsbD 3, flags.getLsbD 4, tgt) })))) ∧
    (¬bad → clear → ty = 1 → s.affected k (hewers.setWidth 16) = 0 → runs fun code t => t.Answers src tag code 16 [0, 0] ∧ t.lay = s.lay) ∧
    (flags.toNat < 2 ∨ (flags.toNat < 32 ∧ ty = 2) → s.upd.trial = none →
      (∀ a, s.upd.fw = some a → a.at_ = true → s.tb.sched[(1 : Fin 16)].st = .pending → Completes (.updateActivateCancel src tag ts flags) s (fun t =>
        t.Answers src tag 0x24 0 [0, 0] ∧ t.upd.fw = none ∧ t.tb.sched[(1 : Fin 16)].st = .aborted ∧ t.tb.sched[(1 : Fin 16)].reason = .cancelled)) ∧
      (∀ a, s.upd.lay = some a → a.at_ = true → s.tb.sched[(0 : Fin 16)].st = .pending → Completes (.updateActivateCancel src tag ts flags) s (fun t =>
        t.Answers src tag 0x24 0 [0, 0] ∧ t.upd.lay = none ∧ t.tb.sched[(0 : Fin 16)].st = .aborted ∧ t.lay.st = s.lay.st)))) ∧
  (∀ (s : State) (r : Trial) (d : Nat), s.upd.trial = some r → r.deadline = some d → s.Before d →
    (r.act.type = 0 → Completes .trialDeadline s (fun t =>
      t.upd.trial = none ∧ t.upd.missed = true ∧ t.upd.reverted = true ∧ (∃ b, t.upd.fw = some b ∧ b.type = 0 ∧ b.trial = none ∧
        b.slot = (if s.flash.fwConfirmed then 1 else 0)) ∧ t.tb.clk.cycles = max s.tb.clk.cycles d)) ∧
    (s.wardenRuns = true → r.act.type ≠ 0 → Completes .trialDeadline s (fun t =>
        t.upd.trial = none ∧ t.upd.missed = true ∧ t.upd.reverted = true ∧ t.tb.sched[(0 : Fin 16)].st = .pending ∧
        t.tb.sched[(0 : Fin 16)].stroke = true ∧ t.tb.sched[(0 : Fin 16)].owner = 16))) ∧
  (∀ (s : State) (a : Activation), s.upd.fw = some a → a.type = 0 → a.at_ = false → s.wardenRuns = true → s.wdn.responding = false →
    s.lay.staging = none →
    let slot := a.slot.getLsbD 0
    (∀ x, s.flash.firmware slot = some x → Completes (.firmwareSwitch none) s (fun t =>
      t.wdn.mode = .run ∧ t.wdn.slot = slot ∧ t.wdn.eng.core.pc = x.entry ∧ t.wdn.version = x.version ∧ t.wdn.codeWords = x.code ∧ t.wdn.flocked = false ∧
      t.wdn.journal = [] ∧ t.upd.fw = none ∧ t.lay.active = s.lay.active ∧ t.wdn.restart.count = s.wdn.restart.count ∧
      (∀ k, k < x.image.length → x.image.length ≤ 0x1C000 → memRead 0 t.wdn.ram k = x.image.getD k 0) ∧
      (a.trial = none → t.flash.fwConfirmed = slot ∧ t.upd.trial = s.upd.trial) ∧
      (∀ n, a.trial = some n → t.flash.fwConfirmed = s.flash.fwConfirmed ∧
        t.upd.trial = some { act := a, deadline := some (s.tb.clk.cycles + 500000000 * n) }))) ∧
    (∀ x, s.flash.firmware slot = none → slot ≠ s.flash.fwConfirmed → s.flash.firmware s.flash.fwConfirmed = some x →
      Completes (.firmwareSwitch none) s (fun t => t.wdn.mode = .run ∧ t.wdn.slot = s.flash.fwConfirmed ∧ t.wdn.eng.core.pc = x.entry ∧
        (t.flash.slot 0 slot.toNat).st = .invalid ∧ t.upd.fw = none)) ∧
    (∀ g, Completes (.firmwareSwitch (some g)) s (fun t => t.wdn.mode = .held ∧ t.wdn.stPass = false ∧ t.wdn.stGroup = BitVec.ofNat 6 g.val ∧
      t.pwr.faultN = true))) ∧
  (∀ s : State, s.upd.fw = none → exec (.firmwareSwitch none) s = .next s)

/-- The service port (19 R718, R722, R723; 21 R768-R770): attaching, a nonce, OPEN checked like a request, DATA into the session buffer, and every way
a session closes. Where the manual is silent it takes the model's choices of the assumption log, 19, 26, 116. -/
def Obligations.ServicePort : Prop :=
  (∀ s : State, s.awake = true → s.islandOn 53 = true → s.flash.svpOff = false → Completes .servicePortAttach s (fun t =>
    t = { s with wdn := { s.wdn with svpConf := true } })) ∧
  (∀ s : State, s.flash.svpOff = true → exec .servicePortAttach s = .next s) ∧
  (∀ s : State, s.wardenRuns = true → s.wdn.svpConf = true →
    let now := s.tb.clk.cycles
    (s.sec.trng = .ok → Completes .challengeReq s (fun t => ∃ v : BitVec 128, t.sec.svpNonce = some (v, now) ∧ t.sec.nonce = s.sec.nonce ∧
      t.upd.sessLast = now ∧ t.queued = s.queued ++ [.message 4 (0 :: (List.range 7).map fun k => v.extractLsb' (20 * k) 20)])) ∧
    (s.sec.trng ≠ .ok → Completes .challengeReq s (fun t => t.sec = s.sec ∧ t.queued = s.queued ++ [.message 4 [9, 0, 0, 0, 0, 0, 0, 0]])) ∧
    (∀ words : List Word, words.length = 42 →
      let w (k : Nat) : Word := words.getD k 0
      let key := (w 1).toNat / 16
      let locked := 8 ≤ s.sec.svpLock.run.toNat ∧ now < s.sec.svpLock.last + 30000000000
      let fresh (v : BitVec 128) : Prop := ∃ k, s.sec.svpNonce = some (v, k) ∧ now < k + 30000000000
      let form (v : BitVec 128) : Prop :=
        w 0 = 0x47A63 ∧ (w 1).toNat = 16 * key ∧ key < 4 ∧ w 2 = 0 ∧ w 3 = s.flash.uid.extractLsb' 0 20 ∧
        w 4 = s.flash.uid.extractLsb' 20 20 ∧ (∀ k : Nat, k < 7 → w (5 + k) = v.extractLsb' (20 * k) 20) ∧ ∀ k : Nat, k < 4 → w (12 + k) = 0
      let holds (o : OwnerKey) : Prop := s.flash.owner[(ix 4 key)] = some o ∧ sha256 (octets256 o.x ++ octets256 o.y) = o.digest ∧
        s.flash.revoked.getLsbD key = false
      let usable := ∃ o, holds o
      let signed (b : Bool) : Prop := ∀ o, holds o → Config.ecdsaVerify o.x o.y (sha256 (octets3 (words.take 16)))
        (unpack256 (words.drop 16)) (unpack256 (words.drop 29)) = b
      let result (status : Nat) (t : State) : Prop := t.queued.getLast? = some (.message 6 [BitVec.ofNat 20 status]) ∧ t.sec.svpNonce = none ∧
        t.sec.lock = s.sec.lock ∧ t.sec.nonce = s.sec.nonce
      let refused (status : Nat) (t : State) : Prop := result status t ∧ t.wdn.session = s.wdn.session
      (∀ v, ¬locked → fresh v → form v → usable → signed true → Completes (.openSession words) s (fun t =>
        result 0 t ∧ t.wdn.session = true ∧ t.upd.sbuf = [] ∧ t.sec.svpLock.run = 0)) ∧
      (locked → Completes (.openSession words) s (refused 8)) ∧
      (¬locked → s.sec.svpNonce = none → Completes (.openSession words) s (refused 1)) ∧
      (∀ v, ¬locked → fresh v → ¬form v → Completes (.openSession words) s (refused 2)) ∧
      (∀ v, ¬locked → fresh v → form v → ¬usable → Completes (.openSession words) s (refused 3)) ∧
      (∀ v, ¬locked → fresh v → form v → usable → signed false → Completes (.openSession words) s (fun t =>
        refused 4 t ∧ t.evt.status.getLsbD 117 = true ∧ t.sec.svpLock.last = now))) ∧
    (∀ words : List Word,
      let off := (words.getD 0 0).toNat % 4096
      let count := (words.getD 1 0).toNat % 8192
      let ok := s.wdn.session = true ∧ 1 ≤ count ∧ count ≤ 2048 ∧ off + count ≤ 4096 ∧ words.length = 2 + (8 * count + 19) / 20
      (ok → Completes (.dataMessage words) s (fun t =>
        (∀ i : Nat, i < count → memRead 0 t.upd.sbuf (off + i) = (octetsOf (words.drop 2) count).getD i 0) ∧
        (∀ i : Nat, i < off ∨ off + count ≤ i → memRead 0 t.upd.sbuf i = memRead 0 s.upd.sbuf i) ∧ t.upd.sessLast = now)) ∧
      (¬ok → Completes (.dataMessage words) s (fun t => t.upd.sbuf = s.upd.sbuf ∧ t.queued = s.queued))) ∧
    (s.wdn.session = true → Completes .closeSession s (fun t => t.wdn.session = false ∧
      ∀ u, s.upd.cur = some u → (u.src = .svp → t.upd.cur = none ∧ (t.flash.slot u.type.toNat u.slot.toNat).st = .invalid) ∧
        (u.src ≠ .svp → t.upd.cur = some u)))) ∧
  (∀ s : State, Completes .usbBusReset s (fun t => t.wdn.session = false ∧ t.wdn.svpConf = false ∧
    ∀ k ws, REntry.response .svp ws ∉ t.queued ∧ REntry.message k ws ∉ t.queued)) ∧
  (∀ s : State, s.wdn.session = true → s.wardenRuns = true → s.Before (s.upd.sessLast + 150000000000) → Completes .sessionTimeout s (fun t =>
    t.wdn.session = false ∧ t.tb.clk.cycles = max s.tb.clk.cycles (s.upd.sessLast + 150000000000)))

/-! Power. -/

/-- Power islands (22 R799-R802; 20 R730-R732; 04 R177-R179): how a request is judged, the power-off and what it takes with it, the P reset of some
islands, and a re-application's end. Where the manual is silent it takes the model's choices of the assumption log, 100 to 102, 110. -/
def Obligations.PowerIslands : Prop :=
  (∀ (s : State) (a : Agent) (i : BitVec 6) (on : Bool), s.reachesAon a = true →
    let asks (Q : State → Prop) : Prop := (on = true → Completes (.islandPowerOnRequest a i) s Q) ∧ (on = false → Completes (.islandPowerOffRequest a i) s Q)
    let answers (code : BitVec 3) (t : State) : Prop := t.pwr.islRes = { data := (code ++ i : BitVec 9), valid := true, rep := false } ∧
      t.pwr.islOn = s.pwr.islOn ∧ t.pwr.moves = s.pwr.moves
    let idle := s.pwr.cur ≠ .drowse ∧ s.pwr.stop = false ∧ s.pwr.moves = []
    let claimed := s.sec.claim.getLsbD i.toNat = true ∨ s.sec.wclaim.getLsbD i.toNat = true
    let denied (reason : BitVec 2) (t : State) : Prop := answers 1 t ∧ t.sec.denyCount = satInc s.sec.denyCount ∧ t.sec.denyReason = reason ∧
      t.sec.denyIsland = i ∧ t.evt.status.getLsbD 119 = true
    (55 < i.toNat → asks (answers 2)) ∧
    (i.toNat ≤ 55 → ¬idle → asks (answers 3)) ∧
    (i.toNat ≤ 55 → idle → a = .host → claimed → asks (denied 1)) ∧
    (i.toNat ≤ 55 → idle → a = .host → ¬claimed → s.lo.marks i.toNat = true → asks (denied 2)) ∧
    (i.toNat ≤ 55 → idle → (a = .warden ∨ (¬claimed ∧ s.lo.marks i.toNat = false)) →
      (s.islandOn i.toNat = on → asks (answers 4)) ∧
      (s.islandOn i.toNat ≠ on → asks (fun t => t.pwr.moves = [{ island := ix 56 i.toNat, on := on, host := true }] ∧ t.pwr.islOn = s.pwr.islOn ∧
        t.pwr.islRes = s.pwr.islRes)))) ∧
  (∀ (s : State) (n : Fin 16) (i : BitVec 6),
    exec (.islandPowerOnRequest (.hewer n) i) s = .next s ∧ exec (.islandPowerOffRequest (.hewer n) i) s = .next s) ∧
  (∀ (s : State) (i : Fin 56), s.pwr.moves = [{ island := i, on := false, host := true }] → Completes .islandOffComplete s (fun t =>
    t.pwr.islOn.getLsbD i.val = false ∧ (∀ j : Fin 56, j ≠ i → t.pwr.islOn.getLsbD j.val = s.pwr.islOn.getLsbD j.val) ∧ t.pwr.moves = [] ∧
    t.pwr.islRes = { data := (0#3 ++ BitVec.ofNat 6 i.val : BitVec 9), valid := true, rep := false } ∧
    (∀ n : Fin 16, i.val = 4 + n.val → t.hw[n].st = .absent ∧
      (s.available (.hewer n) = true → ∀ c : Fin 168, chanReceiver c = .hewer n → t.chu.chan[c].st ≠ .full)) ∧
    (∀ p : Fin 6, i.val = 40 + p.val → t.eth.port[p].link.up = false) ∧ (i.val = 28 → t.lnd.frames = []) ∧
    ((i.val = 51 ∧ s.host.hsel = 0) ∨ (i.val = 52 ∧ (s.host.hsel = 1 ∨ s.host.hsel = 2)) → t.host.resetting = true))) ∧
  (∀ (s : State) (i : Fin 56), s.pwr.moves = [{ island := i, on := true, host := true }] → Completes (.pResetComplete i) s (fun t =>
    t.pwr.islOn.getLsbD i.val = true ∧ t.pwr.moves = [] ∧
    t.pwr.islRes = { data := (0#3 ++ BitVec.ofNat 6 i.val : BitVec 9), valid := true, rep := false } ∧
    (∀ w k, i.val = 20 + k → k < 4 → 131072 * k ≤ w → w < 131072 * (k + 1) → memRead 0 t.loft w = 0) ∧
    (i.val = 20 → ∀ k : Fin 64, t.sem[k] = Sem.free) ∧
    (∀ c : Fin 4, i.val = 48 + c.val / 2 → t.can[c] = Can.reset) ∧ (i.val = 50 → ∀ b : Fin 3, t.twb[b] = Twb.reset) ∧
    (∀ p : Fin 6, i.val = 40 + p.val → t.eth.port[p] = EthPort.reset) ∧ (i.val = 54 → t.tb.stroke.count = 0 ∧ t.tb.clk.now = s.tb.clk.aon * (4000000000 * 2 ^ 22)) ∧
    (∀ f : Fin 4, ∀ k : Fin 8, i.val = 32 + f.val → t.trd.tread[(treadOf f k)] = Tread.reset) ∧
    (s.lo.marks i.val = true → t.pwr.reapply.getLsbD i.val = true) ∧
    (s.lo.marks i.val = false → s.lay.shadow = none → t.pwr.reapply = s.pwr.reapply ∧ t.evt.status.getLsbD 126 = true))) ∧
  (∀ (s : State) (i : Fin 56), s.pwr.reapply.getLsbD i.val = true → (∀ n : Fin 16, i.val = 4 + n.val → s.hw[n].st ≠ .loading) →
    Completes (.reapplyComplete i) s (fun t => t.pwr.reapply.getLsbD i.val = false ∧ t.lay.reapplyCnt = satInc s.lay.reapplyCnt ∧
      t.lay.reapplyIsl = BitVec.ofNat 6 i.val ∧ t.evt.status.getLsbD 126 = true))

/-- C, W and D resets and the start (22 R792, R795, R796, R812-R815, R820, R823; 19 R692-R694, R703, R717; 24 R863): what each is taken for, what it
keeps, which of several in one core cycle is performed, and the way to the firmware. Where the manual is silent it takes the model's choices of the
assumption log, 1 to 3, 11, 52, 132. -/
def Obligations.ResetsAndStart : Prop :=
  (∀ s : State,
    let takenAt (clk : Clock) (k : ResetKind) (cause rail : BitVec 4) (t : State) : Prop :=
      t.pwr.held = some k ∧ t.pwr.cause = cause ∧ t.pwr.rail = rail ∧ t.wdn.mode = .boot ∧ t.lay = State.reset.lay ∧ t.gal = State.reset.gal ∧ t.loft = [] ∧
      t.tb.stroke.count = 0 ∧ t.tb.stroke.running = false ∧ t.hw = State.reset.hw ∧ t.eth = State.reset.eth ∧ t.lnd = State.reset.lnd ∧ t.chu = State.reset.chu ∧
      t.evt = State.reset.evt ∧ t.sec = State.reset.sec ∧ t.upd = State.reset.upd ∧ t.pins = { State.reset.pins with unfed := s.pins.unfed } ∧
      t.pwr.stop = false ∧ t.pending = s.pending ∧
      (∀ ty n, t.flash.slot ty n = { s.flash.slot ty n with st := if (s.flash.slot ty n).st = .receiving then .invalid else (s.flash.slot ty n).st }) ∧
      t.flash.bootSlot = s.flash.bootSlot ∧ t.flash.fallback = s.flash.fallback ∧ t.flash.fwConfirmed = s.flash.fwConfirmed ∧ t.flash.subst = s.flash.subst ∧
      t.flash.log = s.flash.log ∧ t.flash.revoked = s.flash.revoked ∧ t.flash.pkDisabled = s.flash.pkDisabled ∧
      (k = .C → t.tb.clk.aon = 0 ∧ t.wdn.ram = [] ∧ t.pwr.alarm = 0 ∧ t.pwr.wakeCause = 0) ∧
      (k ≠ .C → t.tb.clk.aon = clk.aon ∧ t.tb.clk.now = clk.aon * (4000000000 * 2 ^ 22) ∧ t.pwr.alarm = s.pwr.alarm ∧ t.pwr.wakeCause = s.pwr.wakeCause ∧
        t.wdn.ckpt = s.wdn.ckpt ∧ t.wdn.done = s.wdn.done ∧ (∀ w, w < 0x1C000 → memRead 0 t.wdn.ram w = 0) ∧
        ∀ w, 0x1C000 ≤ w → memRead 0 t.wdn.ram w = memRead 0 s.wdn.ram w)
    let taken := takenAt s.tb.clk
    (s.pwr.off = false →
      Completes .brownout s (fun t => taken .C 2 0 t ∧ t.pwr.off = true) ∧ Completes .overvoltage s (fun t => taken .C 4 0 t ∧ t.pwr.off = true) ∧
      Completes .thermalTrip s (fun t => taken .C 5 0 t ∧ t.pwr.off = true) ∧
      (∀ r : Fin 8, Completes (.railReset r) s (fun t => taken .C 3 (BitVec.ofNat 4 r.val) t ∧ t.pwr.off = false)) ∧
      (s.pwr.held ≠ some .C → Completes .clockHold s (fun t => taken .W 8 0 t ∧ t.pwr.clockHold = true) ∧
        (∀ ns, 1000 ≤ ns → Completes (.resetN ns) s (taken .W 6 0)) ∧
        (∀ k, s.pwr.resetAt = some k → s.Before k →
          Completes .systemResetTimer s (takenAt (s.tb.clk.advance (k - s.tb.clk.cycles)) .W 7 0)))) ∧
    (∀ ns, ns < 200 → exec (.resetN ns) s = .next s) ∧
    (s.pwr.off = true → exec .brownout s = .next s ∧ exec .overvoltage s = .next s ∧ exec .thermalTrip s = .next s) ∧
    (s.pwr.held = some .C → (s.pwr.off = false ∨ s.pwr.cause = 1 ∨ s.pwr.cause = 2) → Completes .powerOn s (fun t =>
      taken .C s.pwr.cause s.pwr.rail t ∧ t.pwr.off = false)) ∧
    (s.pwr.off = true → s.pwr.cause = 4 → Completes .overvoltageRecovery s (fun t => t = { s with pwr := { s.pwr with off := false } })) ∧
    (s.pwr.off = true → s.pwr.cause = 5 → Completes .thermalTripRecovery s (fun t => t = { s with pwr := { s.pwr with off := false } })) ∧
    Completes .clockHoldRelease s (fun t => t = { s with pwr := { s.pwr with clockHold := false } }) ∧
    (∀ ns cause, 1000 ≤ ns →
      (s.meet [.resetN ns, .brownout, .hostReset cause]).pending = s.pending ++ [.brownout] ∧
      (s.meet [.hostReset cause, .resetN ns]).pending = s.pending ++ [.resetN ns])) ∧
  (∀ (s : State) (k : ResetKind) (hsel : BitVec 2) (ago : Nat), s.pwr.held = some k → s.pwr.off = false → s.pwr.deep = false → s.pwr.clockHold = false →
    let h := if k = .D then s.host.hsel else hsel
    Completes (.resetRelease hsel none ago) s (fun t =>
      t.pwr.held = none ∧ t.pwr.faultN = false ∧ t.wdn.stPass = true ∧ t.wdn.mode = .boot ∧ t.host.hsel = h ∧ (t.host.resetting = true ↔ h ≠ 3) ∧
      t.pwr.cause = s.pwr.cause ∧ t.tb.sync.st = .unsynced ∧ t.tb.clk.now = t.tb.clk.aon * (4000000000 * 2 ^ 22) ∧
      (k = .C → t.tb.clk.aon = 0) ∧ (k ≠ .C → t.tb.clk.aon = (s.tb.clk.aon + (s.tb.clk.aonSub + 128 * ago) / 1953125) % 2 ^ 63) ∧
      ∀ i : Fin 56, t.pwr.islOn.getLsbD i.val = true ↔ i.val < 4 ∨ 53 ≤ i.val ∨ (i.val = 51 ∧ h = 0) ∨ (i.val = 52 ∧ (h = 1 ∨ h = 2))) ∧
    (∀ g, Completes (.resetRelease hsel (some g) ago) s (fun t =>
      t.wdn.mode = .held ∧ t.wdn.stPass = false ∧ t.wdn.stGroup = BitVec.ofNat 6 g.val ∧ t.pwr.faultN = true))) ∧
  (∀ s : State, s.wdn.mode = .boot → s.awake = true →
    (∀ x, s.flash.firmware s.flash.fwConfirmed = some x → x.image.length ≤ 0x1C000 → Completes .romLoadComplete s (fun t =>
      t.wdn.mode = .run ∧ t.wdn.slot = s.flash.fwConfirmed ∧ t.wdn.eng.core.pc = x.entry ∧ t.wdn.eng.core.w[(14 : Fin 16)] = 0x1C000 ∧
      t.wdn.version = x.version ∧ t.wdn.codeWords = x.code ∧
      (∀ e : Fin 128, t.evt.route[e].wdn = shippedVectors e.val ∧ t.evt.route[e].pins = s.evt.route[e].pins ∧
        t.evt.route[e].msix = s.evt.route[e].msix ∧ t.evt.route[e].hewers = s.evt.route[e].hewers) ∧
      (∀ k, k < 0x1C000 → memRead 0 t.wdn.ram k = x.image.getD k 0) ∧
      (memRead 0 s.wdn.ram 0x1FFF0 = 0x47A50 → memRead 0 t.wdn.ram 0x1FFF0 = 0 ∧ ∃ p q, t.queued = .log 4 (BitVec.ofNat 10 (memRead 0 s.wdn.ram 0x1FFF1).toNat)
        s.time (syncCode s.tb.sync.st) p :: q ∧ (s.tb.regs.stepq = [] → q = [])) ∧
      (memRead 0 s.wdn.ram 0x1FFF0 ≠ 0x47A50 → s.tb.regs.stepq = [] → t.queued = []))) ∧
    (s.flash.firmware s.flash.fwConfirmed = none → Completes .romLoadComplete s (fun t => t.wdn.mode = .boot ∧ t.flash = s.flash ∧
      (s.flash.badSignature s.flash.fwConfirmed = true → t.evt.status.getLsbD 117 = true) ∧
      (s.flash.badSignature s.flash.fwConfirmed = false → t = s))))

/-- Power states, clocks, sensors and the controlled stop (22 R791, R793, R797, R798, R803-R811, R819-R821; 23 R830): requests to rest, entries and
wakes, samples that raise events, a bank whose rail is low and what it no longer drives, and the halt. Where the manual is silent it takes the model's
choices of the assumption log, 123 to 125, 127, 150, 176. -/
def Obligations.PowerStatesAndSensors : Prop :=
  (∀ (s : State) (a : Agent), s.reachesAon a = true →
    let busy := s.tb.sched[(0 : Fin 16)].st = .pending ∨ s.tb.sched[(1 : Fin 16)].st = .pending ∨ s.lay.staging.isSome = true ∨ s.upd.cur.isSome = true ∨
      s.upd.trial.isSome = true ∨ s.pwr.stop = true ∨ s.pwr.cur ≠ .run
    let answers (r : BitVec 3) (t : State) : Prop := t.pwr = { s.pwr with stateRes := { data := r, valid := true, rep := false } }
    let accepted (deep : Bool) (t : State) : Prop := t.pwr = { s.pwr with req := some deep, cur := .entering }
    (busy → Completes (.drowseRequest a) s (answers 1) ∧ Completes (.deepRequest a) s (answers 1)) ∧
    (¬busy → Completes (.drowseRequest a) s (accepted false) ∧
      (s.pwr.wakeCfg.extractLsb' 0 2 = 0 → Completes (.deepRequest a) s (answers 2)) ∧
      (s.pwr.wakeCfg.extractLsb' 0 2 ≠ 0 → Completes (.deepRequest a) s (accepted true))) ∧
    (s.pwr.stop = false → s.pwr.cur = .entering → Completes (.wakeRequest a) s (fun t =>
      t.pwr.req = none ∧ t.pwr.cur = .run ∧ t.pwr.wakeCause = 16 ∧ t.pwr.stateRes = { data := 3, valid := true, rep := false }))) ∧
  (∀ s : State, s.powered = true → s.pwr.stop = false →
    (s.pwr.req = some false → Completes .drowseEntry s (fun t => t.pwr.cur = .drowse ∧ t.pwr.req = none ∧ t.tb.stroke.running = false ∧
      t.tb.stroke.ends = none ∧ t.tb.stroke.count = s.tb.stroke.count ∧ t.pwr.stateRes = { data := 0, valid := true, rep := false } ∧ t.lay.active = s.lay.active)) ∧
    (s.pwr.req = some true → Completes .deepEntry s (fun t => t.pwr.deep = true ∧ t.pwr.held = some .D ∧ t.pwr.islOn = 1 ∧ t.pwr.cause = s.pwr.cause)) ∧
    (s.pwr.cur = .drowse → s.pwr.waking = false →
      let woken (cause : BitVec 5) (t : State) : Prop := t.pwr.waking = true ∧ t.pwr.wakeCause = cause ∧ t.pwr.cur = .drowse
      (s.pwr.wakeCfg.getLsbD 0 = true → Completes .wakeN s (woken 1)) ∧
      (s.pwr.wakeCfg.getLsbD 1 = true → s.pwr.alarmOn = true → s.tb.clk.aonSeconds ≤ s.pwr.alarm.toNat →
        s.Before (s.tb.clk.cycles + s.tb.clk.aonCyclesTo s.pwr.alarm.toNat) → Completes .alarmWake s (woken 2)) ∧
      (s.pwr.wakeCfg.getLsbD 2 = true → s.host.resetting = false → ∀ off,
        (off < 0x1000 ∨ (0x4000 ≤ off ∧ off < 0x8000) ∨ (0x34000 ≤ off ∧ off < 0x38000) → exec (.hostWake off) s = .next s) ∧
        (¬(off < 0x1000 ∨ (0x4000 ≤ off ∧ off < 0x8000) ∨ (0x34000 ≤ off ∧ off < 0x38000)) → Completes (.hostWake off) s (woken 4))) ∧
      (∀ p : Fin 4, s.pwr.wakeCfg.getLsbD 3 = true → s.eth.port[(ix 6 p.val : Fin 6)].link.up = false → Completes (.energyWake p) s (woken 8)) ∧
      Completes (.wakeRequest .host) { s with host := { s.host with resetting := false } } (woken 16)) ∧
    (s.pwr.cur = .drowse → s.pwr.waking = true → ∀ p : Fin 4, s.pwr.wakeCfg.getLsbD 3 = true → s.eth.port[(ix 6 p.val : Fin 6)].link.up = false →
      Completes (.energyWake p) s (fun t =>
        t.pwr = { s.pwr with wakeCause := if s.pwr.wakeCyc = some s.tb.clk.cycles then s.pwr.wakeCause ||| 8 else s.pwr.wakeCause })) ∧
    (s.pwr.cur = .drowse → s.pwr.waking = true → Completes .drowseWakeComplete s (fun t => t.pwr.cur = .run ∧ t.pwr.waking = false ∧
      (s.lay.active.isSome = true → t.tb.stroke.ends = some (s.lo.gridFrom s.qns) ∧ t.tb.stroke.count = s.tb.stroke.count)))) ∧
  (∀ s : State, s.pwr.deep = true →
    (s.pwr.wakeCfg.getLsbD 0 = true → Completes .wakeN s (fun t => t.pwr.deep = false ∧ t.pwr.cause = 10 ∧ t.pwr.wakeCause = 1)) ∧
    (s.pwr.wakeCfg.getLsbD 1 = true → s.pwr.alarmOn = true → s.tb.clk.aonSeconds ≤ s.pwr.alarm.toNat → Completes .alarmWake s (fun t =>
      t.pwr.deep = false ∧ t.pwr.cause = 10 ∧ t.pwr.wakeCause = 2))) ∧
  (∀ s : State, s.powered = true →
    (s.pwr.pllB = true → Completes .pllBUnlock s (fun t => t.pwr.pllB = false ∧ t.evt.status.getLsbD 125 = true ∧ t.wdn.sens.clkOk.getLsbD 1 = false ∧
      (∀ p : Fin 6, t.eth.port[p].link.up = false) ∧ ∀ c : Fin 4, t.can[c].joined = false)) ∧
    (s.pwr.pllB = false → Completes .pllBLock s (fun t => t.pwr.pllB = true ∧ t.wdn.sens.clkOk.getLsbD 1 = true)) ∧
    Completes .pcieRefclkLoss s (fun t => t.evt.status.getLsbD 125 = true ∧ t.wdn.sens.clkOk.getLsbD 3 = false ∧
      (s.host.hsel = 0 → t.host.resetting = true ∧ t.host.linkUp = false) ∧ (s.host.hsel ≠ 0 → t.host.resetting = s.host.resetting))) ∧
  (∀ s : State, s.powered = true →
    (∀ mv : BitVec 16, Completes (.sensorSample (.vin mv)) s (fun t => t.wdn.sens.vin = mv ∧
      (t.pwr.below = true ↔ mv.toNat < 10 * s.pwr.vinLow.toNat) ∧
      (mv.toNat < 10 * s.pwr.vinLow.toNat → s.pwr.lowSeen = false → t.pwr.lowSeen = true ∧ t.pwr.dips = satInc s.pwr.dips ∧ t.evt.status.getLsbD 120 = true) ∧
      (s.pwr.lowSeen = true → 10 * s.pwr.vinLow.toNat + 200 < mv.toNat → t.pwr.lowSeen = false ∧ t.evt.status.getLsbD 121 = true))) ∧
    (∀ ma, Completes (.sensorSample (.iin ma)) s (fun t => t.wdn.sens.iin = ma)) ∧ (∀ ok, Completes (.sensorSample (.clocks ok)) s (fun t => t.wdn.sens.clkOk = ok)) ∧
    (∀ ppm, Completes (.sensorSample (.crystal ppm)) s (fun t => t.wdn.sens.ppm = ppm)) ∧
    (∀ (i : Fin 12) (mv : BitVec 13), let r := s.wdn.sens.rail[i]
      Completes (.sensorSample (.rail i mv)) s (fun t => t.wdn.sens.rail[i].mv = mv ∧ t.pins.use = s.pins.use ∧
        (∀ b : Fin 4, t.pins.unfed.getLsbD b.val = if i.val = 8 + b.val then decide (mv.toNat < 1000) else s.pins.unfed.getLsbD b.val) ∧
        (i.val = 8 → mv.toNat < 1000 → t.irqBalls = 0 ∧ t.faultLow = false) ∧
        (inWarn i.val mv.toNat = false → t.wdn.sens.rail[i].fault = true ∧ (r.fault = false → t.evt.status.getLsbD 124 = true)) ∧
        (inWarn i.val mv.toNat = true → r.fault = true → (t.wdn.sens.rail[i].fault = false ↔ ∃ k, r.good = some k ∧ k + 500000 ≤ s.tb.clk.cycles)))) ∧
    (∀ (i : Fin 8) (v : BitVec 12), (1080 ≤ v.toInt → Completes (.sensorSample (.temp i v)) s (fun t => t.pwr.off = true ∧ t.pwr.cause = 5 ∧ t.pwr.held = some .C)) ∧
      (v.toInt < 1080 → s.pwr.resume.toNat ≤ 115 →
        (s.pwr.stop = false → Completes (.sensorSample (.temp i v)) s (fun t => t.wdn.sens.temp[i] = v ∧ (t.pwr.crit.getLsbD i.val = true ↔ 1000 ≤ v.toInt) ∧
          (s.pwr.highArmed = true → 8 * (s.pwr.high.toNat : Int) ≤ v.toInt → t.evt.status.getLsbD 122 = true ∧ t.pwr.highArmed = false) ∧
          (1000 ≤ v.toInt → s.pwr.crit.getLsbD i.val = true → t.pwr.stop = true ∧ t.pwr.halted = false ∧ t.pwr.stops = satInc s.pwr.stops ∧ t.pwr.faultN = true ∧
            t.evt.status.getLsbD 123 = true ∧ (∀ n : Fin 16, n.val < 2 → t.tb.sched[n].st ≠ .pending) ∧
            (s.tb.sched[(0 : Fin 16)].st = .pending → t.lay.abortReason = 3 ∧ t.evt.status.getLsbD 15 = true)))) ∧
        (s.pwr.stop = true → s.pwr.autoResume = true → v.toInt ≤ 8 * s.pwr.resume.toNat →
          (∀ j : Fin 8, s.wdn.sens.temp[j].toInt ≤ 8 * s.pwr.resume.toNat) →
          Completes (.sensorSample (.temp i v)) s (fun t => t.pwr.held = some .W ∧ t.pwr.cause = 9 ∧ t.pwr.stop = false))))) ∧
  (∀ s : State, s.powered = true → s.pwr.stop = true → s.pwr.halted = false → Completes .controlledStopHalt s (fun t =>
    t.pwr.halted = true ∧ t.tb.stroke.running = false ∧ t.tb.stroke.ends = none ∧ t.tb.stroke.count = s.tb.stroke.count ∧
    (∀ k : Fin 96, t.pins.use[k] = .fallback) ∧ (∀ c : Fin 4, t.can[c].tx = none) ∧
    ∀ i : Fin 56, (4 ≤ i.val ∧ i.val ≤ 29) ∨ (32 ≤ i.val ∧ i.val ≤ 50) → t.pwr.islOn.getLsbD i.val = false))
end

