-- ==== Sys2Proof/Laws/State.lean ====
section
/-! SUPPORT. Reading a field after an update: one lemma per field per update, true by unfolding, and the entries of updated vectors. -/

namespace Sys2Proof

@[simp] theorem vset_getElem {α : Type} {n : Nat} (v : Vector α n) (i : Fin n) (x : α) (j : Nat) (h : j < n) :
    (vset v i x)[j] = if i.val = j then x else v[j] := by simp [vset, Vector.getElem_set]

@[simp] theorem vmod_getElem {α : Type} {n : Nat} (v : Vector α n) (i : Fin n) (f : α → α) (j : Nat) (h : j < n) :
    (vmod v i f)[j] = if i.val = j then f v[j] else v[j] := by
  simp only [vmod, vset_getElem]
  split
  · next e => subst e; rfl
  · rfl

end Sys2Proof

namespace Sys2Proof.Machine

variable (s : State)

/-! modTb. -/

@[simp] theorem modTb_pending (f : Timebase → Timebase) : (s.modTb f).pending = s.pending := rfl
@[simp] theorem modTb_tb (f : Timebase → Timebase) : (s.modTb f).tb = f s.tb := rfl
@[simp] theorem modTb_sbu (f : Timebase → Timebase) : (s.modTb f).sbu = s.sbu := rfl
@[simp] theorem modTb_lay (f : Timebase → Timebase) : (s.modTb f).lay = s.lay := rfl
@[simp] theorem modTb_plans (f : Timebase → Timebase) : (s.modTb f).plans = s.plans := rfl
@[simp] theorem modTb_pins (f : Timebase → Timebase) : (s.modTb f).pins = s.pins := rfl
@[simp] theorem modTb_hw (f : Timebase → Timebase) : (s.modTb f).hw = s.hw := rfl
@[simp] theorem modTb_wdn (f : Timebase → Timebase) : (s.modTb f).wdn = s.wdn := rfl
@[simp] theorem modTb_loft (f : Timebase → Timebase) : (s.modTb f).loft = s.loft := rfl
@[simp] theorem modTb_sem (f : Timebase → Timebase) : (s.modTb f).sem = s.sem := rfl
@[simp] theorem modTb_gal (f : Timebase → Timebase) : (s.modTb f).gal = s.gal := rfl
@[simp] theorem modTb_eth (f : Timebase → Timebase) : (s.modTb f).eth = s.eth := rfl
@[simp] theorem modTb_lnd (f : Timebase → Timebase) : (s.modTb f).lnd = s.lnd := rfl
@[simp] theorem modTb_grd (f : Timebase → Timebase) : (s.modTb f).grd = s.grd := rfl
@[simp] theorem modTb_can (f : Timebase → Timebase) : (s.modTb f).can = s.can := rfl
@[simp] theorem modTb_trd (f : Timebase → Timebase) : (s.modTb f).trd = s.trd := rfl
@[simp] theorem modTb_twb (f : Timebase → Timebase) : (s.modTb f).twb = s.twb := rfl
@[simp] theorem modTb_host (f : Timebase → Timebase) : (s.modTb f).host = s.host := rfl
@[simp] theorem modTb_chu (f : Timebase → Timebase) : (s.modTb f).chu = s.chu := rfl
@[simp] theorem modTb_evt (f : Timebase → Timebase) : (s.modTb f).evt = s.evt := rfl
@[simp] theorem modTb_sec (f : Timebase → Timebase) : (s.modTb f).sec = s.sec := rfl
@[simp] theorem modTb_upd (f : Timebase → Timebase) : (s.modTb f).upd = s.upd := rfl
@[simp] theorem modTb_pwr (f : Timebase → Timebase) : (s.modTb f).pwr = s.pwr := rfl
@[simp] theorem modTb_flash (f : Timebase → Timebase) : (s.modTb f).flash = s.flash := rfl
@[simp] theorem modTb_free (f : Timebase → Timebase) : (s.modTb f).free = s.free := rfl
@[simp] theorem modTb_rd (f : Timebase → Timebase) : (s.modTb f).rd = s.rd := rfl
@[simp] theorem modTb_sent (f : Timebase → Timebase) : (s.modTb f).sent = s.sent := rfl

/-! modSbu. -/

@[simp] theorem modSbu_pending (f : Sbu → Sbu) : (s.modSbu f).pending = s.pending := rfl
@[simp] theorem modSbu_tb (f : Sbu → Sbu) : (s.modSbu f).tb = s.tb := rfl
@[simp] theorem modSbu_sbu (f : Sbu → Sbu) : (s.modSbu f).sbu = f s.sbu := rfl
@[simp] theorem modSbu_lay (f : Sbu → Sbu) : (s.modSbu f).lay = s.lay := rfl
@[simp] theorem modSbu_plans (f : Sbu → Sbu) : (s.modSbu f).plans = s.plans := rfl
@[simp] theorem modSbu_pins (f : Sbu → Sbu) : (s.modSbu f).pins = s.pins := rfl
@[simp] theorem modSbu_hw (f : Sbu → Sbu) : (s.modSbu f).hw = s.hw := rfl
@[simp] theorem modSbu_wdn (f : Sbu → Sbu) : (s.modSbu f).wdn = s.wdn := rfl
@[simp] theorem modSbu_loft (f : Sbu → Sbu) : (s.modSbu f).loft = s.loft := rfl
@[simp] theorem modSbu_sem (f : Sbu → Sbu) : (s.modSbu f).sem = s.sem := rfl
@[simp] theorem modSbu_gal (f : Sbu → Sbu) : (s.modSbu f).gal = s.gal := rfl
@[simp] theorem modSbu_eth (f : Sbu → Sbu) : (s.modSbu f).eth = s.eth := rfl
@[simp] theorem modSbu_lnd (f : Sbu → Sbu) : (s.modSbu f).lnd = s.lnd := rfl
@[simp] theorem modSbu_grd (f : Sbu → Sbu) : (s.modSbu f).grd = s.grd := rfl
@[simp] theorem modSbu_can (f : Sbu → Sbu) : (s.modSbu f).can = s.can := rfl
@[simp] theorem modSbu_trd (f : Sbu → Sbu) : (s.modSbu f).trd = s.trd := rfl
@[simp] theorem modSbu_twb (f : Sbu → Sbu) : (s.modSbu f).twb = s.twb := rfl
@[simp] theorem modSbu_host (f : Sbu → Sbu) : (s.modSbu f).host = s.host := rfl
@[simp] theorem modSbu_chu (f : Sbu → Sbu) : (s.modSbu f).chu = s.chu := rfl
@[simp] theorem modSbu_evt (f : Sbu → Sbu) : (s.modSbu f).evt = s.evt := rfl
@[simp] theorem modSbu_sec (f : Sbu → Sbu) : (s.modSbu f).sec = s.sec := rfl
@[simp] theorem modSbu_upd (f : Sbu → Sbu) : (s.modSbu f).upd = s.upd := rfl
@[simp] theorem modSbu_pwr (f : Sbu → Sbu) : (s.modSbu f).pwr = s.pwr := rfl
@[simp] theorem modSbu_flash (f : Sbu → Sbu) : (s.modSbu f).flash = s.flash := rfl
@[simp] theorem modSbu_free (f : Sbu → Sbu) : (s.modSbu f).free = s.free := rfl
@[simp] theorem modSbu_rd (f : Sbu → Sbu) : (s.modSbu f).rd = s.rd := rfl
@[simp] theorem modSbu_sent (f : Sbu → Sbu) : (s.modSbu f).sent = s.sent := rfl

/-! modAct. -/

@[simp] theorem modAct_pending (a : ActId) (f : Activity → Activity) : (s.modAct a f).pending = s.pending := rfl
@[simp] theorem modAct_tb (a : ActId) (f : Activity → Activity) : (s.modAct a f).tb = s.tb := rfl
@[simp] theorem modAct_sbu (a : ActId) (f : Activity → Activity) : (s.modAct a f).sbu = { s.sbu with act := vmod s.sbu.act a f } := rfl
@[simp] theorem modAct_lay (a : ActId) (f : Activity → Activity) : (s.modAct a f).lay = s.lay := rfl
@[simp] theorem modAct_plans (a : ActId) (f : Activity → Activity) : (s.modAct a f).plans = s.plans := rfl
@[simp] theorem modAct_pins (a : ActId) (f : Activity → Activity) : (s.modAct a f).pins = s.pins := rfl
@[simp] theorem modAct_hw (a : ActId) (f : Activity → Activity) : (s.modAct a f).hw = s.hw := rfl
@[simp] theorem modAct_wdn (a : ActId) (f : Activity → Activity) : (s.modAct a f).wdn = s.wdn := rfl
@[simp] theorem modAct_loft (a : ActId) (f : Activity → Activity) : (s.modAct a f).loft = s.loft := rfl
@[simp] theorem modAct_sem (a : ActId) (f : Activity → Activity) : (s.modAct a f).sem = s.sem := rfl
@[simp] theorem modAct_gal (a : ActId) (f : Activity → Activity) : (s.modAct a f).gal = s.gal := rfl
@[simp] theorem modAct_eth (a : ActId) (f : Activity → Activity) : (s.modAct a f).eth = s.eth := rfl
@[simp] theorem modAct_lnd (a : ActId) (f : Activity → Activity) : (s.modAct a f).lnd = s.lnd := rfl
@[simp] theorem modAct_grd (a : ActId) (f : Activity → Activity) : (s.modAct a f).grd = s.grd := rfl
@[simp] theorem modAct_can (a : ActId) (f : Activity → Activity) : (s.modAct a f).can = s.can := rfl
@[simp] theorem modAct_trd (a : ActId) (f : Activity → Activity) : (s.modAct a f).trd = s.trd := rfl
@[simp] theorem modAct_twb (a : ActId) (f : Activity → Activity) : (s.modAct a f).twb = s.twb := rfl
@[simp] theorem modAct_host (a : ActId) (f : Activity → Activity) : (s.modAct a f).host = s.host := rfl
@[simp] theorem modAct_chu (a : ActId) (f : Activity → Activity) : (s.modAct a f).chu = s.chu := rfl
@[simp] theorem modAct_evt (a : ActId) (f : Activity → Activity) : (s.modAct a f).evt = s.evt := rfl
@[simp] theorem modAct_sec (a : ActId) (f : Activity → Activity) : (s.modAct a f).sec = s.sec := rfl
@[simp] theorem modAct_upd (a : ActId) (f : Activity → Activity) : (s.modAct a f).upd = s.upd := rfl
@[simp] theorem modAct_pwr (a : ActId) (f : Activity → Activity) : (s.modAct a f).pwr = s.pwr := rfl
@[simp] theorem modAct_flash (a : ActId) (f : Activity → Activity) : (s.modAct a f).flash = s.flash := rfl
@[simp] theorem modAct_free (a : ActId) (f : Activity → Activity) : (s.modAct a f).free = s.free := rfl
@[simp] theorem modAct_rd (a : ActId) (f : Activity → Activity) : (s.modAct a f).rd = s.rd := rfl
@[simp] theorem modAct_sent (a : ActId) (f : Activity → Activity) : (s.modAct a f).sent = s.sent := rfl

/-! modHw. -/

@[simp] theorem modHw_pending (n : Fin 16) (f : Hewer → Hewer) : (s.modHw n f).pending = s.pending := rfl
@[simp] theorem modHw_tb (n : Fin 16) (f : Hewer → Hewer) : (s.modHw n f).tb = s.tb := rfl
@[simp] theorem modHw_sbu (n : Fin 16) (f : Hewer → Hewer) : (s.modHw n f).sbu = s.sbu := rfl
@[simp] theorem modHw_lay (n : Fin 16) (f : Hewer → Hewer) : (s.modHw n f).lay = s.lay := rfl
@[simp] theorem modHw_plans (n : Fin 16) (f : Hewer → Hewer) : (s.modHw n f).plans = s.plans := rfl
@[simp] theorem modHw_pins (n : Fin 16) (f : Hewer → Hewer) : (s.modHw n f).pins = s.pins := rfl
@[simp] theorem modHw_hw (n : Fin 16) (f : Hewer → Hewer) : (s.modHw n f).hw = vmod s.hw n f := rfl
@[simp] theorem modHw_wdn (n : Fin 16) (f : Hewer → Hewer) : (s.modHw n f).wdn = s.wdn := rfl
@[simp] theorem modHw_loft (n : Fin 16) (f : Hewer → Hewer) : (s.modHw n f).loft = s.loft := rfl
@[simp] theorem modHw_sem (n : Fin 16) (f : Hewer → Hewer) : (s.modHw n f).sem = s.sem := rfl
@[simp] theorem modHw_gal (n : Fin 16) (f : Hewer → Hewer) : (s.modHw n f).gal = s.gal := rfl
@[simp] theorem modHw_eth (n : Fin 16) (f : Hewer → Hewer) : (s.modHw n f).eth = s.eth := rfl
@[simp] theorem modHw_lnd (n : Fin 16) (f : Hewer → Hewer) : (s.modHw n f).lnd = s.lnd := rfl
@[simp] theorem modHw_grd (n : Fin 16) (f : Hewer → Hewer) : (s.modHw n f).grd = s.grd := rfl
@[simp] theorem modHw_can (n : Fin 16) (f : Hewer → Hewer) : (s.modHw n f).can = s.can := rfl
@[simp] theorem modHw_trd (n : Fin 16) (f : Hewer → Hewer) : (s.modHw n f).trd = s.trd := rfl
@[simp] theorem modHw_twb (n : Fin 16) (f : Hewer → Hewer) : (s.modHw n f).twb = s.twb := rfl
@[simp] theorem modHw_host (n : Fin 16) (f : Hewer → Hewer) : (s.modHw n f).host = s.host := rfl
@[simp] theorem modHw_chu (n : Fin 16) (f : Hewer → Hewer) : (s.modHw n f).chu = s.chu := rfl
@[simp] theorem modHw_evt (n : Fin 16) (f : Hewer → Hewer) : (s.modHw n f).evt = s.evt := rfl
@[simp] theorem modHw_sec (n : Fin 16) (f : Hewer → Hewer) : (s.modHw n f).sec = s.sec := rfl
@[simp] theorem modHw_upd (n : Fin 16) (f : Hewer → Hewer) : (s.modHw n f).upd = s.upd := rfl
@[simp] theorem modHw_pwr (n : Fin 16) (f : Hewer → Hewer) : (s.modHw n f).pwr = s.pwr := rfl
@[simp] theorem modHw_flash (n : Fin 16) (f : Hewer → Hewer) : (s.modHw n f).flash = s.flash := rfl
@[simp] theorem modHw_free (n : Fin 16) (f : Hewer → Hewer) : (s.modHw n f).free = s.free := rfl
@[simp] theorem modHw_rd (n : Fin 16) (f : Hewer → Hewer) : (s.modHw n f).rd = s.rd := rfl
@[simp] theorem modHw_sent (n : Fin 16) (f : Hewer → Hewer) : (s.modHw n f).sent = s.sent := rfl

/-! modWdn. -/

@[simp] theorem modWdn_pending (f : Wdn → Wdn) : (s.modWdn f).pending = s.pending := rfl
@[simp] theorem modWdn_tb (f : Wdn → Wdn) : (s.modWdn f).tb = s.tb := rfl
@[simp] theorem modWdn_sbu (f : Wdn → Wdn) : (s.modWdn f).sbu = s.sbu := rfl
@[simp] theorem modWdn_lay (f : Wdn → Wdn) : (s.modWdn f).lay = s.lay := rfl
@[simp] theorem modWdn_plans (f : Wdn → Wdn) : (s.modWdn f).plans = s.plans := rfl
@[simp] theorem modWdn_pins (f : Wdn → Wdn) : (s.modWdn f).pins = s.pins := rfl
@[simp] theorem modWdn_hw (f : Wdn → Wdn) : (s.modWdn f).hw = s.hw := rfl
@[simp] theorem modWdn_wdn (f : Wdn → Wdn) : (s.modWdn f).wdn = f s.wdn := rfl
@[simp] theorem modWdn_loft (f : Wdn → Wdn) : (s.modWdn f).loft = s.loft := rfl
@[simp] theorem modWdn_sem (f : Wdn → Wdn) : (s.modWdn f).sem = s.sem := rfl
@[simp] theorem modWdn_gal (f : Wdn → Wdn) : (s.modWdn f).gal = s.gal := rfl
@[simp] theorem modWdn_eth (f : Wdn → Wdn) : (s.modWdn f).eth = s.eth := rfl
@[simp] theorem modWdn_lnd (f : Wdn → Wdn) : (s.modWdn f).lnd = s.lnd := rfl
@[simp] theorem modWdn_grd (f : Wdn → Wdn) : (s.modWdn f).grd = s.grd := rfl
@[simp] theorem modWdn_can (f : Wdn → Wdn) : (s.modWdn f).can = s.can := rfl
@[simp] theorem modWdn_trd (f : Wdn → Wdn) : (s.modWdn f).trd = s.trd := rfl
@[simp] theorem modWdn_twb (f : Wdn → Wdn) : (s.modWdn f).twb = s.twb := rfl
@[simp] theorem modWdn_host (f : Wdn → Wdn) : (s.modWdn f).host = s.host := rfl
@[simp] theorem modWdn_chu (f : Wdn → Wdn) : (s.modWdn f).chu = s.chu := rfl
@[simp] theorem modWdn_evt (f : Wdn → Wdn) : (s.modWdn f).evt = s.evt := rfl
@[simp] theorem modWdn_sec (f : Wdn → Wdn) : (s.modWdn f).sec = s.sec := rfl
@[simp] theorem modWdn_upd (f : Wdn → Wdn) : (s.modWdn f).upd = s.upd := rfl
@[simp] theorem modWdn_pwr (f : Wdn → Wdn) : (s.modWdn f).pwr = s.pwr := rfl
@[simp] theorem modWdn_flash (f : Wdn → Wdn) : (s.modWdn f).flash = s.flash := rfl
@[simp] theorem modWdn_free (f : Wdn → Wdn) : (s.modWdn f).free = s.free := rfl
@[simp] theorem modWdn_rd (f : Wdn → Wdn) : (s.modWdn f).rd = s.rd := rfl
@[simp] theorem modWdn_sent (f : Wdn → Wdn) : (s.modWdn f).sent = s.sent := rfl

/-! modHost. -/

@[simp] theorem modHost_pending (f : HostIf → HostIf) : (s.modHost f).pending = s.pending := rfl
@[simp] theorem modHost_tb (f : HostIf → HostIf) : (s.modHost f).tb = s.tb := rfl
@[simp] theorem modHost_sbu (f : HostIf → HostIf) : (s.modHost f).sbu = s.sbu := rfl
@[simp] theorem modHost_lay (f : HostIf → HostIf) : (s.modHost f).lay = s.lay := rfl
@[simp] theorem modHost_plans (f : HostIf → HostIf) : (s.modHost f).plans = s.plans := rfl
@[simp] theorem modHost_pins (f : HostIf → HostIf) : (s.modHost f).pins = s.pins := rfl
@[simp] theorem modHost_hw (f : HostIf → HostIf) : (s.modHost f).hw = s.hw := rfl
@[simp] theorem modHost_wdn (f : HostIf → HostIf) : (s.modHost f).wdn = s.wdn := rfl
@[simp] theorem modHost_loft (f : HostIf → HostIf) : (s.modHost f).loft = s.loft := rfl
@[simp] theorem modHost_sem (f : HostIf → HostIf) : (s.modHost f).sem = s.sem := rfl
@[simp] theorem modHost_gal (f : HostIf → HostIf) : (s.modHost f).gal = s.gal := rfl
@[simp] theorem modHost_eth (f : HostIf → HostIf) : (s.modHost f).eth = s.eth := rfl
@[simp] theorem modHost_lnd (f : HostIf → HostIf) : (s.modHost f).lnd = s.lnd := rfl
@[simp] theorem modHost_grd (f : HostIf → HostIf) : (s.modHost f).grd = s.grd := rfl
@[simp] theorem modHost_can (f : HostIf → HostIf) : (s.modHost f).can = s.can := rfl
@[simp] theorem modHost_trd (f : HostIf → HostIf) : (s.modHost f).trd = s.trd := rfl
@[simp] theorem modHost_twb (f : HostIf → HostIf) : (s.modHost f).twb = s.twb := rfl
@[simp] theorem modHost_host (f : HostIf → HostIf) : (s.modHost f).host = f s.host := rfl
@[simp] theorem modHost_chu (f : HostIf → HostIf) : (s.modHost f).chu = s.chu := rfl
@[simp] theorem modHost_evt (f : HostIf → HostIf) : (s.modHost f).evt = s.evt := rfl
@[simp] theorem modHost_sec (f : HostIf → HostIf) : (s.modHost f).sec = s.sec := rfl
@[simp] theorem modHost_upd (f : HostIf → HostIf) : (s.modHost f).upd = s.upd := rfl
@[simp] theorem modHost_pwr (f : HostIf → HostIf) : (s.modHost f).pwr = s.pwr := rfl
@[simp] theorem modHost_flash (f : HostIf → HostIf) : (s.modHost f).flash = s.flash := rfl
@[simp] theorem modHost_free (f : HostIf → HostIf) : (s.modHost f).free = s.free := rfl
@[simp] theorem modHost_rd (f : HostIf → HostIf) : (s.modHost f).rd = s.rd := rfl
@[simp] theorem modHost_sent (f : HostIf → HostIf) : (s.modHost f).sent = s.sent := rfl

/-! modPwr. -/

@[simp] theorem modPwr_pending (f : Pwr → Pwr) : (s.modPwr f).pending = s.pending := rfl
@[simp] theorem modPwr_tb (f : Pwr → Pwr) : (s.modPwr f).tb = s.tb := rfl
@[simp] theorem modPwr_sbu (f : Pwr → Pwr) : (s.modPwr f).sbu = s.sbu := rfl
@[simp] theorem modPwr_lay (f : Pwr → Pwr) : (s.modPwr f).lay = s.lay := rfl
@[simp] theorem modPwr_plans (f : Pwr → Pwr) : (s.modPwr f).plans = s.plans := rfl
@[simp] theorem modPwr_pins (f : Pwr → Pwr) : (s.modPwr f).pins = s.pins := rfl
@[simp] theorem modPwr_hw (f : Pwr → Pwr) : (s.modPwr f).hw = s.hw := rfl
@[simp] theorem modPwr_wdn (f : Pwr → Pwr) : (s.modPwr f).wdn = s.wdn := rfl
@[simp] theorem modPwr_loft (f : Pwr → Pwr) : (s.modPwr f).loft = s.loft := rfl
@[simp] theorem modPwr_sem (f : Pwr → Pwr) : (s.modPwr f).sem = s.sem := rfl
@[simp] theorem modPwr_gal (f : Pwr → Pwr) : (s.modPwr f).gal = s.gal := rfl
@[simp] theorem modPwr_eth (f : Pwr → Pwr) : (s.modPwr f).eth = s.eth := rfl
@[simp] theorem modPwr_lnd (f : Pwr → Pwr) : (s.modPwr f).lnd = s.lnd := rfl
@[simp] theorem modPwr_grd (f : Pwr → Pwr) : (s.modPwr f).grd = s.grd := rfl
@[simp] theorem modPwr_can (f : Pwr → Pwr) : (s.modPwr f).can = s.can := rfl
@[simp] theorem modPwr_trd (f : Pwr → Pwr) : (s.modPwr f).trd = s.trd := rfl
@[simp] theorem modPwr_twb (f : Pwr → Pwr) : (s.modPwr f).twb = s.twb := rfl
@[simp] theorem modPwr_host (f : Pwr → Pwr) : (s.modPwr f).host = s.host := rfl
@[simp] theorem modPwr_chu (f : Pwr → Pwr) : (s.modPwr f).chu = s.chu := rfl
@[simp] theorem modPwr_evt (f : Pwr → Pwr) : (s.modPwr f).evt = s.evt := rfl
@[simp] theorem modPwr_sec (f : Pwr → Pwr) : (s.modPwr f).sec = s.sec := rfl
@[simp] theorem modPwr_upd (f : Pwr → Pwr) : (s.modPwr f).upd = s.upd := rfl
@[simp] theorem modPwr_pwr (f : Pwr → Pwr) : (s.modPwr f).pwr = f s.pwr := rfl
@[simp] theorem modPwr_flash (f : Pwr → Pwr) : (s.modPwr f).flash = s.flash := rfl
@[simp] theorem modPwr_free (f : Pwr → Pwr) : (s.modPwr f).free = s.free := rfl
@[simp] theorem modPwr_rd (f : Pwr → Pwr) : (s.modPwr f).rd = s.rd := rfl
@[simp] theorem modPwr_sent (f : Pwr → Pwr) : (s.modPwr f).sent = s.sent := rfl

/-! modLay. -/

@[simp] theorem modLay_pending (f : Lay → Lay) : (s.modLay f).pending = s.pending := rfl
@[simp] theorem modLay_tb (f : Lay → Lay) : (s.modLay f).tb = s.tb := rfl
@[simp] theorem modLay_sbu (f : Lay → Lay) : (s.modLay f).sbu = s.sbu := rfl
@[simp] theorem modLay_lay (f : Lay → Lay) : (s.modLay f).lay = f s.lay := rfl
@[simp] theorem modLay_plans (f : Lay → Lay) : (s.modLay f).plans = s.plans := rfl
@[simp] theorem modLay_pins (f : Lay → Lay) : (s.modLay f).pins = s.pins := rfl
@[simp] theorem modLay_hw (f : Lay → Lay) : (s.modLay f).hw = s.hw := rfl
@[simp] theorem modLay_wdn (f : Lay → Lay) : (s.modLay f).wdn = s.wdn := rfl
@[simp] theorem modLay_loft (f : Lay → Lay) : (s.modLay f).loft = s.loft := rfl
@[simp] theorem modLay_sem (f : Lay → Lay) : (s.modLay f).sem = s.sem := rfl
@[simp] theorem modLay_gal (f : Lay → Lay) : (s.modLay f).gal = s.gal := rfl
@[simp] theorem modLay_eth (f : Lay → Lay) : (s.modLay f).eth = s.eth := rfl
@[simp] theorem modLay_lnd (f : Lay → Lay) : (s.modLay f).lnd = s.lnd := rfl
@[simp] theorem modLay_grd (f : Lay → Lay) : (s.modLay f).grd = s.grd := rfl
@[simp] theorem modLay_can (f : Lay → Lay) : (s.modLay f).can = s.can := rfl
@[simp] theorem modLay_trd (f : Lay → Lay) : (s.modLay f).trd = s.trd := rfl
@[simp] theorem modLay_twb (f : Lay → Lay) : (s.modLay f).twb = s.twb := rfl
@[simp] theorem modLay_host (f : Lay → Lay) : (s.modLay f).host = s.host := rfl
@[simp] theorem modLay_chu (f : Lay → Lay) : (s.modLay f).chu = s.chu := rfl
@[simp] theorem modLay_evt (f : Lay → Lay) : (s.modLay f).evt = s.evt := rfl
@[simp] theorem modLay_sec (f : Lay → Lay) : (s.modLay f).sec = s.sec := rfl
@[simp] theorem modLay_upd (f : Lay → Lay) : (s.modLay f).upd = s.upd := rfl
@[simp] theorem modLay_pwr (f : Lay → Lay) : (s.modLay f).pwr = s.pwr := rfl
@[simp] theorem modLay_flash (f : Lay → Lay) : (s.modLay f).flash = s.flash := rfl
@[simp] theorem modLay_free (f : Lay → Lay) : (s.modLay f).free = s.free := rfl
@[simp] theorem modLay_rd (f : Lay → Lay) : (s.modLay f).rd = s.rd := rfl
@[simp] theorem modLay_sent (f : Lay → Lay) : (s.modLay f).sent = s.sent := rfl

/-! modGal. -/

@[simp] theorem modGal_pending (f : Gallery → Gallery) : (s.modGal f).pending = s.pending := rfl
@[simp] theorem modGal_tb (f : Gallery → Gallery) : (s.modGal f).tb = s.tb := rfl
@[simp] theorem modGal_sbu (f : Gallery → Gallery) : (s.modGal f).sbu = s.sbu := rfl
@[simp] theorem modGal_lay (f : Gallery → Gallery) : (s.modGal f).lay = s.lay := rfl
@[simp] theorem modGal_plans (f : Gallery → Gallery) : (s.modGal f).plans = s.plans := rfl
@[simp] theorem modGal_pins (f : Gallery → Gallery) : (s.modGal f).pins = s.pins := rfl
@[simp] theorem modGal_hw (f : Gallery → Gallery) : (s.modGal f).hw = s.hw := rfl
@[simp] theorem modGal_wdn (f : Gallery → Gallery) : (s.modGal f).wdn = s.wdn := rfl
@[simp] theorem modGal_loft (f : Gallery → Gallery) : (s.modGal f).loft = s.loft := rfl
@[simp] theorem modGal_sem (f : Gallery → Gallery) : (s.modGal f).sem = s.sem := rfl
@[simp] theorem modGal_gal (f : Gallery → Gallery) : (s.modGal f).gal = f s.gal := rfl
@[simp] theorem modGal_eth (f : Gallery → Gallery) : (s.modGal f).eth = s.eth := rfl
@[simp] theorem modGal_lnd (f : Gallery → Gallery) : (s.modGal f).lnd = s.lnd := rfl
@[simp] theorem modGal_grd (f : Gallery → Gallery) : (s.modGal f).grd = s.grd := rfl
@[simp] theorem modGal_can (f : Gallery → Gallery) : (s.modGal f).can = s.can := rfl
@[simp] theorem modGal_trd (f : Gallery → Gallery) : (s.modGal f).trd = s.trd := rfl
@[simp] theorem modGal_twb (f : Gallery → Gallery) : (s.modGal f).twb = s.twb := rfl
@[simp] theorem modGal_host (f : Gallery → Gallery) : (s.modGal f).host = s.host := rfl
@[simp] theorem modGal_chu (f : Gallery → Gallery) : (s.modGal f).chu = s.chu := rfl
@[simp] theorem modGal_evt (f : Gallery → Gallery) : (s.modGal f).evt = s.evt := rfl
@[simp] theorem modGal_sec (f : Gallery → Gallery) : (s.modGal f).sec = s.sec := rfl
@[simp] theorem modGal_upd (f : Gallery → Gallery) : (s.modGal f).upd = s.upd := rfl
@[simp] theorem modGal_pwr (f : Gallery → Gallery) : (s.modGal f).pwr = s.pwr := rfl
@[simp] theorem modGal_flash (f : Gallery → Gallery) : (s.modGal f).flash = s.flash := rfl
@[simp] theorem modGal_free (f : Gallery → Gallery) : (s.modGal f).free = s.free := rfl
@[simp] theorem modGal_rd (f : Gallery → Gallery) : (s.modGal f).rd = s.rd := rfl
@[simp] theorem modGal_sent (f : Gallery → Gallery) : (s.modGal f).sent = s.sent := rfl

/-! modRegs. -/

@[simp] theorem modRegs_pending (n : Fin 16) (f : HewerRegs → HewerRegs) : (s.modRegs n f).pending = s.pending := rfl
@[simp] theorem modRegs_tb (n : Fin 16) (f : HewerRegs → HewerRegs) : (s.modRegs n f).tb = s.tb := rfl
@[simp] theorem modRegs_sbu (n : Fin 16) (f : HewerRegs → HewerRegs) : (s.modRegs n f).sbu = s.sbu := rfl
@[simp] theorem modRegs_lay (n : Fin 16) (f : HewerRegs → HewerRegs) : (s.modRegs n f).lay = s.lay := rfl
@[simp] theorem modRegs_plans (n : Fin 16) (f : HewerRegs → HewerRegs) : (s.modRegs n f).plans = s.plans := rfl
@[simp] theorem modRegs_pins (n : Fin 16) (f : HewerRegs → HewerRegs) : (s.modRegs n f).pins = s.pins := rfl
@[simp] theorem modRegs_hw (n : Fin 16) (f : HewerRegs → HewerRegs) : (s.modRegs n f).hw = vmod s.hw n fun h => { h with regs := f h.regs } := rfl
@[simp] theorem modRegs_wdn (n : Fin 16) (f : HewerRegs → HewerRegs) : (s.modRegs n f).wdn = s.wdn := rfl
@[simp] theorem modRegs_loft (n : Fin 16) (f : HewerRegs → HewerRegs) : (s.modRegs n f).loft = s.loft := rfl
@[simp] theorem modRegs_sem (n : Fin 16) (f : HewerRegs → HewerRegs) : (s.modRegs n f).sem = s.sem := rfl
@[simp] theorem modRegs_gal (n : Fin 16) (f : HewerRegs → HewerRegs) : (s.modRegs n f).gal = s.gal := rfl
@[simp] theorem modRegs_eth (n : Fin 16) (f : HewerRegs → HewerRegs) : (s.modRegs n f).eth = s.eth := rfl
@[simp] theorem modRegs_lnd (n : Fin 16) (f : HewerRegs → HewerRegs) : (s.modRegs n f).lnd = s.lnd := rfl
@[simp] theorem modRegs_grd (n : Fin 16) (f : HewerRegs → HewerRegs) : (s.modRegs n f).grd = s.grd := rfl
@[simp] theorem modRegs_can (n : Fin 16) (f : HewerRegs → HewerRegs) : (s.modRegs n f).can = s.can := rfl
@[simp] theorem modRegs_trd (n : Fin 16) (f : HewerRegs → HewerRegs) : (s.modRegs n f).trd = s.trd := rfl
@[simp] theorem modRegs_twb (n : Fin 16) (f : HewerRegs → HewerRegs) : (s.modRegs n f).twb = s.twb := rfl
@[simp] theorem modRegs_host (n : Fin 16) (f : HewerRegs → HewerRegs) : (s.modRegs n f).host = s.host := rfl
@[simp] theorem modRegs_chu (n : Fin 16) (f : HewerRegs → HewerRegs) : (s.modRegs n f).chu = s.chu := rfl
@[simp] theorem modRegs_evt (n : Fin 16) (f : HewerRegs → HewerRegs) : (s.modRegs n f).evt = s.evt := rfl
@[simp] theorem modRegs_sec (n : Fin 16) (f : HewerRegs → HewerRegs) : (s.modRegs n f).sec = s.sec := rfl
@[simp] theorem modRegs_upd (n : Fin 16) (f : HewerRegs → HewerRegs) : (s.modRegs n f).upd = s.upd := rfl
@[simp] theorem modRegs_pwr (n : Fin 16) (f : HewerRegs → HewerRegs) : (s.modRegs n f).pwr = s.pwr := rfl
@[simp] theorem modRegs_flash (n : Fin 16) (f : HewerRegs → HewerRegs) : (s.modRegs n f).flash = s.flash := rfl
@[simp] theorem modRegs_free (n : Fin 16) (f : HewerRegs → HewerRegs) : (s.modRegs n f).free = s.free := rfl
@[simp] theorem modRegs_rd (n : Fin 16) (f : HewerRegs → HewerRegs) : (s.modRegs n f).rd = s.rd := rfl
@[simp] theorem modRegs_sent (n : Fin 16) (f : HewerRegs → HewerRegs) : (s.modRegs n f).sent = s.sent := rfl

/-! modHio. -/

@[simp] theorem modHio_pending (n : Fin 16) (f : Hio → Hio) : (s.modHio n f).pending = s.pending := rfl
@[simp] theorem modHio_tb (n : Fin 16) (f : Hio → Hio) : (s.modHio n f).tb = s.tb := rfl
@[simp] theorem modHio_sbu (n : Fin 16) (f : Hio → Hio) : (s.modHio n f).sbu = s.sbu := rfl
@[simp] theorem modHio_lay (n : Fin 16) (f : Hio → Hio) : (s.modHio n f).lay = s.lay := rfl
@[simp] theorem modHio_plans (n : Fin 16) (f : Hio → Hio) : (s.modHio n f).plans = s.plans := rfl
@[simp] theorem modHio_pins (n : Fin 16) (f : Hio → Hio) : (s.modHio n f).pins = s.pins := rfl
@[simp] theorem modHio_hw (n : Fin 16) (f : Hio → Hio) : (s.modHio n f).hw = vmod s.hw n fun h => { h with hio := f h.hio } := rfl
@[simp] theorem modHio_wdn (n : Fin 16) (f : Hio → Hio) : (s.modHio n f).wdn = s.wdn := rfl
@[simp] theorem modHio_loft (n : Fin 16) (f : Hio → Hio) : (s.modHio n f).loft = s.loft := rfl
@[simp] theorem modHio_sem (n : Fin 16) (f : Hio → Hio) : (s.modHio n f).sem = s.sem := rfl
@[simp] theorem modHio_gal (n : Fin 16) (f : Hio → Hio) : (s.modHio n f).gal = s.gal := rfl
@[simp] theorem modHio_eth (n : Fin 16) (f : Hio → Hio) : (s.modHio n f).eth = s.eth := rfl
@[simp] theorem modHio_lnd (n : Fin 16) (f : Hio → Hio) : (s.modHio n f).lnd = s.lnd := rfl
@[simp] theorem modHio_grd (n : Fin 16) (f : Hio → Hio) : (s.modHio n f).grd = s.grd := rfl
@[simp] theorem modHio_can (n : Fin 16) (f : Hio → Hio) : (s.modHio n f).can = s.can := rfl
@[simp] theorem modHio_trd (n : Fin 16) (f : Hio → Hio) : (s.modHio n f).trd = s.trd := rfl
@[simp] theorem modHio_twb (n : Fin 16) (f : Hio → Hio) : (s.modHio n f).twb = s.twb := rfl
@[simp] theorem modHio_host (n : Fin 16) (f : Hio → Hio) : (s.modHio n f).host = s.host := rfl
@[simp] theorem modHio_chu (n : Fin 16) (f : Hio → Hio) : (s.modHio n f).chu = s.chu := rfl
@[simp] theorem modHio_evt (n : Fin 16) (f : Hio → Hio) : (s.modHio n f).evt = s.evt := rfl
@[simp] theorem modHio_sec (n : Fin 16) (f : Hio → Hio) : (s.modHio n f).sec = s.sec := rfl
@[simp] theorem modHio_upd (n : Fin 16) (f : Hio → Hio) : (s.modHio n f).upd = s.upd := rfl
@[simp] theorem modHio_pwr (n : Fin 16) (f : Hio → Hio) : (s.modHio n f).pwr = s.pwr := rfl
@[simp] theorem modHio_flash (n : Fin 16) (f : Hio → Hio) : (s.modHio n f).flash = s.flash := rfl
@[simp] theorem modHio_free (n : Fin 16) (f : Hio → Hio) : (s.modHio n f).free = s.free := rfl
@[simp] theorem modHio_rd (n : Fin 16) (f : Hio → Hio) : (s.modHio n f).rd = s.rd := rfl
@[simp] theorem modHio_sent (n : Fin 16) (f : Hio → Hio) : (s.modHio n f).sent = s.sent := rfl

/-! modCtx. -/

@[simp] theorem modCtx_pending (h : Fin 4) (f : ChuteCtx → ChuteCtx) : (s.modCtx h f).pending = s.pending := rfl
@[simp] theorem modCtx_tb (h : Fin 4) (f : ChuteCtx → ChuteCtx) : (s.modCtx h f).tb = s.tb := rfl
@[simp] theorem modCtx_sbu (h : Fin 4) (f : ChuteCtx → ChuteCtx) : (s.modCtx h f).sbu = s.sbu := rfl
@[simp] theorem modCtx_lay (h : Fin 4) (f : ChuteCtx → ChuteCtx) : (s.modCtx h f).lay = s.lay := rfl
@[simp] theorem modCtx_plans (h : Fin 4) (f : ChuteCtx → ChuteCtx) : (s.modCtx h f).plans = s.plans := rfl
@[simp] theorem modCtx_pins (h : Fin 4) (f : ChuteCtx → ChuteCtx) : (s.modCtx h f).pins = s.pins := rfl
@[simp] theorem modCtx_hw (h : Fin 4) (f : ChuteCtx → ChuteCtx) : (s.modCtx h f).hw = s.hw := rfl
@[simp] theorem modCtx_wdn (h : Fin 4) (f : ChuteCtx → ChuteCtx) : (s.modCtx h f).wdn = s.wdn := rfl
@[simp] theorem modCtx_loft (h : Fin 4) (f : ChuteCtx → ChuteCtx) : (s.modCtx h f).loft = s.loft := rfl
@[simp] theorem modCtx_sem (h : Fin 4) (f : ChuteCtx → ChuteCtx) : (s.modCtx h f).sem = s.sem := rfl
@[simp] theorem modCtx_gal (h : Fin 4) (f : ChuteCtx → ChuteCtx) : (s.modCtx h f).gal = s.gal := rfl
@[simp] theorem modCtx_eth (h : Fin 4) (f : ChuteCtx → ChuteCtx) : (s.modCtx h f).eth = s.eth := rfl
@[simp] theorem modCtx_lnd (h : Fin 4) (f : ChuteCtx → ChuteCtx) : (s.modCtx h f).lnd = s.lnd := rfl
@[simp] theorem modCtx_grd (h : Fin 4) (f : ChuteCtx → ChuteCtx) : (s.modCtx h f).grd = s.grd := rfl
@[simp] theorem modCtx_can (h : Fin 4) (f : ChuteCtx → ChuteCtx) : (s.modCtx h f).can = s.can := rfl
@[simp] theorem modCtx_trd (h : Fin 4) (f : ChuteCtx → ChuteCtx) : (s.modCtx h f).trd = s.trd := rfl
@[simp] theorem modCtx_twb (h : Fin 4) (f : ChuteCtx → ChuteCtx) : (s.modCtx h f).twb = s.twb := rfl
@[simp] theorem modCtx_host (h : Fin 4) (f : ChuteCtx → ChuteCtx) : (s.modCtx h f).host = s.host := rfl
@[simp] theorem modCtx_chu (h : Fin 4) (f : ChuteCtx → ChuteCtx) : (s.modCtx h f).chu = { s.chu with ctx := vmod s.chu.ctx h f } := rfl
@[simp] theorem modCtx_evt (h : Fin 4) (f : ChuteCtx → ChuteCtx) : (s.modCtx h f).evt = s.evt := rfl
@[simp] theorem modCtx_sec (h : Fin 4) (f : ChuteCtx → ChuteCtx) : (s.modCtx h f).sec = s.sec := rfl
@[simp] theorem modCtx_upd (h : Fin 4) (f : ChuteCtx → ChuteCtx) : (s.modCtx h f).upd = s.upd := rfl
@[simp] theorem modCtx_pwr (h : Fin 4) (f : ChuteCtx → ChuteCtx) : (s.modCtx h f).pwr = s.pwr := rfl
@[simp] theorem modCtx_flash (h : Fin 4) (f : ChuteCtx → ChuteCtx) : (s.modCtx h f).flash = s.flash := rfl
@[simp] theorem modCtx_free (h : Fin 4) (f : ChuteCtx → ChuteCtx) : (s.modCtx h f).free = s.free := rfl
@[simp] theorem modCtx_rd (h : Fin 4) (f : ChuteCtx → ChuteCtx) : (s.modCtx h f).rd = s.rd := rfl
@[simp] theorem modCtx_sent (h : Fin 4) (f : ChuteCtx → ChuteCtx) : (s.modCtx h f).sent = s.sent := rfl

/-! modChan. -/

@[simp] theorem modChan_pending (c : Fin 168) (f : Channel → Channel) : (s.modChan c f).pending = s.pending := rfl
@[simp] theorem modChan_tb (c : Fin 168) (f : Channel → Channel) : (s.modChan c f).tb = s.tb := rfl
@[simp] theorem modChan_sbu (c : Fin 168) (f : Channel → Channel) : (s.modChan c f).sbu = s.sbu := rfl
@[simp] theorem modChan_lay (c : Fin 168) (f : Channel → Channel) : (s.modChan c f).lay = s.lay := rfl
@[simp] theorem modChan_plans (c : Fin 168) (f : Channel → Channel) : (s.modChan c f).plans = s.plans := rfl
@[simp] theorem modChan_pins (c : Fin 168) (f : Channel → Channel) : (s.modChan c f).pins = s.pins := rfl
@[simp] theorem modChan_hw (c : Fin 168) (f : Channel → Channel) : (s.modChan c f).hw = s.hw := rfl
@[simp] theorem modChan_wdn (c : Fin 168) (f : Channel → Channel) : (s.modChan c f).wdn = s.wdn := rfl
@[simp] theorem modChan_loft (c : Fin 168) (f : Channel → Channel) : (s.modChan c f).loft = s.loft := rfl
@[simp] theorem modChan_sem (c : Fin 168) (f : Channel → Channel) : (s.modChan c f).sem = s.sem := rfl
@[simp] theorem modChan_gal (c : Fin 168) (f : Channel → Channel) : (s.modChan c f).gal = s.gal := rfl
@[simp] theorem modChan_eth (c : Fin 168) (f : Channel → Channel) : (s.modChan c f).eth = s.eth := rfl
@[simp] theorem modChan_lnd (c : Fin 168) (f : Channel → Channel) : (s.modChan c f).lnd = s.lnd := rfl
@[simp] theorem modChan_grd (c : Fin 168) (f : Channel → Channel) : (s.modChan c f).grd = s.grd := rfl
@[simp] theorem modChan_can (c : Fin 168) (f : Channel → Channel) : (s.modChan c f).can = s.can := rfl
@[simp] theorem modChan_trd (c : Fin 168) (f : Channel → Channel) : (s.modChan c f).trd = s.trd := rfl
@[simp] theorem modChan_twb (c : Fin 168) (f : Channel → Channel) : (s.modChan c f).twb = s.twb := rfl
@[simp] theorem modChan_host (c : Fin 168) (f : Channel → Channel) : (s.modChan c f).host = s.host := rfl
@[simp] theorem modChan_chu (c : Fin 168) (f : Channel → Channel) : (s.modChan c f).chu = { s.chu with chan := vmod s.chu.chan c f } := rfl
@[simp] theorem modChan_evt (c : Fin 168) (f : Channel → Channel) : (s.modChan c f).evt = s.evt := rfl
@[simp] theorem modChan_sec (c : Fin 168) (f : Channel → Channel) : (s.modChan c f).sec = s.sec := rfl
@[simp] theorem modChan_upd (c : Fin 168) (f : Channel → Channel) : (s.modChan c f).upd = s.upd := rfl
@[simp] theorem modChan_pwr (c : Fin 168) (f : Channel → Channel) : (s.modChan c f).pwr = s.pwr := rfl
@[simp] theorem modChan_flash (c : Fin 168) (f : Channel → Channel) : (s.modChan c f).flash = s.flash := rfl
@[simp] theorem modChan_free (c : Fin 168) (f : Channel → Channel) : (s.modChan c f).free = s.free := rfl
@[simp] theorem modChan_rd (c : Fin 168) (f : Channel → Channel) : (s.modChan c f).rd = s.rd := rfl
@[simp] theorem modChan_sent (c : Fin 168) (f : Channel → Channel) : (s.modChan c f).sent = s.sent := rfl

/-! modEvt. -/

@[simp] theorem modEvt_pending (f : Events → Events) : (s.modEvt f).pending = s.pending := rfl
@[simp] theorem modEvt_tb (f : Events → Events) : (s.modEvt f).tb = s.tb := rfl
@[simp] theorem modEvt_sbu (f : Events → Events) : (s.modEvt f).sbu = s.sbu := rfl
@[simp] theorem modEvt_lay (f : Events → Events) : (s.modEvt f).lay = s.lay := rfl
@[simp] theorem modEvt_plans (f : Events → Events) : (s.modEvt f).plans = s.plans := rfl
@[simp] theorem modEvt_pins (f : Events → Events) : (s.modEvt f).pins = s.pins := rfl
@[simp] theorem modEvt_hw (f : Events → Events) : (s.modEvt f).hw = s.hw := rfl
@[simp] theorem modEvt_wdn (f : Events → Events) : (s.modEvt f).wdn = s.wdn := rfl
@[simp] theorem modEvt_loft (f : Events → Events) : (s.modEvt f).loft = s.loft := rfl
@[simp] theorem modEvt_sem (f : Events → Events) : (s.modEvt f).sem = s.sem := rfl
@[simp] theorem modEvt_gal (f : Events → Events) : (s.modEvt f).gal = s.gal := rfl
@[simp] theorem modEvt_eth (f : Events → Events) : (s.modEvt f).eth = s.eth := rfl
@[simp] theorem modEvt_lnd (f : Events → Events) : (s.modEvt f).lnd = s.lnd := rfl
@[simp] theorem modEvt_grd (f : Events → Events) : (s.modEvt f).grd = s.grd := rfl
@[simp] theorem modEvt_can (f : Events → Events) : (s.modEvt f).can = s.can := rfl
@[simp] theorem modEvt_trd (f : Events → Events) : (s.modEvt f).trd = s.trd := rfl
@[simp] theorem modEvt_twb (f : Events → Events) : (s.modEvt f).twb = s.twb := rfl
@[simp] theorem modEvt_host (f : Events → Events) : (s.modEvt f).host = s.host := rfl
@[simp] theorem modEvt_chu (f : Events → Events) : (s.modEvt f).chu = s.chu := rfl
@[simp] theorem modEvt_evt (f : Events → Events) : (s.modEvt f).evt = f s.evt := rfl
@[simp] theorem modEvt_sec (f : Events → Events) : (s.modEvt f).sec = s.sec := rfl
@[simp] theorem modEvt_upd (f : Events → Events) : (s.modEvt f).upd = s.upd := rfl
@[simp] theorem modEvt_pwr (f : Events → Events) : (s.modEvt f).pwr = s.pwr := rfl
@[simp] theorem modEvt_flash (f : Events → Events) : (s.modEvt f).flash = s.flash := rfl
@[simp] theorem modEvt_free (f : Events → Events) : (s.modEvt f).free = s.free := rfl
@[simp] theorem modEvt_rd (f : Events → Events) : (s.modEvt f).rd = s.rd := rfl
@[simp] theorem modEvt_sent (f : Events → Events) : (s.modEvt f).sent = s.sent := rfl

/-! modGrp. -/

@[simp] theorem modGrp_pending (g : Fin 128) (f : GroupState → GroupState) : (s.modGrp g f).pending = s.pending := rfl
@[simp] theorem modGrp_tb (g : Fin 128) (f : GroupState → GroupState) : (s.modGrp g f).tb = s.tb := rfl
@[simp] theorem modGrp_sbu (g : Fin 128) (f : GroupState → GroupState) : (s.modGrp g f).sbu = s.sbu := rfl
@[simp] theorem modGrp_lay (g : Fin 128) (f : GroupState → GroupState) : (s.modGrp g f).lay = s.lay := rfl
@[simp] theorem modGrp_plans (g : Fin 128) (f : GroupState → GroupState) : (s.modGrp g f).plans = s.plans := rfl
@[simp] theorem modGrp_pins (g : Fin 128) (f : GroupState → GroupState) : (s.modGrp g f).pins = s.pins := rfl
@[simp] theorem modGrp_hw (g : Fin 128) (f : GroupState → GroupState) : (s.modGrp g f).hw = s.hw := rfl
@[simp] theorem modGrp_wdn (g : Fin 128) (f : GroupState → GroupState) : (s.modGrp g f).wdn = s.wdn := rfl
@[simp] theorem modGrp_loft (g : Fin 128) (f : GroupState → GroupState) : (s.modGrp g f).loft = s.loft := rfl
@[simp] theorem modGrp_sem (g : Fin 128) (f : GroupState → GroupState) : (s.modGrp g f).sem = s.sem := rfl
@[simp] theorem modGrp_gal (g : Fin 128) (f : GroupState → GroupState) : (s.modGrp g f).gal = { s.gal with grp := vmod s.gal.grp g f } := rfl
@[simp] theorem modGrp_eth (g : Fin 128) (f : GroupState → GroupState) : (s.modGrp g f).eth = s.eth := rfl
@[simp] theorem modGrp_lnd (g : Fin 128) (f : GroupState → GroupState) : (s.modGrp g f).lnd = s.lnd := rfl
@[simp] theorem modGrp_grd (g : Fin 128) (f : GroupState → GroupState) : (s.modGrp g f).grd = s.grd := rfl
@[simp] theorem modGrp_can (g : Fin 128) (f : GroupState → GroupState) : (s.modGrp g f).can = s.can := rfl
@[simp] theorem modGrp_trd (g : Fin 128) (f : GroupState → GroupState) : (s.modGrp g f).trd = s.trd := rfl
@[simp] theorem modGrp_twb (g : Fin 128) (f : GroupState → GroupState) : (s.modGrp g f).twb = s.twb := rfl
@[simp] theorem modGrp_host (g : Fin 128) (f : GroupState → GroupState) : (s.modGrp g f).host = s.host := rfl
@[simp] theorem modGrp_chu (g : Fin 128) (f : GroupState → GroupState) : (s.modGrp g f).chu = s.chu := rfl
@[simp] theorem modGrp_evt (g : Fin 128) (f : GroupState → GroupState) : (s.modGrp g f).evt = s.evt := rfl
@[simp] theorem modGrp_sec (g : Fin 128) (f : GroupState → GroupState) : (s.modGrp g f).sec = s.sec := rfl
@[simp] theorem modGrp_upd (g : Fin 128) (f : GroupState → GroupState) : (s.modGrp g f).upd = s.upd := rfl
@[simp] theorem modGrp_pwr (g : Fin 128) (f : GroupState → GroupState) : (s.modGrp g f).pwr = s.pwr := rfl
@[simp] theorem modGrp_flash (g : Fin 128) (f : GroupState → GroupState) : (s.modGrp g f).flash = s.flash := rfl
@[simp] theorem modGrp_free (g : Fin 128) (f : GroupState → GroupState) : (s.modGrp g f).free = s.free := rfl
@[simp] theorem modGrp_rd (g : Fin 128) (f : GroupState → GroupState) : (s.modGrp g f).rd = s.rd := rfl
@[simp] theorem modGrp_sent (g : Fin 128) (f : GroupState → GroupState) : (s.modGrp g f).sent = s.sent := rfl

/-! modDma. -/

@[simp] theorem modDma_pending (c : Fin 8) (f : Dma → Dma) : (s.modDma c f).pending = s.pending := rfl
@[simp] theorem modDma_tb (c : Fin 8) (f : Dma → Dma) : (s.modDma c f).tb = s.tb := rfl
@[simp] theorem modDma_sbu (c : Fin 8) (f : Dma → Dma) : (s.modDma c f).sbu = s.sbu := rfl
@[simp] theorem modDma_lay (c : Fin 8) (f : Dma → Dma) : (s.modDma c f).lay = s.lay := rfl
@[simp] theorem modDma_plans (c : Fin 8) (f : Dma → Dma) : (s.modDma c f).plans = s.plans := rfl
@[simp] theorem modDma_pins (c : Fin 8) (f : Dma → Dma) : (s.modDma c f).pins = s.pins := rfl
@[simp] theorem modDma_hw (c : Fin 8) (f : Dma → Dma) : (s.modDma c f).hw = s.hw := rfl
@[simp] theorem modDma_wdn (c : Fin 8) (f : Dma → Dma) : (s.modDma c f).wdn = s.wdn := rfl
@[simp] theorem modDma_loft (c : Fin 8) (f : Dma → Dma) : (s.modDma c f).loft = s.loft := rfl
@[simp] theorem modDma_sem (c : Fin 8) (f : Dma → Dma) : (s.modDma c f).sem = s.sem := rfl
@[simp] theorem modDma_gal (c : Fin 8) (f : Dma → Dma) : (s.modDma c f).gal = s.gal := rfl
@[simp] theorem modDma_eth (c : Fin 8) (f : Dma → Dma) : (s.modDma c f).eth = s.eth := rfl
@[simp] theorem modDma_lnd (c : Fin 8) (f : Dma → Dma) : (s.modDma c f).lnd = s.lnd := rfl
@[simp] theorem modDma_grd (c : Fin 8) (f : Dma → Dma) : (s.modDma c f).grd = s.grd := rfl
@[simp] theorem modDma_can (c : Fin 8) (f : Dma → Dma) : (s.modDma c f).can = s.can := rfl
@[simp] theorem modDma_trd (c : Fin 8) (f : Dma → Dma) : (s.modDma c f).trd = s.trd := rfl
@[simp] theorem modDma_twb (c : Fin 8) (f : Dma → Dma) : (s.modDma c f).twb = s.twb := rfl
@[simp] theorem modDma_host (c : Fin 8) (f : Dma → Dma) : (s.modDma c f).host = { s.host with dma := vmod s.host.dma c f } := rfl
@[simp] theorem modDma_chu (c : Fin 8) (f : Dma → Dma) : (s.modDma c f).chu = s.chu := rfl
@[simp] theorem modDma_evt (c : Fin 8) (f : Dma → Dma) : (s.modDma c f).evt = s.evt := rfl
@[simp] theorem modDma_sec (c : Fin 8) (f : Dma → Dma) : (s.modDma c f).sec = s.sec := rfl
@[simp] theorem modDma_upd (c : Fin 8) (f : Dma → Dma) : (s.modDma c f).upd = s.upd := rfl
@[simp] theorem modDma_pwr (c : Fin 8) (f : Dma → Dma) : (s.modDma c f).pwr = s.pwr := rfl
@[simp] theorem modDma_flash (c : Fin 8) (f : Dma → Dma) : (s.modDma c f).flash = s.flash := rfl
@[simp] theorem modDma_free (c : Fin 8) (f : Dma → Dma) : (s.modDma c f).free = s.free := rfl
@[simp] theorem modDma_rd (c : Fin 8) (f : Dma → Dma) : (s.modDma c f).rd = s.rd := rfl
@[simp] theorem modDma_sent (c : Fin 8) (f : Dma → Dma) : (s.modDma c f).sent = s.sent := rfl

/-! modLnd. -/

@[simp] theorem modLnd_pending (f : Lnd → Lnd) : (s.modLnd f).pending = s.pending := rfl
@[simp] theorem modLnd_tb (f : Lnd → Lnd) : (s.modLnd f).tb = s.tb := rfl
@[simp] theorem modLnd_sbu (f : Lnd → Lnd) : (s.modLnd f).sbu = s.sbu := rfl
@[simp] theorem modLnd_lay (f : Lnd → Lnd) : (s.modLnd f).lay = s.lay := rfl
@[simp] theorem modLnd_plans (f : Lnd → Lnd) : (s.modLnd f).plans = s.plans := rfl
@[simp] theorem modLnd_pins (f : Lnd → Lnd) : (s.modLnd f).pins = s.pins := rfl
@[simp] theorem modLnd_hw (f : Lnd → Lnd) : (s.modLnd f).hw = s.hw := rfl
@[simp] theorem modLnd_wdn (f : Lnd → Lnd) : (s.modLnd f).wdn = s.wdn := rfl
@[simp] theorem modLnd_loft (f : Lnd → Lnd) : (s.modLnd f).loft = s.loft := rfl
@[simp] theorem modLnd_sem (f : Lnd → Lnd) : (s.modLnd f).sem = s.sem := rfl
@[simp] theorem modLnd_gal (f : Lnd → Lnd) : (s.modLnd f).gal = s.gal := rfl
@[simp] theorem modLnd_eth (f : Lnd → Lnd) : (s.modLnd f).eth = s.eth := rfl
@[simp] theorem modLnd_lnd (f : Lnd → Lnd) : (s.modLnd f).lnd = f s.lnd := rfl
@[simp] theorem modLnd_grd (f : Lnd → Lnd) : (s.modLnd f).grd = s.grd := rfl
@[simp] theorem modLnd_can (f : Lnd → Lnd) : (s.modLnd f).can = s.can := rfl
@[simp] theorem modLnd_trd (f : Lnd → Lnd) : (s.modLnd f).trd = s.trd := rfl
@[simp] theorem modLnd_twb (f : Lnd → Lnd) : (s.modLnd f).twb = s.twb := rfl
@[simp] theorem modLnd_host (f : Lnd → Lnd) : (s.modLnd f).host = s.host := rfl
@[simp] theorem modLnd_chu (f : Lnd → Lnd) : (s.modLnd f).chu = s.chu := rfl
@[simp] theorem modLnd_evt (f : Lnd → Lnd) : (s.modLnd f).evt = s.evt := rfl
@[simp] theorem modLnd_sec (f : Lnd → Lnd) : (s.modLnd f).sec = s.sec := rfl
@[simp] theorem modLnd_upd (f : Lnd → Lnd) : (s.modLnd f).upd = s.upd := rfl
@[simp] theorem modLnd_pwr (f : Lnd → Lnd) : (s.modLnd f).pwr = s.pwr := rfl
@[simp] theorem modLnd_flash (f : Lnd → Lnd) : (s.modLnd f).flash = s.flash := rfl
@[simp] theorem modLnd_free (f : Lnd → Lnd) : (s.modLnd f).free = s.free := rfl
@[simp] theorem modLnd_rd (f : Lnd → Lnd) : (s.modLnd f).rd = s.rd := rfl
@[simp] theorem modLnd_sent (f : Lnd → Lnd) : (s.modLnd f).sent = s.sent := rfl

/-! modEth. -/

@[simp] theorem modEth_pending (f : Eth → Eth) : (s.modEth f).pending = s.pending := rfl
@[simp] theorem modEth_tb (f : Eth → Eth) : (s.modEth f).tb = s.tb := rfl
@[simp] theorem modEth_sbu (f : Eth → Eth) : (s.modEth f).sbu = s.sbu := rfl
@[simp] theorem modEth_lay (f : Eth → Eth) : (s.modEth f).lay = s.lay := rfl
@[simp] theorem modEth_plans (f : Eth → Eth) : (s.modEth f).plans = s.plans := rfl
@[simp] theorem modEth_pins (f : Eth → Eth) : (s.modEth f).pins = s.pins := rfl
@[simp] theorem modEth_hw (f : Eth → Eth) : (s.modEth f).hw = s.hw := rfl
@[simp] theorem modEth_wdn (f : Eth → Eth) : (s.modEth f).wdn = s.wdn := rfl
@[simp] theorem modEth_loft (f : Eth → Eth) : (s.modEth f).loft = s.loft := rfl
@[simp] theorem modEth_sem (f : Eth → Eth) : (s.modEth f).sem = s.sem := rfl
@[simp] theorem modEth_gal (f : Eth → Eth) : (s.modEth f).gal = s.gal := rfl
@[simp] theorem modEth_eth (f : Eth → Eth) : (s.modEth f).eth = f s.eth := rfl
@[simp] theorem modEth_lnd (f : Eth → Eth) : (s.modEth f).lnd = s.lnd := rfl
@[simp] theorem modEth_grd (f : Eth → Eth) : (s.modEth f).grd = s.grd := rfl
@[simp] theorem modEth_can (f : Eth → Eth) : (s.modEth f).can = s.can := rfl
@[simp] theorem modEth_trd (f : Eth → Eth) : (s.modEth f).trd = s.trd := rfl
@[simp] theorem modEth_twb (f : Eth → Eth) : (s.modEth f).twb = s.twb := rfl
@[simp] theorem modEth_host (f : Eth → Eth) : (s.modEth f).host = s.host := rfl
@[simp] theorem modEth_chu (f : Eth → Eth) : (s.modEth f).chu = s.chu := rfl
@[simp] theorem modEth_evt (f : Eth → Eth) : (s.modEth f).evt = s.evt := rfl
@[simp] theorem modEth_sec (f : Eth → Eth) : (s.modEth f).sec = s.sec := rfl
@[simp] theorem modEth_upd (f : Eth → Eth) : (s.modEth f).upd = s.upd := rfl
@[simp] theorem modEth_pwr (f : Eth → Eth) : (s.modEth f).pwr = s.pwr := rfl
@[simp] theorem modEth_flash (f : Eth → Eth) : (s.modEth f).flash = s.flash := rfl
@[simp] theorem modEth_free (f : Eth → Eth) : (s.modEth f).free = s.free := rfl
@[simp] theorem modEth_rd (f : Eth → Eth) : (s.modEth f).rd = s.rd := rfl
@[simp] theorem modEth_sent (f : Eth → Eth) : (s.modEth f).sent = s.sent := rfl

/-! modPort. -/

@[simp] theorem modPort_pending (p : Fin 6) (f : EthPort → EthPort) : (s.modPort p f).pending = s.pending := rfl
@[simp] theorem modPort_tb (p : Fin 6) (f : EthPort → EthPort) : (s.modPort p f).tb = s.tb := rfl
@[simp] theorem modPort_sbu (p : Fin 6) (f : EthPort → EthPort) : (s.modPort p f).sbu = s.sbu := rfl
@[simp] theorem modPort_lay (p : Fin 6) (f : EthPort → EthPort) : (s.modPort p f).lay = s.lay := rfl
@[simp] theorem modPort_plans (p : Fin 6) (f : EthPort → EthPort) : (s.modPort p f).plans = s.plans := rfl
@[simp] theorem modPort_pins (p : Fin 6) (f : EthPort → EthPort) : (s.modPort p f).pins = s.pins := rfl
@[simp] theorem modPort_hw (p : Fin 6) (f : EthPort → EthPort) : (s.modPort p f).hw = s.hw := rfl
@[simp] theorem modPort_wdn (p : Fin 6) (f : EthPort → EthPort) : (s.modPort p f).wdn = s.wdn := rfl
@[simp] theorem modPort_loft (p : Fin 6) (f : EthPort → EthPort) : (s.modPort p f).loft = s.loft := rfl
@[simp] theorem modPort_sem (p : Fin 6) (f : EthPort → EthPort) : (s.modPort p f).sem = s.sem := rfl
@[simp] theorem modPort_gal (p : Fin 6) (f : EthPort → EthPort) : (s.modPort p f).gal = s.gal := rfl
@[simp] theorem modPort_eth (p : Fin 6) (f : EthPort → EthPort) : (s.modPort p f).eth = { s.eth with port := vmod s.eth.port p f } := rfl
@[simp] theorem modPort_lnd (p : Fin 6) (f : EthPort → EthPort) : (s.modPort p f).lnd = s.lnd := rfl
@[simp] theorem modPort_grd (p : Fin 6) (f : EthPort → EthPort) : (s.modPort p f).grd = s.grd := rfl
@[simp] theorem modPort_can (p : Fin 6) (f : EthPort → EthPort) : (s.modPort p f).can = s.can := rfl
@[simp] theorem modPort_trd (p : Fin 6) (f : EthPort → EthPort) : (s.modPort p f).trd = s.trd := rfl
@[simp] theorem modPort_twb (p : Fin 6) (f : EthPort → EthPort) : (s.modPort p f).twb = s.twb := rfl
@[simp] theorem modPort_host (p : Fin 6) (f : EthPort → EthPort) : (s.modPort p f).host = s.host := rfl
@[simp] theorem modPort_chu (p : Fin 6) (f : EthPort → EthPort) : (s.modPort p f).chu = s.chu := rfl
@[simp] theorem modPort_evt (p : Fin 6) (f : EthPort → EthPort) : (s.modPort p f).evt = s.evt := rfl
@[simp] theorem modPort_sec (p : Fin 6) (f : EthPort → EthPort) : (s.modPort p f).sec = s.sec := rfl
@[simp] theorem modPort_upd (p : Fin 6) (f : EthPort → EthPort) : (s.modPort p f).upd = s.upd := rfl
@[simp] theorem modPort_pwr (p : Fin 6) (f : EthPort → EthPort) : (s.modPort p f).pwr = s.pwr := rfl
@[simp] theorem modPort_flash (p : Fin 6) (f : EthPort → EthPort) : (s.modPort p f).flash = s.flash := rfl
@[simp] theorem modPort_free (p : Fin 6) (f : EthPort → EthPort) : (s.modPort p f).free = s.free := rfl
@[simp] theorem modPort_rd (p : Fin 6) (f : EthPort → EthPort) : (s.modPort p f).rd = s.rd := rfl
@[simp] theorem modPort_sent (p : Fin 6) (f : EthPort → EthPort) : (s.modPort p f).sent = s.sent := rfl

/-! modGrd. -/

@[simp] theorem modGrd_pending (f : Grd → Grd) : (s.modGrd f).pending = s.pending := rfl
@[simp] theorem modGrd_tb (f : Grd → Grd) : (s.modGrd f).tb = s.tb := rfl
@[simp] theorem modGrd_sbu (f : Grd → Grd) : (s.modGrd f).sbu = s.sbu := rfl
@[simp] theorem modGrd_lay (f : Grd → Grd) : (s.modGrd f).lay = s.lay := rfl
@[simp] theorem modGrd_plans (f : Grd → Grd) : (s.modGrd f).plans = s.plans := rfl
@[simp] theorem modGrd_pins (f : Grd → Grd) : (s.modGrd f).pins = s.pins := rfl
@[simp] theorem modGrd_hw (f : Grd → Grd) : (s.modGrd f).hw = s.hw := rfl
@[simp] theorem modGrd_wdn (f : Grd → Grd) : (s.modGrd f).wdn = s.wdn := rfl
@[simp] theorem modGrd_loft (f : Grd → Grd) : (s.modGrd f).loft = s.loft := rfl
@[simp] theorem modGrd_sem (f : Grd → Grd) : (s.modGrd f).sem = s.sem := rfl
@[simp] theorem modGrd_gal (f : Grd → Grd) : (s.modGrd f).gal = s.gal := rfl
@[simp] theorem modGrd_eth (f : Grd → Grd) : (s.modGrd f).eth = s.eth := rfl
@[simp] theorem modGrd_lnd (f : Grd → Grd) : (s.modGrd f).lnd = s.lnd := rfl
@[simp] theorem modGrd_grd (f : Grd → Grd) : (s.modGrd f).grd = f s.grd := rfl
@[simp] theorem modGrd_can (f : Grd → Grd) : (s.modGrd f).can = s.can := rfl
@[simp] theorem modGrd_trd (f : Grd → Grd) : (s.modGrd f).trd = s.trd := rfl
@[simp] theorem modGrd_twb (f : Grd → Grd) : (s.modGrd f).twb = s.twb := rfl
@[simp] theorem modGrd_host (f : Grd → Grd) : (s.modGrd f).host = s.host := rfl
@[simp] theorem modGrd_chu (f : Grd → Grd) : (s.modGrd f).chu = s.chu := rfl
@[simp] theorem modGrd_evt (f : Grd → Grd) : (s.modGrd f).evt = s.evt := rfl
@[simp] theorem modGrd_sec (f : Grd → Grd) : (s.modGrd f).sec = s.sec := rfl
@[simp] theorem modGrd_upd (f : Grd → Grd) : (s.modGrd f).upd = s.upd := rfl
@[simp] theorem modGrd_pwr (f : Grd → Grd) : (s.modGrd f).pwr = s.pwr := rfl
@[simp] theorem modGrd_flash (f : Grd → Grd) : (s.modGrd f).flash = s.flash := rfl
@[simp] theorem modGrd_free (f : Grd → Grd) : (s.modGrd f).free = s.free := rfl
@[simp] theorem modGrd_rd (f : Grd → Grd) : (s.modGrd f).rd = s.rd := rfl
@[simp] theorem modGrd_sent (f : Grd → Grd) : (s.modGrd f).sent = s.sent := rfl

/-! modSec. -/

@[simp] theorem modSec_pending (f : Sec → Sec) : (s.modSec f).pending = s.pending := rfl
@[simp] theorem modSec_tb (f : Sec → Sec) : (s.modSec f).tb = s.tb := rfl
@[simp] theorem modSec_sbu (f : Sec → Sec) : (s.modSec f).sbu = s.sbu := rfl
@[simp] theorem modSec_lay (f : Sec → Sec) : (s.modSec f).lay = s.lay := rfl
@[simp] theorem modSec_plans (f : Sec → Sec) : (s.modSec f).plans = s.plans := rfl
@[simp] theorem modSec_pins (f : Sec → Sec) : (s.modSec f).pins = s.pins := rfl
@[simp] theorem modSec_hw (f : Sec → Sec) : (s.modSec f).hw = s.hw := rfl
@[simp] theorem modSec_wdn (f : Sec → Sec) : (s.modSec f).wdn = s.wdn := rfl
@[simp] theorem modSec_loft (f : Sec → Sec) : (s.modSec f).loft = s.loft := rfl
@[simp] theorem modSec_sem (f : Sec → Sec) : (s.modSec f).sem = s.sem := rfl
@[simp] theorem modSec_gal (f : Sec → Sec) : (s.modSec f).gal = s.gal := rfl
@[simp] theorem modSec_eth (f : Sec → Sec) : (s.modSec f).eth = s.eth := rfl
@[simp] theorem modSec_lnd (f : Sec → Sec) : (s.modSec f).lnd = s.lnd := rfl
@[simp] theorem modSec_grd (f : Sec → Sec) : (s.modSec f).grd = s.grd := rfl
@[simp] theorem modSec_can (f : Sec → Sec) : (s.modSec f).can = s.can := rfl
@[simp] theorem modSec_trd (f : Sec → Sec) : (s.modSec f).trd = s.trd := rfl
@[simp] theorem modSec_twb (f : Sec → Sec) : (s.modSec f).twb = s.twb := rfl
@[simp] theorem modSec_host (f : Sec → Sec) : (s.modSec f).host = s.host := rfl
@[simp] theorem modSec_chu (f : Sec → Sec) : (s.modSec f).chu = s.chu := rfl
@[simp] theorem modSec_evt (f : Sec → Sec) : (s.modSec f).evt = s.evt := rfl
@[simp] theorem modSec_sec (f : Sec → Sec) : (s.modSec f).sec = f s.sec := rfl
@[simp] theorem modSec_upd (f : Sec → Sec) : (s.modSec f).upd = s.upd := rfl
@[simp] theorem modSec_pwr (f : Sec → Sec) : (s.modSec f).pwr = s.pwr := rfl
@[simp] theorem modSec_flash (f : Sec → Sec) : (s.modSec f).flash = s.flash := rfl
@[simp] theorem modSec_free (f : Sec → Sec) : (s.modSec f).free = s.free := rfl
@[simp] theorem modSec_rd (f : Sec → Sec) : (s.modSec f).rd = s.rd := rfl
@[simp] theorem modSec_sent (f : Sec → Sec) : (s.modSec f).sent = s.sent := rfl

/-! modTimeRegs. -/

@[simp] theorem modTimeRegs_pending (f : TimeRegs → TimeRegs) : (s.modTimeRegs f).pending = s.pending := rfl
@[simp] theorem modTimeRegs_tb (f : TimeRegs → TimeRegs) : (s.modTimeRegs f).tb = { s.tb with regs := f s.tb.regs } := rfl
@[simp] theorem modTimeRegs_sbu (f : TimeRegs → TimeRegs) : (s.modTimeRegs f).sbu = s.sbu := rfl
@[simp] theorem modTimeRegs_lay (f : TimeRegs → TimeRegs) : (s.modTimeRegs f).lay = s.lay := rfl
@[simp] theorem modTimeRegs_plans (f : TimeRegs → TimeRegs) : (s.modTimeRegs f).plans = s.plans := rfl
@[simp] theorem modTimeRegs_pins (f : TimeRegs → TimeRegs) : (s.modTimeRegs f).pins = s.pins := rfl
@[simp] theorem modTimeRegs_hw (f : TimeRegs → TimeRegs) : (s.modTimeRegs f).hw = s.hw := rfl
@[simp] theorem modTimeRegs_wdn (f : TimeRegs → TimeRegs) : (s.modTimeRegs f).wdn = s.wdn := rfl
@[simp] theorem modTimeRegs_loft (f : TimeRegs → TimeRegs) : (s.modTimeRegs f).loft = s.loft := rfl
@[simp] theorem modTimeRegs_sem (f : TimeRegs → TimeRegs) : (s.modTimeRegs f).sem = s.sem := rfl
@[simp] theorem modTimeRegs_gal (f : TimeRegs → TimeRegs) : (s.modTimeRegs f).gal = s.gal := rfl
@[simp] theorem modTimeRegs_eth (f : TimeRegs → TimeRegs) : (s.modTimeRegs f).eth = s.eth := rfl
@[simp] theorem modTimeRegs_lnd (f : TimeRegs → TimeRegs) : (s.modTimeRegs f).lnd = s.lnd := rfl
@[simp] theorem modTimeRegs_grd (f : TimeRegs → TimeRegs) : (s.modTimeRegs f).grd = s.grd := rfl
@[simp] theorem modTimeRegs_can (f : TimeRegs → TimeRegs) : (s.modTimeRegs f).can = s.can := rfl
@[simp] theorem modTimeRegs_trd (f : TimeRegs → TimeRegs) : (s.modTimeRegs f).trd = s.trd := rfl
@[simp] theorem modTimeRegs_twb (f : TimeRegs → TimeRegs) : (s.modTimeRegs f).twb = s.twb := rfl
@[simp] theorem modTimeRegs_host (f : TimeRegs → TimeRegs) : (s.modTimeRegs f).host = s.host := rfl
@[simp] theorem modTimeRegs_chu (f : TimeRegs → TimeRegs) : (s.modTimeRegs f).chu = s.chu := rfl
@[simp] theorem modTimeRegs_evt (f : TimeRegs → TimeRegs) : (s.modTimeRegs f).evt = s.evt := rfl
@[simp] theorem modTimeRegs_sec (f : TimeRegs → TimeRegs) : (s.modTimeRegs f).sec = s.sec := rfl
@[simp] theorem modTimeRegs_upd (f : TimeRegs → TimeRegs) : (s.modTimeRegs f).upd = s.upd := rfl
@[simp] theorem modTimeRegs_pwr (f : TimeRegs → TimeRegs) : (s.modTimeRegs f).pwr = s.pwr := rfl
@[simp] theorem modTimeRegs_flash (f : TimeRegs → TimeRegs) : (s.modTimeRegs f).flash = s.flash := rfl
@[simp] theorem modTimeRegs_free (f : TimeRegs → TimeRegs) : (s.modTimeRegs f).free = s.free := rfl
@[simp] theorem modTimeRegs_rd (f : TimeRegs → TimeRegs) : (s.modTimeRegs f).rd = s.rd := rfl
@[simp] theorem modTimeRegs_sent (f : TimeRegs → TimeRegs) : (s.modTimeRegs f).sent = s.sent := rfl

/-! modClk. -/

@[simp] theorem modClk_pending (f : Clock → Clock) : (s.modClk f).pending = s.pending := rfl
@[simp] theorem modClk_tb (f : Clock → Clock) : (s.modClk f).tb = { s.tb with clk := f s.tb.clk } := rfl
@[simp] theorem modClk_sbu (f : Clock → Clock) : (s.modClk f).sbu = s.sbu := rfl
@[simp] theorem modClk_lay (f : Clock → Clock) : (s.modClk f).lay = s.lay := rfl
@[simp] theorem modClk_plans (f : Clock → Clock) : (s.modClk f).plans = s.plans := rfl
@[simp] theorem modClk_pins (f : Clock → Clock) : (s.modClk f).pins = s.pins := rfl
@[simp] theorem modClk_hw (f : Clock → Clock) : (s.modClk f).hw = s.hw := rfl
@[simp] theorem modClk_wdn (f : Clock → Clock) : (s.modClk f).wdn = s.wdn := rfl
@[simp] theorem modClk_loft (f : Clock → Clock) : (s.modClk f).loft = s.loft := rfl
@[simp] theorem modClk_sem (f : Clock → Clock) : (s.modClk f).sem = s.sem := rfl
@[simp] theorem modClk_gal (f : Clock → Clock) : (s.modClk f).gal = s.gal := rfl
@[simp] theorem modClk_eth (f : Clock → Clock) : (s.modClk f).eth = s.eth := rfl
@[simp] theorem modClk_lnd (f : Clock → Clock) : (s.modClk f).lnd = s.lnd := rfl
@[simp] theorem modClk_grd (f : Clock → Clock) : (s.modClk f).grd = s.grd := rfl
@[simp] theorem modClk_can (f : Clock → Clock) : (s.modClk f).can = s.can := rfl
@[simp] theorem modClk_trd (f : Clock → Clock) : (s.modClk f).trd = s.trd := rfl
@[simp] theorem modClk_twb (f : Clock → Clock) : (s.modClk f).twb = s.twb := rfl
@[simp] theorem modClk_host (f : Clock → Clock) : (s.modClk f).host = s.host := rfl
@[simp] theorem modClk_chu (f : Clock → Clock) : (s.modClk f).chu = s.chu := rfl
@[simp] theorem modClk_evt (f : Clock → Clock) : (s.modClk f).evt = s.evt := rfl
@[simp] theorem modClk_sec (f : Clock → Clock) : (s.modClk f).sec = s.sec := rfl
@[simp] theorem modClk_upd (f : Clock → Clock) : (s.modClk f).upd = s.upd := rfl
@[simp] theorem modClk_pwr (f : Clock → Clock) : (s.modClk f).pwr = s.pwr := rfl
@[simp] theorem modClk_flash (f : Clock → Clock) : (s.modClk f).flash = s.flash := rfl
@[simp] theorem modClk_free (f : Clock → Clock) : (s.modClk f).free = s.free := rfl
@[simp] theorem modClk_rd (f : Clock → Clock) : (s.modClk f).rd = s.rd := rfl
@[simp] theorem modClk_sent (f : Clock → Clock) : (s.modClk f).sent = s.sent := rfl

/-! modHeld. -/

@[simp] theorem modHeld_pending (f : HeldWords → HeldWords) : (s.modHeld f).pending = s.pending := rfl
@[simp] theorem modHeld_tb (f : HeldWords → HeldWords) : (s.modHeld f).tb = { s.tb with held := f s.tb.held } := rfl
@[simp] theorem modHeld_sbu (f : HeldWords → HeldWords) : (s.modHeld f).sbu = s.sbu := rfl
@[simp] theorem modHeld_lay (f : HeldWords → HeldWords) : (s.modHeld f).lay = s.lay := rfl
@[simp] theorem modHeld_plans (f : HeldWords → HeldWords) : (s.modHeld f).plans = s.plans := rfl
@[simp] theorem modHeld_pins (f : HeldWords → HeldWords) : (s.modHeld f).pins = s.pins := rfl
@[simp] theorem modHeld_hw (f : HeldWords → HeldWords) : (s.modHeld f).hw = s.hw := rfl
@[simp] theorem modHeld_wdn (f : HeldWords → HeldWords) : (s.modHeld f).wdn = s.wdn := rfl
@[simp] theorem modHeld_loft (f : HeldWords → HeldWords) : (s.modHeld f).loft = s.loft := rfl
@[simp] theorem modHeld_sem (f : HeldWords → HeldWords) : (s.modHeld f).sem = s.sem := rfl
@[simp] theorem modHeld_gal (f : HeldWords → HeldWords) : (s.modHeld f).gal = s.gal := rfl
@[simp] theorem modHeld_eth (f : HeldWords → HeldWords) : (s.modHeld f).eth = s.eth := rfl
@[simp] theorem modHeld_lnd (f : HeldWords → HeldWords) : (s.modHeld f).lnd = s.lnd := rfl
@[simp] theorem modHeld_grd (f : HeldWords → HeldWords) : (s.modHeld f).grd = s.grd := rfl
@[simp] theorem modHeld_can (f : HeldWords → HeldWords) : (s.modHeld f).can = s.can := rfl
@[simp] theorem modHeld_trd (f : HeldWords → HeldWords) : (s.modHeld f).trd = s.trd := rfl
@[simp] theorem modHeld_twb (f : HeldWords → HeldWords) : (s.modHeld f).twb = s.twb := rfl
@[simp] theorem modHeld_host (f : HeldWords → HeldWords) : (s.modHeld f).host = s.host := rfl
@[simp] theorem modHeld_chu (f : HeldWords → HeldWords) : (s.modHeld f).chu = s.chu := rfl
@[simp] theorem modHeld_evt (f : HeldWords → HeldWords) : (s.modHeld f).evt = s.evt := rfl
@[simp] theorem modHeld_sec (f : HeldWords → HeldWords) : (s.modHeld f).sec = s.sec := rfl
@[simp] theorem modHeld_upd (f : HeldWords → HeldWords) : (s.modHeld f).upd = s.upd := rfl
@[simp] theorem modHeld_pwr (f : HeldWords → HeldWords) : (s.modHeld f).pwr = s.pwr := rfl
@[simp] theorem modHeld_flash (f : HeldWords → HeldWords) : (s.modHeld f).flash = s.flash := rfl
@[simp] theorem modHeld_free (f : HeldWords → HeldWords) : (s.modHeld f).free = s.free := rfl
@[simp] theorem modHeld_rd (f : HeldWords → HeldWords) : (s.modHeld f).rd = s.rd := rfl
@[simp] theorem modHeld_sent (f : HeldWords → HeldWords) : (s.modHeld f).sent = s.sent := rfl

/-! modSched. -/

@[simp] theorem modSched_pending (n : Fin 16) (f : Sched → Sched) : (s.modSched n f).pending = s.pending := rfl
@[simp] theorem modSched_tb (n : Fin 16) (f : Sched → Sched) : (s.modSched n f).tb = { s.tb with sched := vmod s.tb.sched n f } := rfl
@[simp] theorem modSched_sbu (n : Fin 16) (f : Sched → Sched) : (s.modSched n f).sbu = s.sbu := rfl
@[simp] theorem modSched_lay (n : Fin 16) (f : Sched → Sched) : (s.modSched n f).lay = s.lay := rfl
@[simp] theorem modSched_plans (n : Fin 16) (f : Sched → Sched) : (s.modSched n f).plans = s.plans := rfl
@[simp] theorem modSched_pins (n : Fin 16) (f : Sched → Sched) : (s.modSched n f).pins = s.pins := rfl
@[simp] theorem modSched_hw (n : Fin 16) (f : Sched → Sched) : (s.modSched n f).hw = s.hw := rfl
@[simp] theorem modSched_wdn (n : Fin 16) (f : Sched → Sched) : (s.modSched n f).wdn = s.wdn := rfl
@[simp] theorem modSched_loft (n : Fin 16) (f : Sched → Sched) : (s.modSched n f).loft = s.loft := rfl
@[simp] theorem modSched_sem (n : Fin 16) (f : Sched → Sched) : (s.modSched n f).sem = s.sem := rfl
@[simp] theorem modSched_gal (n : Fin 16) (f : Sched → Sched) : (s.modSched n f).gal = s.gal := rfl
@[simp] theorem modSched_eth (n : Fin 16) (f : Sched → Sched) : (s.modSched n f).eth = s.eth := rfl
@[simp] theorem modSched_lnd (n : Fin 16) (f : Sched → Sched) : (s.modSched n f).lnd = s.lnd := rfl
@[simp] theorem modSched_grd (n : Fin 16) (f : Sched → Sched) : (s.modSched n f).grd = s.grd := rfl
@[simp] theorem modSched_can (n : Fin 16) (f : Sched → Sched) : (s.modSched n f).can = s.can := rfl
@[simp] theorem modSched_trd (n : Fin 16) (f : Sched → Sched) : (s.modSched n f).trd = s.trd := rfl
@[simp] theorem modSched_twb (n : Fin 16) (f : Sched → Sched) : (s.modSched n f).twb = s.twb := rfl
@[simp] theorem modSched_host (n : Fin 16) (f : Sched → Sched) : (s.modSched n f).host = s.host := rfl
@[simp] theorem modSched_chu (n : Fin 16) (f : Sched → Sched) : (s.modSched n f).chu = s.chu := rfl
@[simp] theorem modSched_evt (n : Fin 16) (f : Sched → Sched) : (s.modSched n f).evt = s.evt := rfl
@[simp] theorem modSched_sec (n : Fin 16) (f : Sched → Sched) : (s.modSched n f).sec = s.sec := rfl
@[simp] theorem modSched_upd (n : Fin 16) (f : Sched → Sched) : (s.modSched n f).upd = s.upd := rfl
@[simp] theorem modSched_pwr (n : Fin 16) (f : Sched → Sched) : (s.modSched n f).pwr = s.pwr := rfl
@[simp] theorem modSched_flash (n : Fin 16) (f : Sched → Sched) : (s.modSched n f).flash = s.flash := rfl
@[simp] theorem modSched_free (n : Fin 16) (f : Sched → Sched) : (s.modSched n f).free = s.free := rfl
@[simp] theorem modSched_rd (n : Fin 16) (f : Sched → Sched) : (s.modSched n f).rd = s.rd := rfl
@[simp] theorem modSched_sent (n : Fin 16) (f : Sched → Sched) : (s.modSched n f).sent = s.sent := rfl

/-! modTread. -/

@[simp] theorem modTread_pending (t : Fin 32) (f : Tread → Tread) : (s.modTread t f).pending = s.pending := rfl
@[simp] theorem modTread_tb (t : Fin 32) (f : Tread → Tread) : (s.modTread t f).tb = s.tb := rfl
@[simp] theorem modTread_sbu (t : Fin 32) (f : Tread → Tread) : (s.modTread t f).sbu = s.sbu := rfl
@[simp] theorem modTread_lay (t : Fin 32) (f : Tread → Tread) : (s.modTread t f).lay = s.lay := rfl
@[simp] theorem modTread_plans (t : Fin 32) (f : Tread → Tread) : (s.modTread t f).plans = s.plans := rfl
@[simp] theorem modTread_pins (t : Fin 32) (f : Tread → Tread) : (s.modTread t f).pins = s.pins := rfl
@[simp] theorem modTread_hw (t : Fin 32) (f : Tread → Tread) : (s.modTread t f).hw = s.hw := rfl
@[simp] theorem modTread_wdn (t : Fin 32) (f : Tread → Tread) : (s.modTread t f).wdn = s.wdn := rfl
@[simp] theorem modTread_loft (t : Fin 32) (f : Tread → Tread) : (s.modTread t f).loft = s.loft := rfl
@[simp] theorem modTread_sem (t : Fin 32) (f : Tread → Tread) : (s.modTread t f).sem = s.sem := rfl
@[simp] theorem modTread_gal (t : Fin 32) (f : Tread → Tread) : (s.modTread t f).gal = s.gal := rfl
@[simp] theorem modTread_eth (t : Fin 32) (f : Tread → Tread) : (s.modTread t f).eth = s.eth := rfl
@[simp] theorem modTread_lnd (t : Fin 32) (f : Tread → Tread) : (s.modTread t f).lnd = s.lnd := rfl
@[simp] theorem modTread_grd (t : Fin 32) (f : Tread → Tread) : (s.modTread t f).grd = s.grd := rfl
@[simp] theorem modTread_can (t : Fin 32) (f : Tread → Tread) : (s.modTread t f).can = s.can := rfl
@[simp] theorem modTread_trd (t : Fin 32) (f : Tread → Tread) : (s.modTread t f).trd = { s.trd with tread := vmod s.trd.tread t f } := rfl
@[simp] theorem modTread_twb (t : Fin 32) (f : Tread → Tread) : (s.modTread t f).twb = s.twb := rfl
@[simp] theorem modTread_host (t : Fin 32) (f : Tread → Tread) : (s.modTread t f).host = s.host := rfl
@[simp] theorem modTread_chu (t : Fin 32) (f : Tread → Tread) : (s.modTread t f).chu = s.chu := rfl
@[simp] theorem modTread_evt (t : Fin 32) (f : Tread → Tread) : (s.modTread t f).evt = s.evt := rfl
@[simp] theorem modTread_sec (t : Fin 32) (f : Tread → Tread) : (s.modTread t f).sec = s.sec := rfl
@[simp] theorem modTread_upd (t : Fin 32) (f : Tread → Tread) : (s.modTread t f).upd = s.upd := rfl
@[simp] theorem modTread_pwr (t : Fin 32) (f : Tread → Tread) : (s.modTread t f).pwr = s.pwr := rfl
@[simp] theorem modTread_flash (t : Fin 32) (f : Tread → Tread) : (s.modTread t f).flash = s.flash := rfl
@[simp] theorem modTread_free (t : Fin 32) (f : Tread → Tread) : (s.modTread t f).free = s.free := rfl
@[simp] theorem modTread_rd (t : Fin 32) (f : Tread → Tread) : (s.modTread t f).rd = s.rd := rfl
@[simp] theorem modTread_sent (t : Fin 32) (f : Tread → Tread) : (s.modTread t f).sent = s.sent := rfl

/-! modFlight. -/

@[simp] theorem modFlight_pending (k : Fin 4) (f : Flight → Flight) : (s.modFlight k f).pending = s.pending := rfl
@[simp] theorem modFlight_tb (k : Fin 4) (f : Flight → Flight) : (s.modFlight k f).tb = s.tb := rfl
@[simp] theorem modFlight_sbu (k : Fin 4) (f : Flight → Flight) : (s.modFlight k f).sbu = s.sbu := rfl
@[simp] theorem modFlight_lay (k : Fin 4) (f : Flight → Flight) : (s.modFlight k f).lay = s.lay := rfl
@[simp] theorem modFlight_plans (k : Fin 4) (f : Flight → Flight) : (s.modFlight k f).plans = s.plans := rfl
@[simp] theorem modFlight_pins (k : Fin 4) (f : Flight → Flight) : (s.modFlight k f).pins = s.pins := rfl
@[simp] theorem modFlight_hw (k : Fin 4) (f : Flight → Flight) : (s.modFlight k f).hw = s.hw := rfl
@[simp] theorem modFlight_wdn (k : Fin 4) (f : Flight → Flight) : (s.modFlight k f).wdn = s.wdn := rfl
@[simp] theorem modFlight_loft (k : Fin 4) (f : Flight → Flight) : (s.modFlight k f).loft = s.loft := rfl
@[simp] theorem modFlight_sem (k : Fin 4) (f : Flight → Flight) : (s.modFlight k f).sem = s.sem := rfl
@[simp] theorem modFlight_gal (k : Fin 4) (f : Flight → Flight) : (s.modFlight k f).gal = s.gal := rfl
@[simp] theorem modFlight_eth (k : Fin 4) (f : Flight → Flight) : (s.modFlight k f).eth = s.eth := rfl
@[simp] theorem modFlight_lnd (k : Fin 4) (f : Flight → Flight) : (s.modFlight k f).lnd = s.lnd := rfl
@[simp] theorem modFlight_grd (k : Fin 4) (f : Flight → Flight) : (s.modFlight k f).grd = s.grd := rfl
@[simp] theorem modFlight_can (k : Fin 4) (f : Flight → Flight) : (s.modFlight k f).can = s.can := rfl
@[simp] theorem modFlight_trd (k : Fin 4) (f : Flight → Flight) : (s.modFlight k f).trd = { s.trd with flight := vmod s.trd.flight k f } := rfl
@[simp] theorem modFlight_twb (k : Fin 4) (f : Flight → Flight) : (s.modFlight k f).twb = s.twb := rfl
@[simp] theorem modFlight_host (k : Fin 4) (f : Flight → Flight) : (s.modFlight k f).host = s.host := rfl
@[simp] theorem modFlight_chu (k : Fin 4) (f : Flight → Flight) : (s.modFlight k f).chu = s.chu := rfl
@[simp] theorem modFlight_evt (k : Fin 4) (f : Flight → Flight) : (s.modFlight k f).evt = s.evt := rfl
@[simp] theorem modFlight_sec (k : Fin 4) (f : Flight → Flight) : (s.modFlight k f).sec = s.sec := rfl
@[simp] theorem modFlight_upd (k : Fin 4) (f : Flight → Flight) : (s.modFlight k f).upd = s.upd := rfl
@[simp] theorem modFlight_pwr (k : Fin 4) (f : Flight → Flight) : (s.modFlight k f).pwr = s.pwr := rfl
@[simp] theorem modFlight_flash (k : Fin 4) (f : Flight → Flight) : (s.modFlight k f).flash = s.flash := rfl
@[simp] theorem modFlight_free (k : Fin 4) (f : Flight → Flight) : (s.modFlight k f).free = s.free := rfl
@[simp] theorem modFlight_rd (k : Fin 4) (f : Flight → Flight) : (s.modFlight k f).rd = s.rd := rfl
@[simp] theorem modFlight_sent (k : Fin 4) (f : Flight → Flight) : (s.modFlight k f).sent = s.sent := rfl

/-! modCan. -/

@[simp] theorem modCan_pending (c : Fin 4) (f : Can → Can) : (s.modCan c f).pending = s.pending := rfl
@[simp] theorem modCan_tb (c : Fin 4) (f : Can → Can) : (s.modCan c f).tb = s.tb := rfl
@[simp] theorem modCan_sbu (c : Fin 4) (f : Can → Can) : (s.modCan c f).sbu = s.sbu := rfl
@[simp] theorem modCan_lay (c : Fin 4) (f : Can → Can) : (s.modCan c f).lay = s.lay := rfl
@[simp] theorem modCan_plans (c : Fin 4) (f : Can → Can) : (s.modCan c f).plans = s.plans := rfl
@[simp] theorem modCan_pins (c : Fin 4) (f : Can → Can) : (s.modCan c f).pins = s.pins := rfl
@[simp] theorem modCan_hw (c : Fin 4) (f : Can → Can) : (s.modCan c f).hw = s.hw := rfl
@[simp] theorem modCan_wdn (c : Fin 4) (f : Can → Can) : (s.modCan c f).wdn = s.wdn := rfl
@[simp] theorem modCan_loft (c : Fin 4) (f : Can → Can) : (s.modCan c f).loft = s.loft := rfl
@[simp] theorem modCan_sem (c : Fin 4) (f : Can → Can) : (s.modCan c f).sem = s.sem := rfl
@[simp] theorem modCan_gal (c : Fin 4) (f : Can → Can) : (s.modCan c f).gal = s.gal := rfl
@[simp] theorem modCan_eth (c : Fin 4) (f : Can → Can) : (s.modCan c f).eth = s.eth := rfl
@[simp] theorem modCan_lnd (c : Fin 4) (f : Can → Can) : (s.modCan c f).lnd = s.lnd := rfl
@[simp] theorem modCan_grd (c : Fin 4) (f : Can → Can) : (s.modCan c f).grd = s.grd := rfl
@[simp] theorem modCan_can (c : Fin 4) (f : Can → Can) : (s.modCan c f).can = vmod s.can c f := rfl
@[simp] theorem modCan_trd (c : Fin 4) (f : Can → Can) : (s.modCan c f).trd = s.trd := rfl
@[simp] theorem modCan_twb (c : Fin 4) (f : Can → Can) : (s.modCan c f).twb = s.twb := rfl
@[simp] theorem modCan_host (c : Fin 4) (f : Can → Can) : (s.modCan c f).host = s.host := rfl
@[simp] theorem modCan_chu (c : Fin 4) (f : Can → Can) : (s.modCan c f).chu = s.chu := rfl
@[simp] theorem modCan_evt (c : Fin 4) (f : Can → Can) : (s.modCan c f).evt = s.evt := rfl
@[simp] theorem modCan_sec (c : Fin 4) (f : Can → Can) : (s.modCan c f).sec = s.sec := rfl
@[simp] theorem modCan_upd (c : Fin 4) (f : Can → Can) : (s.modCan c f).upd = s.upd := rfl
@[simp] theorem modCan_pwr (c : Fin 4) (f : Can → Can) : (s.modCan c f).pwr = s.pwr := rfl
@[simp] theorem modCan_flash (c : Fin 4) (f : Can → Can) : (s.modCan c f).flash = s.flash := rfl
@[simp] theorem modCan_free (c : Fin 4) (f : Can → Can) : (s.modCan c f).free = s.free := rfl
@[simp] theorem modCan_rd (c : Fin 4) (f : Can → Can) : (s.modCan c f).rd = s.rd := rfl
@[simp] theorem modCan_sent (c : Fin 4) (f : Can → Can) : (s.modCan c f).sent = s.sent := rfl

/-! modTwb. -/

@[simp] theorem modTwb_pending (b : Fin 3) (f : Twb → Twb) : (s.modTwb b f).pending = s.pending := rfl
@[simp] theorem modTwb_tb (b : Fin 3) (f : Twb → Twb) : (s.modTwb b f).tb = s.tb := rfl
@[simp] theorem modTwb_sbu (b : Fin 3) (f : Twb → Twb) : (s.modTwb b f).sbu = s.sbu := rfl
@[simp] theorem modTwb_lay (b : Fin 3) (f : Twb → Twb) : (s.modTwb b f).lay = s.lay := rfl
@[simp] theorem modTwb_plans (b : Fin 3) (f : Twb → Twb) : (s.modTwb b f).plans = s.plans := rfl
@[simp] theorem modTwb_pins (b : Fin 3) (f : Twb → Twb) : (s.modTwb b f).pins = s.pins := rfl
@[simp] theorem modTwb_hw (b : Fin 3) (f : Twb → Twb) : (s.modTwb b f).hw = s.hw := rfl
@[simp] theorem modTwb_wdn (b : Fin 3) (f : Twb → Twb) : (s.modTwb b f).wdn = s.wdn := rfl
@[simp] theorem modTwb_loft (b : Fin 3) (f : Twb → Twb) : (s.modTwb b f).loft = s.loft := rfl
@[simp] theorem modTwb_sem (b : Fin 3) (f : Twb → Twb) : (s.modTwb b f).sem = s.sem := rfl
@[simp] theorem modTwb_gal (b : Fin 3) (f : Twb → Twb) : (s.modTwb b f).gal = s.gal := rfl
@[simp] theorem modTwb_eth (b : Fin 3) (f : Twb → Twb) : (s.modTwb b f).eth = s.eth := rfl
@[simp] theorem modTwb_lnd (b : Fin 3) (f : Twb → Twb) : (s.modTwb b f).lnd = s.lnd := rfl
@[simp] theorem modTwb_grd (b : Fin 3) (f : Twb → Twb) : (s.modTwb b f).grd = s.grd := rfl
@[simp] theorem modTwb_can (b : Fin 3) (f : Twb → Twb) : (s.modTwb b f).can = s.can := rfl
@[simp] theorem modTwb_trd (b : Fin 3) (f : Twb → Twb) : (s.modTwb b f).trd = s.trd := rfl
@[simp] theorem modTwb_twb (b : Fin 3) (f : Twb → Twb) : (s.modTwb b f).twb = vmod s.twb b f := rfl
@[simp] theorem modTwb_host (b : Fin 3) (f : Twb → Twb) : (s.modTwb b f).host = s.host := rfl
@[simp] theorem modTwb_chu (b : Fin 3) (f : Twb → Twb) : (s.modTwb b f).chu = s.chu := rfl
@[simp] theorem modTwb_evt (b : Fin 3) (f : Twb → Twb) : (s.modTwb b f).evt = s.evt := rfl
@[simp] theorem modTwb_sec (b : Fin 3) (f : Twb → Twb) : (s.modTwb b f).sec = s.sec := rfl
@[simp] theorem modTwb_upd (b : Fin 3) (f : Twb → Twb) : (s.modTwb b f).upd = s.upd := rfl
@[simp] theorem modTwb_pwr (b : Fin 3) (f : Twb → Twb) : (s.modTwb b f).pwr = s.pwr := rfl
@[simp] theorem modTwb_flash (b : Fin 3) (f : Twb → Twb) : (s.modTwb b f).flash = s.flash := rfl
@[simp] theorem modTwb_free (b : Fin 3) (f : Twb → Twb) : (s.modTwb b f).free = s.free := rfl
@[simp] theorem modTwb_rd (b : Fin 3) (f : Twb → Twb) : (s.modTwb b f).rd = s.rd := rfl
@[simp] theorem modTwb_sent (b : Fin 3) (f : Twb → Twb) : (s.modTwb b f).sent = s.sent := rfl

/-! modUpd. -/

@[simp] theorem modUpd_pending (f : Upd → Upd) : (s.modUpd f).pending = s.pending := rfl
@[simp] theorem modUpd_tb (f : Upd → Upd) : (s.modUpd f).tb = s.tb := rfl
@[simp] theorem modUpd_sbu (f : Upd → Upd) : (s.modUpd f).sbu = s.sbu := rfl
@[simp] theorem modUpd_lay (f : Upd → Upd) : (s.modUpd f).lay = s.lay := rfl
@[simp] theorem modUpd_plans (f : Upd → Upd) : (s.modUpd f).plans = s.plans := rfl
@[simp] theorem modUpd_pins (f : Upd → Upd) : (s.modUpd f).pins = s.pins := rfl
@[simp] theorem modUpd_hw (f : Upd → Upd) : (s.modUpd f).hw = s.hw := rfl
@[simp] theorem modUpd_wdn (f : Upd → Upd) : (s.modUpd f).wdn = s.wdn := rfl
@[simp] theorem modUpd_loft (f : Upd → Upd) : (s.modUpd f).loft = s.loft := rfl
@[simp] theorem modUpd_sem (f : Upd → Upd) : (s.modUpd f).sem = s.sem := rfl
@[simp] theorem modUpd_gal (f : Upd → Upd) : (s.modUpd f).gal = s.gal := rfl
@[simp] theorem modUpd_eth (f : Upd → Upd) : (s.modUpd f).eth = s.eth := rfl
@[simp] theorem modUpd_lnd (f : Upd → Upd) : (s.modUpd f).lnd = s.lnd := rfl
@[simp] theorem modUpd_grd (f : Upd → Upd) : (s.modUpd f).grd = s.grd := rfl
@[simp] theorem modUpd_can (f : Upd → Upd) : (s.modUpd f).can = s.can := rfl
@[simp] theorem modUpd_trd (f : Upd → Upd) : (s.modUpd f).trd = s.trd := rfl
@[simp] theorem modUpd_twb (f : Upd → Upd) : (s.modUpd f).twb = s.twb := rfl
@[simp] theorem modUpd_host (f : Upd → Upd) : (s.modUpd f).host = s.host := rfl
@[simp] theorem modUpd_chu (f : Upd → Upd) : (s.modUpd f).chu = s.chu := rfl
@[simp] theorem modUpd_evt (f : Upd → Upd) : (s.modUpd f).evt = s.evt := rfl
@[simp] theorem modUpd_sec (f : Upd → Upd) : (s.modUpd f).sec = s.sec := rfl
@[simp] theorem modUpd_upd (f : Upd → Upd) : (s.modUpd f).upd = f s.upd := rfl
@[simp] theorem modUpd_pwr (f : Upd → Upd) : (s.modUpd f).pwr = s.pwr := rfl
@[simp] theorem modUpd_flash (f : Upd → Upd) : (s.modUpd f).flash = s.flash := rfl
@[simp] theorem modUpd_free (f : Upd → Upd) : (s.modUpd f).free = s.free := rfl
@[simp] theorem modUpd_rd (f : Upd → Upd) : (s.modUpd f).rd = s.rd := rfl
@[simp] theorem modUpd_sent (f : Upd → Upd) : (s.modUpd f).sent = s.sent := rfl

/-! modFlash. -/

@[simp] theorem modFlash_pending (f : Flash → Flash) : (s.modFlash f).pending = s.pending := rfl
@[simp] theorem modFlash_tb (f : Flash → Flash) : (s.modFlash f).tb = s.tb := rfl
@[simp] theorem modFlash_sbu (f : Flash → Flash) : (s.modFlash f).sbu = s.sbu := rfl
@[simp] theorem modFlash_lay (f : Flash → Flash) : (s.modFlash f).lay = s.lay := rfl
@[simp] theorem modFlash_plans (f : Flash → Flash) : (s.modFlash f).plans = s.plans := rfl
@[simp] theorem modFlash_pins (f : Flash → Flash) : (s.modFlash f).pins = s.pins := rfl
@[simp] theorem modFlash_hw (f : Flash → Flash) : (s.modFlash f).hw = s.hw := rfl
@[simp] theorem modFlash_wdn (f : Flash → Flash) : (s.modFlash f).wdn = s.wdn := rfl
@[simp] theorem modFlash_loft (f : Flash → Flash) : (s.modFlash f).loft = s.loft := rfl
@[simp] theorem modFlash_sem (f : Flash → Flash) : (s.modFlash f).sem = s.sem := rfl
@[simp] theorem modFlash_gal (f : Flash → Flash) : (s.modFlash f).gal = s.gal := rfl
@[simp] theorem modFlash_eth (f : Flash → Flash) : (s.modFlash f).eth = s.eth := rfl
@[simp] theorem modFlash_lnd (f : Flash → Flash) : (s.modFlash f).lnd = s.lnd := rfl
@[simp] theorem modFlash_grd (f : Flash → Flash) : (s.modFlash f).grd = s.grd := rfl
@[simp] theorem modFlash_can (f : Flash → Flash) : (s.modFlash f).can = s.can := rfl
@[simp] theorem modFlash_trd (f : Flash → Flash) : (s.modFlash f).trd = s.trd := rfl
@[simp] theorem modFlash_twb (f : Flash → Flash) : (s.modFlash f).twb = s.twb := rfl
@[simp] theorem modFlash_host (f : Flash → Flash) : (s.modFlash f).host = s.host := rfl
@[simp] theorem modFlash_chu (f : Flash → Flash) : (s.modFlash f).chu = s.chu := rfl
@[simp] theorem modFlash_evt (f : Flash → Flash) : (s.modFlash f).evt = s.evt := rfl
@[simp] theorem modFlash_sec (f : Flash → Flash) : (s.modFlash f).sec = s.sec := rfl
@[simp] theorem modFlash_upd (f : Flash → Flash) : (s.modFlash f).upd = s.upd := rfl
@[simp] theorem modFlash_pwr (f : Flash → Flash) : (s.modFlash f).pwr = s.pwr := rfl
@[simp] theorem modFlash_flash (f : Flash → Flash) : (s.modFlash f).flash = f s.flash := rfl
@[simp] theorem modFlash_free (f : Flash → Flash) : (s.modFlash f).free = s.free := rfl
@[simp] theorem modFlash_rd (f : Flash → Flash) : (s.modFlash f).rd = s.rd := rfl
@[simp] theorem modFlash_sent (f : Flash → Flash) : (s.modFlash f).sent = s.sent := rfl

/-! modEng: a Hewer's or the Warden's. -/

@[simp] theorem modEng_pending (e : EngineId) (f : Eng → Eng) : (s.modEng e f).pending = s.pending := by cases e <;> rfl
@[simp] theorem modEng_tb (e : EngineId) (f : Eng → Eng) : (s.modEng e f).tb = s.tb := by cases e <;> rfl
@[simp] theorem modEng_sbu (e : EngineId) (f : Eng → Eng) : (s.modEng e f).sbu = s.sbu := by cases e <;> rfl
@[simp] theorem modEng_lay (e : EngineId) (f : Eng → Eng) : (s.modEng e f).lay = s.lay := by cases e <;> rfl
@[simp] theorem modEng_plans (e : EngineId) (f : Eng → Eng) : (s.modEng e f).plans = s.plans := by cases e <;> rfl
@[simp] theorem modEng_pins (e : EngineId) (f : Eng → Eng) : (s.modEng e f).pins = s.pins := by cases e <;> rfl
@[simp] theorem modEng_loft (e : EngineId) (f : Eng → Eng) : (s.modEng e f).loft = s.loft := by cases e <;> rfl
@[simp] theorem modEng_sem (e : EngineId) (f : Eng → Eng) : (s.modEng e f).sem = s.sem := by cases e <;> rfl
@[simp] theorem modEng_gal (e : EngineId) (f : Eng → Eng) : (s.modEng e f).gal = s.gal := by cases e <;> rfl
@[simp] theorem modEng_eth (e : EngineId) (f : Eng → Eng) : (s.modEng e f).eth = s.eth := by cases e <;> rfl
@[simp] theorem modEng_lnd (e : EngineId) (f : Eng → Eng) : (s.modEng e f).lnd = s.lnd := by cases e <;> rfl
@[simp] theorem modEng_grd (e : EngineId) (f : Eng → Eng) : (s.modEng e f).grd = s.grd := by cases e <;> rfl
@[simp] theorem modEng_can (e : EngineId) (f : Eng → Eng) : (s.modEng e f).can = s.can := by cases e <;> rfl
@[simp] theorem modEng_trd (e : EngineId) (f : Eng → Eng) : (s.modEng e f).trd = s.trd := by cases e <;> rfl
@[simp] theorem modEng_twb (e : EngineId) (f : Eng → Eng) : (s.modEng e f).twb = s.twb := by cases e <;> rfl
@[simp] theorem modEng_host (e : EngineId) (f : Eng → Eng) : (s.modEng e f).host = s.host := by cases e <;> rfl
@[simp] theorem modEng_chu (e : EngineId) (f : Eng → Eng) : (s.modEng e f).chu = s.chu := by cases e <;> rfl
@[simp] theorem modEng_evt (e : EngineId) (f : Eng → Eng) : (s.modEng e f).evt = s.evt := by cases e <;> rfl
@[simp] theorem modEng_sec (e : EngineId) (f : Eng → Eng) : (s.modEng e f).sec = s.sec := by cases e <;> rfl
@[simp] theorem modEng_upd (e : EngineId) (f : Eng → Eng) : (s.modEng e f).upd = s.upd := by cases e <;> rfl
@[simp] theorem modEng_pwr (e : EngineId) (f : Eng → Eng) : (s.modEng e f).pwr = s.pwr := by cases e <;> rfl
@[simp] theorem modEng_flash (e : EngineId) (f : Eng → Eng) : (s.modEng e f).flash = s.flash := by cases e <;> rfl
@[simp] theorem modEng_free (e : EngineId) (f : Eng → Eng) : (s.modEng e f).free = s.free := by cases e <;> rfl
@[simp] theorem modEng_rd (e : EngineId) (f : Eng → Eng) : (s.modEng e f).rd = s.rd := by cases e <;> rfl
@[simp] theorem modEng_sent (e : EngineId) (f : Eng → Eng) : (s.modEng e f).sent = s.sent := by cases e <;> rfl

/-! modCore: a Hewer's or the Warden's. -/

@[simp] theorem modCore_pending (e : EngineId) (f : Core → Core) : (s.modCore e f).pending = s.pending := by cases e <;> rfl
@[simp] theorem modCore_tb (e : EngineId) (f : Core → Core) : (s.modCore e f).tb = s.tb := by cases e <;> rfl
@[simp] theorem modCore_sbu (e : EngineId) (f : Core → Core) : (s.modCore e f).sbu = s.sbu := by cases e <;> rfl
@[simp] theorem modCore_lay (e : EngineId) (f : Core → Core) : (s.modCore e f).lay = s.lay := by cases e <;> rfl
@[simp] theorem modCore_plans (e : EngineId) (f : Core → Core) : (s.modCore e f).plans = s.plans := by cases e <;> rfl
@[simp] theorem modCore_pins (e : EngineId) (f : Core → Core) : (s.modCore e f).pins = s.pins := by cases e <;> rfl
@[simp] theorem modCore_loft (e : EngineId) (f : Core → Core) : (s.modCore e f).loft = s.loft := by cases e <;> rfl
@[simp] theorem modCore_sem (e : EngineId) (f : Core → Core) : (s.modCore e f).sem = s.sem := by cases e <;> rfl
@[simp] theorem modCore_gal (e : EngineId) (f : Core → Core) : (s.modCore e f).gal = s.gal := by cases e <;> rfl
@[simp] theorem modCore_eth (e : EngineId) (f : Core → Core) : (s.modCore e f).eth = s.eth := by cases e <;> rfl
@[simp] theorem modCore_lnd (e : EngineId) (f : Core → Core) : (s.modCore e f).lnd = s.lnd := by cases e <;> rfl
@[simp] theorem modCore_grd (e : EngineId) (f : Core → Core) : (s.modCore e f).grd = s.grd := by cases e <;> rfl
@[simp] theorem modCore_can (e : EngineId) (f : Core → Core) : (s.modCore e f).can = s.can := by cases e <;> rfl
@[simp] theorem modCore_trd (e : EngineId) (f : Core → Core) : (s.modCore e f).trd = s.trd := by cases e <;> rfl
@[simp] theorem modCore_twb (e : EngineId) (f : Core → Core) : (s.modCore e f).twb = s.twb := by cases e <;> rfl
@[simp] theorem modCore_host (e : EngineId) (f : Core → Core) : (s.modCore e f).host = s.host := by cases e <;> rfl
@[simp] theorem modCore_chu (e : EngineId) (f : Core → Core) : (s.modCore e f).chu = s.chu := by cases e <;> rfl
@[simp] theorem modCore_evt (e : EngineId) (f : Core → Core) : (s.modCore e f).evt = s.evt := by cases e <;> rfl
@[simp] theorem modCore_sec (e : EngineId) (f : Core → Core) : (s.modCore e f).sec = s.sec := by cases e <;> rfl
@[simp] theorem modCore_upd (e : EngineId) (f : Core → Core) : (s.modCore e f).upd = s.upd := by cases e <;> rfl
@[simp] theorem modCore_pwr (e : EngineId) (f : Core → Core) : (s.modCore e f).pwr = s.pwr := by cases e <;> rfl
@[simp] theorem modCore_flash (e : EngineId) (f : Core → Core) : (s.modCore e f).flash = s.flash := by cases e <;> rfl
@[simp] theorem modCore_free (e : EngineId) (f : Core → Core) : (s.modCore e f).free = s.free := by cases e <;> rfl
@[simp] theorem modCore_rd (e : EngineId) (f : Core → Core) : (s.modCore e f).rd = s.rd := by cases e <;> rfl
@[simp] theorem modCore_sent (e : EngineId) (f : Core → Core) : (s.modCore e f).sent = s.sent := by cases e <;> rfl

/-! modVec: a Hewer's or the Warden's. -/

@[simp] theorem modVec_pending (e : EngineId) (f : Vectors → Vectors) : (s.modVec e f).pending = s.pending := by cases e <;> rfl
@[simp] theorem modVec_tb (e : EngineId) (f : Vectors → Vectors) : (s.modVec e f).tb = s.tb := by cases e <;> rfl
@[simp] theorem modVec_sbu (e : EngineId) (f : Vectors → Vectors) : (s.modVec e f).sbu = s.sbu := by cases e <;> rfl
@[simp] theorem modVec_lay (e : EngineId) (f : Vectors → Vectors) : (s.modVec e f).lay = s.lay := by cases e <;> rfl
@[simp] theorem modVec_plans (e : EngineId) (f : Vectors → Vectors) : (s.modVec e f).plans = s.plans := by cases e <;> rfl
@[simp] theorem modVec_pins (e : EngineId) (f : Vectors → Vectors) : (s.modVec e f).pins = s.pins := by cases e <;> rfl
@[simp] theorem modVec_loft (e : EngineId) (f : Vectors → Vectors) : (s.modVec e f).loft = s.loft := by cases e <;> rfl
@[simp] theorem modVec_sem (e : EngineId) (f : Vectors → Vectors) : (s.modVec e f).sem = s.sem := by cases e <;> rfl
@[simp] theorem modVec_gal (e : EngineId) (f : Vectors → Vectors) : (s.modVec e f).gal = s.gal := by cases e <;> rfl
@[simp] theorem modVec_eth (e : EngineId) (f : Vectors → Vectors) : (s.modVec e f).eth = s.eth := by cases e <;> rfl
@[simp] theorem modVec_lnd (e : EngineId) (f : Vectors → Vectors) : (s.modVec e f).lnd = s.lnd := by cases e <;> rfl
@[simp] theorem modVec_grd (e : EngineId) (f : Vectors → Vectors) : (s.modVec e f).grd = s.grd := by cases e <;> rfl
@[simp] theorem modVec_can (e : EngineId) (f : Vectors → Vectors) : (s.modVec e f).can = s.can := by cases e <;> rfl
@[simp] theorem modVec_trd (e : EngineId) (f : Vectors → Vectors) : (s.modVec e f).trd = s.trd := by cases e <;> rfl
@[simp] theorem modVec_twb (e : EngineId) (f : Vectors → Vectors) : (s.modVec e f).twb = s.twb := by cases e <;> rfl
@[simp] theorem modVec_host (e : EngineId) (f : Vectors → Vectors) : (s.modVec e f).host = s.host := by cases e <;> rfl
@[simp] theorem modVec_chu (e : EngineId) (f : Vectors → Vectors) : (s.modVec e f).chu = s.chu := by cases e <;> rfl
@[simp] theorem modVec_evt (e : EngineId) (f : Vectors → Vectors) : (s.modVec e f).evt = s.evt := by cases e <;> rfl
@[simp] theorem modVec_sec (e : EngineId) (f : Vectors → Vectors) : (s.modVec e f).sec = s.sec := by cases e <;> rfl
@[simp] theorem modVec_upd (e : EngineId) (f : Vectors → Vectors) : (s.modVec e f).upd = s.upd := by cases e <;> rfl
@[simp] theorem modVec_pwr (e : EngineId) (f : Vectors → Vectors) : (s.modVec e f).pwr = s.pwr := by cases e <;> rfl
@[simp] theorem modVec_flash (e : EngineId) (f : Vectors → Vectors) : (s.modVec e f).flash = s.flash := by cases e <;> rfl
@[simp] theorem modVec_free (e : EngineId) (f : Vectors → Vectors) : (s.modVec e f).free = s.free := by cases e <;> rfl
@[simp] theorem modVec_rd (e : EngineId) (f : Vectors → Vectors) : (s.modVec e f).rd = s.rd := by cases e <;> rfl
@[simp] theorem modVec_sent (e : EngineId) (f : Vectors → Vectors) : (s.modVec e f).sent = s.sent := by cases e <;> rfl

/-! modTap: a Hewer's or the Warden's. -/

@[simp] theorem modTap_pending (e : EngineId) (f : TxTap → TxTap) : (s.modTap e f).pending = s.pending := by cases e <;> rfl
@[simp] theorem modTap_tb (e : EngineId) (f : TxTap → TxTap) : (s.modTap e f).tb = s.tb := by cases e <;> rfl
@[simp] theorem modTap_sbu (e : EngineId) (f : TxTap → TxTap) : (s.modTap e f).sbu = s.sbu := by cases e <;> rfl
@[simp] theorem modTap_lay (e : EngineId) (f : TxTap → TxTap) : (s.modTap e f).lay = s.lay := by cases e <;> rfl
@[simp] theorem modTap_plans (e : EngineId) (f : TxTap → TxTap) : (s.modTap e f).plans = s.plans := by cases e <;> rfl
@[simp] theorem modTap_pins (e : EngineId) (f : TxTap → TxTap) : (s.modTap e f).pins = s.pins := by cases e <;> rfl
@[simp] theorem modTap_loft (e : EngineId) (f : TxTap → TxTap) : (s.modTap e f).loft = s.loft := by cases e <;> rfl
@[simp] theorem modTap_sem (e : EngineId) (f : TxTap → TxTap) : (s.modTap e f).sem = s.sem := by cases e <;> rfl
@[simp] theorem modTap_gal (e : EngineId) (f : TxTap → TxTap) : (s.modTap e f).gal = s.gal := by cases e <;> rfl
@[simp] theorem modTap_eth (e : EngineId) (f : TxTap → TxTap) : (s.modTap e f).eth = s.eth := by cases e <;> rfl
@[simp] theorem modTap_lnd (e : EngineId) (f : TxTap → TxTap) : (s.modTap e f).lnd = s.lnd := by cases e <;> rfl
@[simp] theorem modTap_grd (e : EngineId) (f : TxTap → TxTap) : (s.modTap e f).grd = s.grd := by cases e <;> rfl
@[simp] theorem modTap_can (e : EngineId) (f : TxTap → TxTap) : (s.modTap e f).can = s.can := by cases e <;> rfl
@[simp] theorem modTap_trd (e : EngineId) (f : TxTap → TxTap) : (s.modTap e f).trd = s.trd := by cases e <;> rfl
@[simp] theorem modTap_twb (e : EngineId) (f : TxTap → TxTap) : (s.modTap e f).twb = s.twb := by cases e <;> rfl
@[simp] theorem modTap_host (e : EngineId) (f : TxTap → TxTap) : (s.modTap e f).host = s.host := by cases e <;> rfl
@[simp] theorem modTap_chu (e : EngineId) (f : TxTap → TxTap) : (s.modTap e f).chu = s.chu := by cases e <;> rfl
@[simp] theorem modTap_evt (e : EngineId) (f : TxTap → TxTap) : (s.modTap e f).evt = s.evt := by cases e <;> rfl
@[simp] theorem modTap_sec (e : EngineId) (f : TxTap → TxTap) : (s.modTap e f).sec = s.sec := by cases e <;> rfl
@[simp] theorem modTap_upd (e : EngineId) (f : TxTap → TxTap) : (s.modTap e f).upd = s.upd := by cases e <;> rfl
@[simp] theorem modTap_pwr (e : EngineId) (f : TxTap → TxTap) : (s.modTap e f).pwr = s.pwr := by cases e <;> rfl
@[simp] theorem modTap_flash (e : EngineId) (f : TxTap → TxTap) : (s.modTap e f).flash = s.flash := by cases e <;> rfl
@[simp] theorem modTap_free (e : EngineId) (f : TxTap → TxTap) : (s.modTap e f).free = s.free := by cases e <;> rfl
@[simp] theorem modTap_rd (e : EngineId) (f : TxTap → TxTap) : (s.modTap e f).rd = s.rd := by cases e <;> rfl
@[simp] theorem modTap_sent (e : EngineId) (f : TxTap → TxTap) : (s.modTap e f).sent = s.sent := by cases e <;> rfl

@[simp] theorem modEng_eng (e : EngineId) (f : Eng → Eng) : (s.modEng e f).eng e = f (s.eng e) := by
  cases e <;> simp [State.modEng, State.eng]

theorem modEng_eng_ne {e x : EngineId} (h : x ≠ e) (f : Eng → Eng) : (s.modEng e f).eng x = s.eng x := by
  cases e <;> cases x <;> simp_all [State.modEng, State.eng]
  rw [if_neg fun hn => h (Fin.ext hn.symm)]

@[simp] theorem modCore_eng (e : EngineId) (f : Core → Core) : (s.modCore e f).eng e = { s.eng e with core := f (s.eng e).core } :=
  modEng_eng s e _

@[simp] theorem modVec_eng (e : EngineId) (f : Vectors → Vectors) : (s.modVec e f).eng e = { s.eng e with vec := f (s.eng e).vec } :=
  modEng_eng s e _

end Sys2Proof.Machine
end

