-- ==== Sys2Proof/Laws/Quiet.lean ====
section
/-! SUPPORT. What raising an event, counting and charging can change: the event router, the budgets, pending vectors, MSI-X messages
waiting and what the Warden has queued, and nothing else. -/

namespace Sys2Proof.Machine

/-- Two states that differ in the event router, the budgets, pending vectors, pending MSI-X messages and what the Warden has queued alone. -/
structure Quiet (s t : State) : Prop where
  pending : t.pending = s.pending
  tb    : t.tb = s.tb
  lay   : t.lay = s.lay
  plans : t.plans = s.plans
  pins  : t.pins = s.pins
  loft  : t.loft = s.loft
  sem   : t.sem = s.sem
  gal   : t.gal = s.gal
  eth   : t.eth = s.eth
  lnd   : t.lnd = s.lnd
  grd   : t.grd = s.grd
  can   : t.can = s.can
  trd   : t.trd = s.trd
  twb   : t.twb = s.twb
  chu   : t.chu = s.chu
  sec   : t.sec = s.sec
  upd   : t.upd = s.upd
  pwr   : t.pwr = s.pwr
  flash : t.flash = s.flash
  free  : t.free = s.free
  rd    : t.rd = s.rd
  sent  : t.sent = s.sent
  routes : t.evt.route = s.evt.route
  /-- Every Hewer but for its pending vectors. -/
  hw    : ∀ (n : Nat) (h : n < 16), ∃ v, t.hw[n] = { s.hw[n] with eng := { s.hw[n].eng with vec := { s.hw[n].eng.vec with ipend := v } } }
  wdn   : ∃ v q k l, t.wdn = { s.wdn with
    eng := { s.wdn.eng with vec := { s.wdn.eng.vec with ipend := v } }, relq := q, relPeak := k, late := l }
  host  : ∃ v, t.host = { s.host with pba := v }

theorem Quiet.refl (s : State) : Quiet s s := by
  constructor <;> first | rfl | exact fun _ _ => ⟨_, rfl⟩ | exact ⟨_, _, _, _, rfl⟩ | exact ⟨_, rfl⟩

theorem Quiet.trans {s t u : State} (a : Quiet s t) (b : Quiet t u) : Quiet s u where
  pending := b.pending.trans a.pending
  tb := b.tb.trans a.tb
  lay := b.lay.trans a.lay
  plans := b.plans.trans a.plans
  pins := b.pins.trans a.pins
  loft := b.loft.trans a.loft
  sem := b.sem.trans a.sem
  gal := b.gal.trans a.gal
  eth := b.eth.trans a.eth
  lnd := b.lnd.trans a.lnd
  grd := b.grd.trans a.grd
  can := b.can.trans a.can
  trd := b.trd.trans a.trd
  twb := b.twb.trans a.twb
  chu := b.chu.trans a.chu
  sec := b.sec.trans a.sec
  upd := b.upd.trans a.upd
  pwr := b.pwr.trans a.pwr
  flash := b.flash.trans a.flash
  free := b.free.trans a.free
  rd := b.rd.trans a.rd
  sent := b.sent.trans a.sent
  routes := b.routes.trans a.routes
  hw n h := by
    obtain ⟨v, hv⟩ := a.hw n h
    obtain ⟨w, hw⟩ := b.hw n h
    exact ⟨w, by rw [hw, hv]⟩
  wdn := by
    obtain ⟨v, q, k, l, hv⟩ := a.wdn
    obtain ⟨v', q', k', l', hv'⟩ := b.wdn
    exact ⟨v', q', k', l', by rw [hv', hv]⟩
  host := by
    obtain ⟨v, hv⟩ := a.host
    obtain ⟨w, hw⟩ := b.host
    exact ⟨w, by rw [hw, hv]⟩

/-- An engine but for its pending vectors. -/
theorem Quiet.eng {s t : State} (q : Quiet s t) (e : EngineId) :
    ∃ v, t.eng e = { s.eng e with vec := { (s.eng e).vec with ipend := v } } := by
  cases e with
  | hewer n => obtain ⟨v, h⟩ := q.hw n.val n.isLt; exact ⟨v, by simp [State.eng, h]⟩
  | warden => obtain ⟨v, _, _, _, h⟩ := q.wdn; exact ⟨v, by simp [State.eng, h]⟩

theorem Quiet.core {s t : State} (q : Quiet s t) (e : EngineId) : (t.eng e).core = (s.eng e).core := by
  obtain ⟨v, h⟩ := q.eng e; rw [h]

theorem Quiet.lo {s t : State} (q : Quiet s t) : t.lo = s.lo := by simp [State.lo, q.lay]

/-! The operations. -/

theorem quiet_modSbu (s : State) (f : Sbu → Sbu) : Quiet s (s.modSbu f) := by
  constructor <;> first | rfl | exact fun _ _ => ⟨_, rfl⟩ | exact ⟨_, _, _, _, rfl⟩ | exact ⟨_, rfl⟩

theorem quiet_modAct (s : State) (a : ActId) (f : Activity → Activity) : Quiet s (s.modAct a f) := quiet_modSbu s _

theorem quiet_mark (s : State) (e : EventId) : Quiet s (s.mark e) := by
  constructor <;> first | rfl | exact fun _ _ => ⟨_, rfl⟩ | exact ⟨_, _, _, _, rfl⟩ | exact ⟨_, rfl⟩

theorem quiet_deliver (s : State) (e : EventId) : Quiet s (s.deliver e) := by
  constructor
  case hw =>
    intro n h
    simp only [State.deliver, State.msix, modHost_hw, modWdn_hw, Vector.getElem_ofFn]
    split
    · exact ⟨setBit s.hw[n].eng.vec.ipend _ true, rfl⟩
    · exact ⟨s.hw[n].eng.vec.ipend, rfl⟩
  case wdn => exact ⟨s.wdn.eng.vec.ipend ||| s.evt.route[e].wdn, s.wdn.relq, s.wdn.relPeak, s.wdn.late, by simp [State.deliver, State.msix]⟩
  case host => exact ⟨s.host.pba ||| s.evt.route[e].msix, by simp [State.deliver, State.msix]⟩
  all_goals simp [State.deliver, State.msix]

theorem quiet_raiseSat (s : State) : Quiet s s.raiseSat := (quiet_mark s _).trans (quiet_deliver _ _)

theorem quiet_satEvent {w : Nat} (c : BitVec w) (k : Nat) (s : State) : Quiet s (s.satEvent c k) := by
  unfold State.satEvent
  split
  · exact quiet_raiseSat s
  · exact Quiet.refl s

theorem quiet_occur (s : State) (e : EventId) : Quiet s (s.occur e) := by
  unfold State.occur
  dsimp only
  split
  · exact quiet_mark s e
  · exact (quiet_mark s e).trans (quiet_satEvent _ _ _)

theorem quiet_raise (s : State) (e : EventId) : Quiet s (s.raise e) := (quiet_occur s e).trans (quiet_deliver _ e)

theorem quiet_raiseIf (s : State) (b : Bool) (e : EventId) : Quiet s (s.raiseIf b e) := by
  unfold State.raiseIf
  split
  · exact quiet_raise s e
  · exact Quiet.refl s

theorem quiet_heldInc (s : State) (a : ActId) : Quiet s (s.heldInc a) := (quiet_modSbu s _).trans (quiet_satEvent _ _ _)

theorem quiet_hold (s : State) (h : HeldDelivery) : Quiet s (s.hold h) := by
  unfold State.hold
  split
  · exact Quiet.refl s
  · exact (quiet_modSbu s _).trans (quiet_heldInc _ _)

theorem quiet_raiseBy (s : State) (a : ActId) (e : EventId) : Quiet s (s.raiseBy a e) := by
  unfold State.raiseBy
  dsimp only
  split
  · next t h =>
    have q : Quiet (s.occur e) t := by
      unfold State.payEvents at h
      split at h
      · injection h with h
        rw [← h]
        exact quiet_modAct _ _ _
      · cases h
    exact ((quiet_occur s e).trans q).trans (quiet_deliver _ _)
  · exact (quiet_occur s e).trans (quiet_hold _ _)

theorem quiet_relPush (s : State) (e : REntry) : Quiet s (s.relPush e) := by
  constructor <;> first | rfl | exact fun _ _ => ⟨_, rfl⟩ | exact ⟨_, _, _, _, rfl⟩ | exact ⟨_, rfl⟩

theorem quiet_logRec (s : State) (type : BitVec 8) (arg : Nat) (payload : List Word) : Quiet s (s.logRec type arg payload) := by
  unfold State.logRec
  split
  · exact quiet_relPush s _
  · exact Quiet.refl s

theorem quiet_compute (s : State) (a : ActId) (k : Nat) : Quiet s (s.compute a k) := by
  unfold State.compute
  dsimp only
  split
  · exact quiet_modAct s a _
  · exact ((quiet_modAct s a _).trans (quiet_modSbu _ _)).trans (quiet_satEvent _ _ _)

theorem quiet_charge_hewer (s : State) (n : Fin 16) (k : Nat) : Quiet s (s.charge (.hewer n) k) := by
  unfold State.charge
  dsimp only
  split
  · exact Quiet.refl s
  · exact quiet_compute s _ k

/-- The Warden's charge also counts its executed cycles. -/
theorem quiet_charge_warden (s : State) (k : Nat) :
    Quiet (s.modWdn fun w => { w with age := w.age + k }) (s.charge .warden k) := by
  have q := quiet_compute s actWarden k
  obtain ⟨v, x, y, z, h⟩ := q.wdn
  exact { pending := q.pending, tb := q.tb, lay := q.lay, plans := q.plans, pins := q.pins, loft := q.loft, sem := q.sem, gal := q.gal,
          eth := q.eth, lnd := q.lnd, grd := q.grd, can := q.can, trd := q.trd, twb := q.twb, chu := q.chu, sec := q.sec, upd := q.upd,
          pwr := q.pwr, flash := q.flash, free := q.free, rd := q.rd, sent := q.sent, routes := q.routes, hw := q.hw, host := q.host,
          wdn := ⟨v, x, y, z, by simp [State.charge, h]⟩ }

theorem quiet_slackEmpty (s : State) (k : BeatKind) : Quiet s (s.slackEmpty k) := by
  unfold State.slackEmpty
  split
  · exact (quiet_modSbu s _).trans (quiet_raise _ _)
  · exact Quiet.refl s

theorem quiet_drawBeat (s : State) (a : ActId) (k : BeatKind) : Quiet s (s.drawBeat a k) := by
  unfold State.drawBeat
  split
  · exact (quiet_modAct s a _).trans (quiet_modSbu _ _)
  · exact (quiet_modAct s a _).trans (quiet_modSbu _ _)

theorem quiet_beat (s : State) (a : ActId) (k : BeatKind) : Quiet s (s.beat a k).st := by
  unfold State.beat
  dsimp only
  split
  · exact quiet_modAct s a _
  · split
    · exact quiet_drawBeat s a k
    · exact ((quiet_modSbu s _).trans (quiet_satEvent _ _ _)).trans (quiet_slackEmpty _ k)

theorem quiet_overdraft (s : State) : Quiet s s.overdraft := by
  unfold State.overdraft
  dsimp only
  split
  · exact quiet_modSbu s _
  · exact ((quiet_modSbu s _).trans (quiet_modSbu _ _)).trans (quiet_raise _ _)

theorem quiet_hostReg (s : State) : Quiet s s.hostReg := by
  unfold State.hostReg
  split
  · exact quiet_modAct s _ _
  · exact quiet_overdraft s

theorem quiet_paid (s : State) (a : Agent) : Quiet s (s.paid a) := by
  unfold State.paid
  split
  · split
    · exact quiet_hostReg s
    · exact Quiet.refl s
  · exact Quiet.refl s

theorem quiet_paidEnd (s : State) (e : ChuteEnd) : Quiet s (s.paidEnd e) := by
  unfold State.paidEnd
  split
  · exact quiet_paid s _
  · exact Quiet.refl s

/-- A counted access violation changes its counter beside. -/
theorem quiet_accCount (s : State) (n : Fin 16) :
    Quiet (s.modRegs n fun r => { r with accCnt := satInc r.accCnt }) (s.accCount n) := quiet_satEvent _ _ _

theorem quiet_respond (s : State) (src : CmdSource) (tag : BitVec 8) (code : BitVec 12) (status : Nat) (results : List Word) :
    Quiet s (s.respond src tag code status results) := quiet_relPush s _

end Sys2Proof.Machine
end

