-- ==== Sys2Proof/Laws/Engine.lean ====
section
/-! SUPPORT. What running an Ahneafin instruction does: register instructions change the engine's core and what charging changes. -/

namespace Sys2Proof.Machine

/-- Charging leaves every engine's core as it is. -/
theorem charge_core (s : State) (e : EngineId) (k : Nat) (x : EngineId) : ((s.charge e k).eng x).core = (s.eng x).core := by
  cases e with
  | hewer n => exact (quiet_charge_hewer s n k).core x
  | warden =>
    rw [(quiet_charge_warden s k).core x]
    cases x <;> simp [State.eng]

/-- Charging leaves every engine's stall as it is. -/
theorem charge_stall (s : State) (e : EngineId) (k : Nat) (x : EngineId) : ((s.charge e k).eng x).stall = (s.eng x).stall := by
  cases e with
  | hewer n =>
    obtain ⟨v, h⟩ := (quiet_charge_hewer s n k).eng x
    rw [h]
  | warden =>
    obtain ⟨v, h⟩ := (quiet_charge_warden s k).eng x
    rw [h]
    cases x <;> simp [State.eng]

/-- An operation that ends well leaves engine `x` with no stall (Bool, to be evaluated). -/
def Ran.endsFree (x : EngineId) (r : Ran Done) : Bool :=
  match r with
  | .ok _ s => (s.eng x).stall.isNone
  | _ => false

/-- What ends an instruction adds no stall to one that ended well. -/
theorem settle_stall {e x : EngineId} {i : Instr} {len : Word} {r : Ran Done} (h : r.endsFree x = true) :
    ((r.settle e i len).eng x).stall = none := by
  cases r <;> simp_all [Ran.endsFree, Ran.settle, charge_stall]
  cases e <;> cases x <;> simp_all [State.eng, State.modEng, State.modHw, State.modWdn, vmod, vset, Vector.getElem_set]
  split <;> simp_all

/-- No stalled cycles are charged to an engine that is not stalled. -/
theorem billStall_eq {s : State} {e : EngineId} (h : (s.eng e).stall = none) : s.billStall e = s := by
  simp [State.billStall, Eng.billed, h]

/-- With no engine stalled, nothing is charged at a stroke's end. -/
theorem billStalls_eq {s : State} (h : s.NoStall) : s.billStalls = s := by
  have k : ∀ l : List (Fin 16), l.foldl (fun s n => s.billStall (.hewer n)) s = s := by
    intro l
    induction l with
    | nil => rfl
    | cons n l ih => rw [List.foldl_cons, billStall_eq (h (.hewer n)), ih]
  rw [State.billStalls, k, billStall_eq (h .warden)]

/-- An instruction that may run, with legal operands, is its operation and what ends it. -/
theorem runAhf_eq {s : State} {e : EngineId} {long : Bool} (h : s.MayRun e long) (i : Instr) {x : Ahf} (hl : x.legal = true)
    (hx : x.enc.long = long) : s.runAhf e i x = (x.body (s.fetched e)).settle e i (if long then 2 else 1) := by
  obtain ⟨hr, hf⟩ := h
  simp [State.runAhf, State.runBody, hr, hf, hl, hx]

/-- A fetch leaves every engine's core and stall as they are. -/
theorem fetched_core (s : State) (e x : EngineId) : ((s.fetched e).eng x).core = (s.eng x).core := by
  cases e with
  | warden => rfl
  | hewer n => cases x with
    | warden => rfl
    | hewer m => simp [State.fetched, State.eng]; split <;> simp_all

/-- A register operation: the core it makes, past the instruction. -/
theorem regBody_core (s : State) (e : EngineId) (i : Instr) (long : Bool) (cyc : Nat) (f : Core → Core) :
    (((regBody e cyc f s).settle e i (if long then 2 else 1)).eng e).core = (f (s.eng e).core).past long := by
  simp only [regBody, finish, Ran.settle, charge_core, modEng_eng, modCore_eng, Option.getD_none, Core.past]

end Sys2Proof.Machine
end

