-- ==== Sys2Proof/Laws/Instants.lean ====
section
/-! SUPPORT. Instants against the end of the running stroke: the conditions of the statements as the Booleans that the model tests, and what
`whenAt` does under them. -/

namespace Sys2Proof.Machine

theorem before_iff (s : State) (k : Nat) : s.Before k ↔ (s.tb.stroke.ends.isNone || s.beforeEnd k) = true := by
  unfold State.Before State.beforeEnd
  cases s.tb.stroke.ends <;> simp

theorem beforeTime_iff (s : State) (q : Nat) :
    s.BeforeTime q ↔ s.tb.stroke.ends.all (fun e => decide (q < e)) = true := by
  unfold State.BeforeTime
  cases s.tb.stroke.ends <;> simp

theorem inStroke_iff (s : State) (k : Nat) : s.InStroke k ↔ s.tb.stroke.running = true ∧ s.beforeEnd k = true := by
  unfold State.InStroke State.beforeEnd
  cases s.tb.stroke.ends <;> simp

/-- A stroke's instant is one before its end. -/
theorem before_of_inStroke {s : State} {k : Nat} (h : s.InStroke k) : s.Before k := by
  rw [inStroke_iff] at h
  rw [before_iff, h.2, Bool.or_true]

/-- What comes before the end of the stroke is done at its instant. -/
theorem whenAt_of_before {s : State} {k : Nat} (f : State → State) (h : s.Before k) : s.whenAt k f = f (s.runToCycle k) := by
  rw [before_iff] at h
  exact if_pos h

end Sys2Proof.Machine
end

