-- ==== Sys2Proof/Laws/Mem.lean ====
section
/-! SUPPORT. Every memory operation keeps the canonical form, and a read after a write answers the written content there and the old content
elsewhere. -/

namespace Sys2Proof.Machine

variable {α : Type} [DecidableEq α] {d : α}

theorem memWfFrom_mono {b c : Nat} (h : b ≤ c) {m : Mem α} (hm : memWfFrom d c m = true) : memWfFrom d b m = true := by
  cases m with
  | nil => rfl
  | cons e m =>
    simp only [memWfFrom, Bool.and_eq_true, decide_eq_true_eq] at hm ⊢
    exact ⟨⟨Nat.le_trans h hm.1.1, hm.1.2⟩, hm.2⟩

/-- Below the first listed address nothing is listed. -/
theorem memRead_below {a : Nat} : ∀ {b : Nat} {m : Mem α}, memWfFrom d b m = true → a < b → memRead d m a = d
  | _, [], _, _ => rfl
  | b, (k, v) :: m, hm, hab => by
    simp only [memWfFrom, Bool.and_eq_true, decide_eq_true_eq] at hm
    have hk : k ≠ a := by omega
    simp only [memRead, hk, if_false]
    exact memRead_below hm.2 (by omega)

theorem memWfFrom_memPut {a : Nat} {v : α} (hv : v ≠ d) :
    ∀ {b : Nat} {m : Mem α}, memWfFrom d b m = true → b ≤ a → memWfFrom d b (memPut a v m) = true
  | b, [], _, hb => by simp [memPut, memWfFrom, hb, hv]
  | b, (k, u) :: m, hm, hb => by
    simp only [memWfFrom, Bool.and_eq_true, decide_eq_true_eq] at hm
    unfold memPut
    split
    · simp only [memWfFrom, Bool.and_eq_true, decide_eq_true_eq]
      exact ⟨⟨hb, hv⟩, ⟨by omega, hm.1.2⟩, hm.2⟩
    · split
      · subst a
        simp only [memWfFrom, Bool.and_eq_true, decide_eq_true_eq]
        exact ⟨⟨hb, hv⟩, hm.2⟩
      · simp only [memWfFrom, Bool.and_eq_true, decide_eq_true_eq]
        exact ⟨hm.1, memWfFrom_memPut hv hm.2 (by omega)⟩

theorem memWfFrom_memDel {a : Nat} : ∀ {b : Nat} {m : Mem α}, memWfFrom d b m = true → memWfFrom d b (memDel a m) = true
  | _, [], _ => rfl
  | b, (k, u) :: m, hm => by
    simp only [memWfFrom, Bool.and_eq_true, decide_eq_true_eq] at hm
    unfold memDel
    split
    · exact memWfFrom_memDel (memWfFrom_mono (by omega) hm.2)
    · simp only [memWfFrom, Bool.and_eq_true, decide_eq_true_eq]
      exact ⟨hm.1, memWfFrom_memDel hm.2⟩

/-- A write keeps the canonical form. -/
theorem memWf_memWrite {m : Mem α} {a : Nat} {v : α} (hm : memWf d m = true) : memWf d (memWrite d m a v) = true := by
  unfold memWrite
  split
  · exact memWfFrom_memDel hm
  · next h => exact memWfFrom_memPut h hm (Nat.zero_le a)

/-- A run of writes keeps the canonical form. -/
theorem memWf_memWriteRun : ∀ {m : Mem α} {a : Nat} {l : List α}, memWf d m = true → memWf d (memWriteRun d m a l) = true
  | _, _, [], hm => hm
  | _, _, _ :: l, hm => memWf_memWriteRun (l := l) (memWf_memWrite hm)

theorem memWfFrom_filter (p : Nat × α → Bool) : ∀ {b : Nat} {m : Mem α}, memWfFrom d b m = true → memWfFrom d b (m.filter p) = true
  | _, [], _ => rfl
  | b, (k, u) :: m, hm => by
    simp only [memWfFrom, Bool.and_eq_true, decide_eq_true_eq] at hm
    rw [List.filter_cons]
    split
    · simp only [memWfFrom, Bool.and_eq_true, decide_eq_true_eq]
      exact ⟨hm.1, memWfFrom_filter p hm.2⟩
    · exact memWfFrom_filter p (memWfFrom_mono (by omega) hm.2)

/-- Clearing a range keeps the canonical form. -/
theorem memWf_memClear {m : Mem α} {a n : Nat} (hm : memWf d m = true) : memWf d (memClear m a n) = true :=
  memWfFrom_filter _ hm

theorem memRead_memPut (a b : Nat) (v : α) : ∀ {m : Mem α} {c : Nat}, memWfFrom d c m = true →
    memRead d (memPut a v m) b = if b = a then v else memRead d m b
  | [], _, _ => by
    by_cases h : b = a
    · simp [memPut, memRead, h]
    · simp [memPut, memRead, h, Ne.symm h]
  | (k, u) :: m, c, hm => by
    simp only [memWfFrom, Bool.and_eq_true, decide_eq_true_eq] at hm
    have ih := memRead_memPut a b v hm.2
    unfold memPut
    split
    · by_cases h : b = a
      · simp [memRead, h]
      · simp [memRead, h, Ne.symm h]
    · split
      · subst a
        by_cases h : b = k
        · simp [memRead, h]
        · simp [memRead, h, Ne.symm h]
      · by_cases h : k = b
        · have : b ≠ a := by omega
          simp [memRead, h, this]
        · simp only [memRead, h, if_false]; exact ih

omit [DecidableEq α] in
theorem memRead_memDel (a b : Nat) : ∀ {m : Mem α}, memRead d (memDel a m) b = if b = a then d else memRead d m b
  | [] => by simp [memDel, memRead]
  | (k, u) :: m => by
    have ih := memRead_memDel a b (m := m)
    unfold memDel
    split
    · next h =>
      subst a
      rw [ih]
      by_cases hb : b = k
      · simp [hb]
      · simp [memRead, hb, Ne.symm hb]
    · next h =>
      by_cases hk : k = b
      · have : b ≠ a := by omega
        simp [memRead, hk, this]
      · simp only [memRead, hk, if_false]; exact ih

/-- A read after a write. -/
theorem memRead_memWrite {m : Mem α} (hm : memWf d m = true) (a b : Nat) (v : α) :
    memRead d (memWrite d m a v) b = if b = a then v else memRead d m b := by
  unfold memWrite
  split
  · next h => subst v; exact memRead_memDel a b
  · exact memRead_memPut a b v hm

omit [DecidableEq α] in
/-- A read outside a cleared range answers as before, one inside what an unlisted address reads as. -/
theorem memRead_memClear (a n b : Nat) : ∀ {m : Mem α},
    memRead d (memClear m a n) b = if a ≤ b ∧ b < a + n then d else memRead d m b
  | [] => by simp [memClear, memRead]
  | (k, u) :: m => by
    have ih := memRead_memClear a n b (m := m)
    unfold memClear at ih ⊢
    rw [List.filter_cons]
    by_cases hp : k < a ∨ a + n ≤ k
    · simp only [hp, decide_true, if_true, memRead]
      by_cases hk : k = b
      · have : ¬ (a ≤ b ∧ b < a + n) := by omega
        simp [hk, this]
      · simp only [hk, if_false]; exact ih
    · simp only [hp, decide_false, memRead]
      by_cases hk : k = b
      · have : a ≤ b ∧ b < a + n := by omega
        simp only [this, and_self, if_true] at ih ⊢
        simpa using ih
      · simpa [hk] using ih

/-- No listed entry holds what an unlisted address reads as. -/
theorem memWfFrom_ne : ∀ {b : Nat} {m : Mem α}, memWfFrom d b m = true → ∀ e ∈ m, e.2 ≠ d
  | _, [], _, _, he => by cases he
  | _, (_, _) :: _, hm, e, he => by
    simp only [memWfFrom, Bool.and_eq_true, decide_eq_true_eq] at hm
    rcases List.mem_cons.mp he with rfl | he
    · exact hm.1.2
    · exact memWfFrom_ne hm.2 e he

theorem memWf_foldl_memPut (f : Nat × α → Nat) : ∀ {l : List (Nat × α)} {m : Mem α}, (∀ e ∈ l, e.2 ≠ d) → memWf d m = true →
    memWf d (l.foldl (fun t e => memPut (f e) e.2 t) m) = true
  | [], _, _, hm => hm
  | e :: l, _, hl, hm =>
    memWf_foldl_memPut f (l := l) (fun x hx => hl x (List.mem_cons_of_mem e hx))
      (memWfFrom_memPut (hl e (List.mem_cons_self ..)) hm (Nat.zero_le _))

/-- A copy keeps the canonical form. -/
theorem memWf_memCopy {m : Mem α} {src dst n : Nat} (hm : memWf d m = true) : memWf d (memCopy m src dst n) = true :=
  memWf_foldl_memPut _ (fun e he => memWfFrom_ne hm e (List.mem_filter.mp he).1) (memWf_memClear hm)

theorem memWfFrom_clearGreen : ∀ {b : Nat} {m : Mem TWord}, memWfFrom TWord.zero b m = true → memWfFrom TWord.zero b (clearGreen m) = true
  | _, [], _ => rfl
  | b, (k, u) :: m, hm => by
    simp only [memWfFrom, Bool.and_eq_true, decide_eq_true_eq] at hm
    unfold clearGreen
    rw [List.filterMap_cons]
    by_cases h : u.val = 0
    · simp only [h, if_true]
      exact memWfFrom_clearGreen (memWfFrom_mono (by omega) hm.2)
    · simp only [h, if_false, memWfFrom, Bool.and_eq_true, decide_eq_true_eq]
      refine ⟨⟨hm.1.1, fun e => h ?_⟩, memWfFrom_clearGreen hm.2⟩
      have := congrArg TWord.val e
      simpa [TWord.zero] using this

/-- Clearing the green tags keeps the canonical form. -/
theorem memWf_clearGreen {m : Mem TWord} (hm : memWf TWord.zero m = true) : memWf TWord.zero (clearGreen m) = true :=
  memWfFrom_clearGreen hm

end Sys2Proof.Machine
end

