-- ==== Sys2Proof/Laws/Queue.lean ====
section
/-! SUPPORT. What joins a queue: the Warden's entries (06 R275, R280), and commands that meet in one core cycle (log 170). -/

namespace Sys2Proof.Machine

/-- What the firmware queues stands behind all that it had queued, full queue or not. -/
@[simp] theorem relPush_queued (s : State) (e : REntry) : (s.relPush e).queued = s.queued ++ [e] := by
  show ({ s.wdn with late := s.wdn.late ++ [e] } : Wdn).pump.relq ++ ({ s.wdn with late := s.wdn.late ++ [e] } : Wdn).pump.late = _
  simp only [Wdn.pump, Wdn.relPut, State.queued, List.append_assoc, List.take_append_drop]

/-- A store of the program stands behind the release queue. -/
@[simp] theorem relStore_relq (s : State) (e : REntry) : (s.relStore e).wdn.relq = s.wdn.relq ++ [e] := rfl

/-- The firmware's entries never make the level exceed 64. -/
theorem relLevel_pump {w : Wdn} (h : relLevel w.relq ≤ 64) : relLevel w.pump.relq ≤ 64 := by
  have a : relLevel (w.relq ++ w.late.take (64 - relLevel w.relq)) ≤ relLevel w.relq + (64 - relLevel w.relq) := by
    rw [relLevel, List.countP_append]
    exact Nat.add_le_add_left (Nat.le_trans List.countP_le_length (by rw [List.length_take]; omega)) _
  exact Nat.le_trans a (by omega)

theorem rankIn_perm (c : Instr) (ds : List Instr) : (rankIn c ds).Perm (c :: ds) := by
  induction ds with
  | nil => exact .refl _
  | cons d ds ih =>
    unfold rankIn
    split
    · exact .refl _
    · exact (ih.cons d).trans (.swap c d ds)

/-- Commands that meet are performed once each, but for the resets that another one takes the place of (22 R813). -/
theorem inOrder_perm (cs : List Instr) : (inOrder cs).Perm (sift cs) := by
  unfold inOrder
  induction sift cs with
  | nil => exact .refl _
  | cons c cs ih => exact (rankIn_perm c _).trans (ih.cons c)

theorem rankIn_sorted (c : Instr) {ds : List Instr} (h : ds.Pairwise fun a b => rank a ≤ rank b) :
    (rankIn c ds).Pairwise fun a b => rank a ≤ rank b := by
  induction ds with
  | nil => exact List.pairwise_singleton _ c
  | cons d ds ih =>
    unfold rankIn
    rw [List.pairwise_cons] at h
    split
    · next le =>
      refine List.pairwise_cons.2 ⟨fun x hx => ?_, List.pairwise_cons.2 h⟩
      rcases List.mem_cons.1 hx with e | hx
      · rw [e]; exact le
      · exact Nat.le_trans le (h.1 x hx)
    · next nle =>
      refine List.pairwise_cons.2 ⟨fun x hx => ?_, ih h.2⟩
      rcases List.mem_cons.1 ((rankIn_perm c ds).mem_iff.1 hx) with e | hx
      · rw [e]; omega
      · exact h.1 x hx

/-- They stand in the order of their ranks. -/
theorem inOrder_sorted (cs : List Instr) : (inOrder cs).Pairwise fun a b => rank a ≤ rank b := by
  unfold inOrder
  induction sift cs with
  | nil => exact .nil
  | cons c cs ih => exact rankIn_sorted c ih

end Sys2Proof.Machine
end

