-- ==== Sys2Proof/Tests/Slice0.lean ====
section
/-! SUPPORT. The author's tests: ill-formed commands that WellFormed refuses, and for every statement with hypotheses a named witness: states and
operands that meet the hypotheses of its clauses together. -/

namespace Sys2Proof.Machine

set_option maxRecDepth 20000

/-! A small device. -/

/-- A BUDGETS record: ID, compute, Loft, Gallery, DMA and events. -/
def tRec (a compute loft gal dma events : Nat) : List Word :=
  [BitVec.ofNat 20 a, 0, 0, BitVec.ofNat 20 compute, 0, BitVec.ofNat 20 loft, 0, BitVec.ofNat 20 gal, 0, BitVec.ofNat 20 dma, 0, BitVec.ofNat 20 events]

/-- The digest of the package of Hewer 0, in the layout and in the package's trailer. -/
def tPackageWords : List Word :=
  [0x89A09, 0xD6427, 0x36704, 0xFD6B3, 0x91958, 0x20FC0, 0x5F0DF, 0x03F59, 0x8BA48, 0x25DD0, 0xEFFFC, 0xF79EF, 0x02BFF]

/-- A layout of 1 ms strokes: Hewers 0 and 1 with taps, flights 0 and 1, a DMA channel, three page groups, one CAN controller and one two-wire bus
of Hewer 0; host owner of the time. -/
def tLayout : Layout :=
  { Layout.blank with
    id := 7
    sections := [
      ⟨1, 0, [125000, 0, 10000, 0, 50000, 0, 100000, 0, 0, 0, 0, 0, 17, 0, 0, 0, 0]⟩,
      ⟨2, 0, (List.range 8).flatMap (fun _ => [0x04000, 0x005EE, 0x00001]) ++ List.replicate 8 0 ++ List.replicate 16 3⟩,
      ⟨3, 0, [0x01000, 0x01008, 0x01010, 0x01018, 0x01020, 0x01028, 0x01030, 0x01038, 0x03010, 0x02000, 0x02008]⟩,
      ⟨5, 0, [3, 0x00E00, 0, 2, 0, 0, 0x22001, 0x01002, 1, 10, 0, 0xA2002, 0x02804, 1, 0, 0]⟩,
      ⟨6, 0, [6, 0] ++ tRec 0 1000 100 100 0 100 ++ tRec 1 1000 100 100 0 100 ++ tRec 16 1000 0 0 0 100 ++ tRec 20 0 0 0 1500 0 ++
        tRec 28 0 0 0 0 1 ++ tRec 29 1000 100 100 0 100⟩,
      ⟨7, 0, [0xFFFFF, 0xFFFFF, 0xFFFF]⟩,
      ⟨8, 0, [1, 0x00010, 0, 0, 0xFF0, 1000, 0xFF0]⟩,
      ⟨9, 0, [2, 0x12345, 0x00042]⟩,
      ⟨10, 0, 0 :: tPackageWords ++ [0, 0x01000, 0x000FF, 0, 0x11]⟩,
      ⟨11, 0, [0x00003, 4] ++ (List.range 8).flatMap (fun i => [BitVec.ofNat 20 (1000 + 2048 * i), 0x10500, 1, 0xFFFF0, 0x01294, 0x44000]) ++ [0x15, 0x3FFF, 7, 8]⟩] }

/-- The device runs: released, its layout active, every island on, a stroke of 1 ms under way. -/
def live : State :=
  { State.reset with
    pwr := { Pwr.reset with held := none, faultN := false, islOn := BitVec.allOnes 56 }
    host := { State.reset.host with resetting := false, linkWait := false }
    lay := { Lay.reset with active := some tLayout }
    wdn := { Wdn.reset with mode := .run, codeWords := 0x100, svpConf := true, session := true }
    hw := Vector.replicate 16 { Hewer.reset with st := .running }
    sbu := { Sbu.reset with act := Vector.replicate 64 { Activity.reset with cpu := 1000, loft := 100, gal := 100, dma := 1500, events := 100 } }
    tb := { Timebase.reset with stroke := { Timebase.reset.stroke with running := true, ends := some 4000000 } } }

/-- The stream of a small layout, with a digest in its trailer: GLOBAL, BUDGETS with the host and the Warden alone, ISLANDS. -/
def tStream (digest : BitVec 256) : List Word :=
  let sects := [0x01000, 17, 125000, 0, 10000, 0, 50000, 0, 100000, 0, 0, 0, 0, 0, 16, 0, 0, 0, 0, 0x06000, 26, 2, 0] ++ tRec 28 16 0 64 0 0 ++
    tRec 29 15625 100 100 0 100 ++ [0x07000, 3, 0x0000F, 0, 0x0C000]
  [0x47A1D, 0x10000, 102, 3, 9, 1, 0, 0] ++ sects ++ [0xFF000, 40, 0] ++ (List.range 13).map (pack256 digest) ++ List.replicate 26 0

/-! Ill-formed commands: each check of WellFormed refuses one. -/

theorem test_ill_offset : illFormed (.registerWrite .host 0x100000 0) = some .offset ∧ illFormed (.latchedRead .warden 2) = some .offset ∧
    illFormed (.resultRead .host 0xFFFFC) = none := by decide
theorem test_ill_windowB : illFormed (.hostGalleryRead 0x1FFFFF 2 []) = some .windowB ∧ illFormed (.hostGalleryWrite 0 []) = some .windowB := by decide
theorem test_ill_windowC : illFormed (.windowCRead 0x800000 1) = some .windowC ∧ illFormed (.windowCRead 0x7FFFFC 4) = none := by decide
theorem test_ill_emptyFrame : illFormed (.rxFrame 0 [] 0) = some .emptyFrame := by decide
theorem test_ill_canData :
    illFormed (.canFrameValid 0 { ident := 0, ide := false, rtr := false, fdf := false, xlf := true, brs := false, esi := false, len := 0, xl := 0,
                                  data := List.replicate 1025 0 } 0) = some .canData := by decide +kernel
theorem test_ill_speed : illFormed (.linkStateChange 0 true true 5 false true false) = some .speed ∧
    illFormed (.linkStateChange 0 true true 0 false true false) = some .speed := by decide
theorem test_ill_canError : illFormed (.canBusError 0 0 0 0 0) = some .canError ∧ illFormed (.canBusError 0 5 3 0 0) = some .canError := by decide
theorem test_ill_tread : illFormed (.put 0 3 0) = some .tread ∧ illFormed (.scatter 0 0 21) = some .tread ∧ illFormed (.br 0 12 0 0) = some .tread ∧
    illFormed (.copy 0 7 0 0 0) = some .tread := by decide
theorem test_ill_dmaLength : illFormed (.dmaTxDescriptor 0 0 0 (List.replicate 65537 0)) = some .dmaLength := by
  show (if decide ((List.replicate 65537 (0 : Octet)).length ≤ 65536) = true then none else some Ill.dmaLength) = some Ill.dmaLength
  rw [List.length_replicate]; decide
theorem test_ill_chuteLength : illFormed (.chuteSend .warden 0 17) = some .chuteLength := by decide
theorem test_ill_island : illFormed (.islandClaim .svp 0 56) = some .island := by decide

/-- No row of the table gives a command bits. -/
theorem test_noWords : decodeTableWord 20 0 = none ∧ decodeTableWord 0 5 = none := by decide

/-- Hewer 0's and the Warden's core registers changed. -/
def onCores (f : Core → Core) (s : State) : State :=
  (s.modHw 0 fun h => { h with eng := { h.eng with core := f h.eng.core } }).modWdn fun h => { h with eng := { h.eng with core := f h.eng.core } }

/-- Registers of both set. -/
def regsAre (l : List (Fin 16 × Word)) (s : State) : State :=
  onCores (fun c => l.foldl (fun c x => { c with w := vset c.w x.1 x.2 }) c) s

/-- Both engines' vectors changed. -/
def onVecs (f : Vectors → Vectors) (s : State) : State :=
  (s.modHw 0 fun h => { h with eng := { h.eng with vec := f h.eng.vec } }).modWdn fun h => { h with eng := { h.eng with vec := f h.eng.vec } }

theorem witness_AhfSumsAndDifferences :
    (live.MayRun (.hewer 0) true ∧ (R2.l3 ⟨15, 15, 15, 0, 0⟩).legal = true) ∧ (live.MayRun .warden false ∧ (R2.s2 0 15).legal = true) ∧
    (live.MayRun (.hewer 0) true ∧ (⟨15, 0, 0xFFFFF⟩ : LI).rs = 0) ∧
    (live.MayRun .warden true ∧ (⟨14, 14, 0, 0, 0⟩ : L3).z = 0 ∧ (⟨14, 14, 0, 0, 0⟩ : L3).aux = 0 ∧ (14 : Fin 16).val % 2 = 0) := by
  unfold State.MayRun; decide

theorem witness_AhfLogic :
    (live.MayRun (.hewer 0) true ∧ (R2.l3 ⟨15, 15, 15, 0, 0⟩).legal = true) ∧ (live.MayRun .warden true ∧ (⟨15, 0, 0xFFFFF⟩ : LI).rs = 0) ∧
    live.MayRun (.hewer 0) false := by
  unfold State.MayRun; decide

theorem witness_AhfMovesAndMarks :
    (live.MayRun (.hewer 0) false ∧ (14 : Fin 16).val % 2 = 0 ∧ (0 : Fin 16).val % 2 = 0) ∧
    (live.MayRun .warden false ∧ (⟨15, 15⟩ : SI).imm.toNat < 16) ∧ (live.MayRun (.hewer 0) true ∧ (⟨15, 0, 0xFFFFF⟩ : LI).rs = 0) ∧
    (live.MayRun .warden true ∧ (⟨15, 15, 15, 0, 15⟩ : L3).z = 0 ∧ (⟨15, 15, 15, 0, 15⟩ : L3).aux.toNat < 16) := by
  unfold State.MayRun; decide

theorem witness_AhfSaturationAndProducts :
    (live.MayRun (.hewer 0) true ∧ (R2.l3 ⟨15, 15, 15, 0, 0⟩).legal = true) ∧
    (live.MayRun .warden true ∧ (⟨14, 15, 15, 0, 0⟩ : L3).z = 0 ∧ (⟨14, 15, 15, 0, 0⟩ : L3).aux = 0 ∧ (14 : Fin 16).val % 2 = 0) := by
  unfold State.MayRun; decide

theorem witness_AhfShifts :
    (live.MayRun (.hewer 0) true ∧ (R2.l3 ⟨15, 15, 15, 0, 0⟩).legal = true) ∧ (live.MayRun .warden false ∧ (⟨20, 15⟩ : SI).imm.toNat ≤ 20) := by
  unfold State.MayRun; decide

theorem witness_AhfBits :
    live.MayRun (.hewer 0) false ∧ (live.MayRun .warden false ∧ (⟨19, 15⟩ : SI).imm.toNat < 20) ∧
    (let f : L3 := ⟨15, 15, 0, 0, 20⟩
     live.MayRun (.hewer 0) true ∧ f.rt = 0 ∧ f.z = 0 ∧ f.aux.toNat < 32 ∧ 1 ≤ f.aux.toNat ∧ f.aux.toNat ≤ 20) ∧
    (let f : L3 := ⟨15, 15, 0, 0, 0x261⟩
     live.MayRun .warden true ∧ f.rt = 0 ∧ f.z = 0 ∧ f.aux.toNat = 32 * 19 + 1 ∧ 1 ≤ 1 ∧ 19 + 1 ≤ 20) ∧
    (let f : L3 := ⟨14, 15, 14, 0, 1⟩
     live.MayRun (.hewer 0) true ∧ f.z = 0 ∧ f.rd.val % 2 = 0 ∧ f.rt.val % 2 = 0 ∧ f.aux.toNat < 32 ∧ 1 ≤ f.aux.toNat ∧ f.aux.toNat ≤ 20) := by
  unfold State.MayRun; decide

theorem witness_AhfProcessValueAssists :
    (let f : L3 := ⟨15, 15, 0, 0, 28⟩
     live.MayRun (.hewer 0) true ∧ f.z = 0 ∧ f.rt = 0 ∧ f.aux.toNat = 12 + 16 * true.toNat ∧ 1 ≤ 12 ∧ 12 ≤ 12) ∧
    (let f : L3 := ⟨14, 15, 15, 0, 0⟩
     live.MayRun .warden true ∧ f.z = 0 ∧ f.aux = 0 ∧ f.rd.val % 2 = 0) ∧ live.MayRun (.hewer 0) true := by
  unfold State.MayRun; decide

theorem witness_AhfRegisterFrame :
    let i : Instr := .add (.hewer 0) (.l3 ⟨15, 15, 15, 0, 0⟩)
    ∃ x, ahfOf i = some (.hewer 0, x) ∧ registerInstr i = true ∧ live.MayRun (.hewer 0) x.enc.long ∧ x.legal = true := by
  exact ⟨_, rfl, rfl, by unfold State.MayRun; decide, rfl⟩

theorem witness_AhfBranches :
    live.MayRun (.hewer 0) false ∧ (live.MayRun .warden true ∧ (⟨15, 0, 15, 0⟩ : LB).z = 0 ∧ (⟨15, 0, 15, 0⟩ : LB).addr = 0) := by
  unfold State.MayRun; decide

theorem witness_AhfOwnMemory :
    let s := regsAre [(14, 0x3FFE)] live
    (s.MayRun (.hewer 0) true ∧ s.Owns (.hewer 0) (s.eaOf (.hewer 0) (.lm ⟨true, 14, 0, 0x3FFE⟩)) ∧
      s.Owns (.hewer 0) (s.eaOf (.hewer 0) (.lm ⟨true, 14, 0, 0x3FFE⟩) + 1) ∧ (14 : Fin 16).val % 2 = 0) ∧
    (s.MayRun .warden false ∧ s.Owns .warden (s.eaOf .warden (.sm 0 0 14)) ∧ s.Owns .warden (s.eaOf .warden (.sm 0 0 14) + 1)) ∧
    (s.MayRun (.hewer 0) false ∧ (15 : BitVec 8).toNat < 16 ∧ s.Owns (.hewer 0) (0x3FFE - 1) ∧ s.Owns (.hewer 0) 0x3FFE) := by
  unfold State.MayRun; simp only [State.Owns] <;> decide

theorem witness_AhfAccessOutcomes :
    let s := regsAre [(14, 0x3FFF)] { live with loft := [(0, 5)] }
    let full := s.modHw 0 fun h => { h with cq := List.replicate 16 ⟨0x8000, 3, false, false, .none, 3⟩ }
    let f (a : Word) : MemForm := .lm ⟨true, 1, 0, a⟩
    s.MayRun (.hewer 0) true ∧ full.MayRun (.hewer 0) true ∧
    (∃ bs u, (s.fetched (.hewer 0)).prep (.hewer 0) [.load (s.eaOf (.hewer 0) (f 0x8000))] = .ok bs u) ∧
    (∃ bs u, (s.fetched (.hewer 0)).prep (.hewer 0) [.store (s.eaOf (.hewer 0) (f 0x8000)) ⟨3, false⟩] = .ok bs u) ∧
    (∃ c d u, (s.fetched (.hewer 0)).prep (.hewer 0) [.load (s.eaOf (.hewer 0) (f 0xE6000))] = .trap c d u) ∧
    (∃ c d u, (s.fetched (.hewer 0)).prep (.hewer 0) [.store (s.eaOf (.hewer 0) (f 0xE6000)) ⟨3, false⟩] = .trap c d u) ∧
    (∃ k p h u, (full.fetched (.hewer 0)).prep (.hewer 0) [.store (s.eaOf (.hewer 0) (f 0x8000)) ⟨3, false⟩] = .stall k p h u) := by
  refine ⟨by unfold State.MayRun; decide, by unfold State.MayRun; decide, ⟨_, _, rfl⟩, ⟨_, _, rfl⟩, ⟨_, _, _, rfl⟩, ⟨_, _, _, rfl⟩, ⟨_, _, _, _, rfl⟩⟩

theorem witness_AhfBlockWord :
    (let s := regsAre [(2, 0x3FFF), (3, 0x203), (4, 1), (5, 0)] live
     s.MayRun (.hewer 0) true ∧ s.BlockPaid (.hewer 0) ∧ (s.eng (.hewer 0)).core.w[(4 : Fin 16)] ≠ 0 ∧ s.Owns (.hewer 0) 0x3FFF ∧
      s.Owns (.hewer 0) 0x203 ∧ s.MayRun .warden true ∧ s.BlockPaid .warden ∧ s.Owns .warden 0x3FFF ∧ s.Owns .warden 0x203 ∧
      (s.eng .warden).core.w[(5 : Fin 16)] = 0) ∧
    (let s := regsAre [(3, 0x203), (11, 1)] live
     let f : L3 := ⟨12, 3, 8, 0, 0xB02⟩
     s.MayRun (.hewer 0) true ∧ f.z = 0 ∧ f.aux.toNat = (11 : Fin 16).val * 256 + 2 ∧ f.rd.val % 2 = 0 ∧ f.rt.val % 2 = 0 ∧
      (s.eng (.hewer 0)).core.w[(11 : Fin 16)] ≠ 0 ∧ s.Owns (.hewer 0) 0x203) ∧
    (let s := regsAre [(10, 0x220), (11, 19), (3, 0x203), (4, 0x206), (8, 0x212), (12, 1)] live
     let f : L3 := ⟨10, 3, 4, 0, 0xC80⟩
     s.MayRun .warden true ∧ s.BlockPaid .warden ∧ f.z = 0 ∧ f.aux.toNat / 2 % 8 = 0 ∧ (s.eng .warden).core.w[(bpveCount f)] ≠ 0 ∧
      (s.eng .warden).core.cursorBit f.rd < 20 ∧ s.Owns .warden 0x203 ∧ s.Owns .warden 0x206 ∧ s.Owns .warden 0x212 ∧
      descIllegal (s.ownWord .warden 0x212).val = false ∧ (∀ j : Fin 3, s.Owns .warden (0x220 + BitVec.ofNat 20 j.val)) ∧
      f.rd ≠ f.rs ∧ f.rd ≠ f.rt ∧ f.rd ≠ bpveDesc f ∧ f.rd ≠ bpveCount f ∧ highReg f.rd ≠ f.rs ∧ highReg f.rd ≠ f.rt ∧
      highReg f.rd ≠ bpveDesc f ∧ highReg f.rd ≠ bpveCount f) := by
  unfold State.MayRun State.BlockPaid; simp only [State.Owns]; refine ⟨?_, ?_, ?_⟩ <;> decide

theorem witness_AhfSystem :
    let due := onVecs (fun v => { v with ipend := 0x30, ien := 0x3F }) live
    let s := regsAre [(14, 0x203)] live
    (due.MayRun (.hewer 0) false ∧ (due.eng (.hewer 0)).dueAny.isSome = true) ∧
    (s.MayRun .warden false ∧ (s.eng .warden).dueAny = none ∧ s.Owns .warden 0x203 ∧ s.Owns .warden (0x203 + 1)) := by
  unfold State.MayRun; simp only [State.Owns] <;> decide

theorem witness_AhfEntries :
    let e : EngineId := .hewer 0
    let s := onVecs (fun v => { v with ipend := 0x80000000, ien := 0x80000000, vbase := 0x700, xbase := 0x900 })
      (onCores (fun c => { c with lvl := 32, ie := true }) (regsAre [(14, 0x208)] live))
    let u := onVecs (fun v => { v with xbase := 0x900 }) (regsAre [(14, 0x208)] live)
    s.Owns e (0x208 - 2) ∧ s.Owns e (0x208 - 2 + 1) ∧ (s.eng e).vec.xbase ≠ 0 ∧
    (s.listens e = true ∧ s.hasCompute e = true ∧ (s.eng e).stall = none ∧ (s.eng e).due = some 31) ∧
    (s.executes e = true ∧ s.hasCompute e = true ∧ (s.eng e).stall = none ∧ causeOf e 2 = true) ∧ u.MayRun e false ∧
    (u.eng e).vec.xbase ≠ 0 ∧
    (let w : State := { s with wdn := { s.wdn with journal := List.replicate 2046 (.ram 0x1234 9) } }
     w.listens .warden = true ∧ w.hasCompute .warden = true ∧ w.wdn.eng.stall = none ∧ w.wdn.eng.due = some 31 ∧ 2048 < w.wdn.level + 3) := by
  unfold State.MayRun; simp only [State.Owns]; refine ⟨?_, ?_, ?_, ?_, ?_, ?_, ?_, ?_⟩ <;> decide +kernel

/-- A frame of 60 octets from a source, complete, with or without a verdict. -/
def tFrame (id src : Nat) (v : Option Word) : Frame :=
  { Frame.blank id src (List.replicate 60 0x5A) with eof := true, verdict := v, decided := true, chain := [1], rxLen := 64, arrived := 30 }

/-- A frame with id 5 in one queue of the Landing. -/
def tQueued (q : Fin 80) (f : Frame) (s : State) : State := s.modLnd fun l => { l with frames := [f], nextId := 6, queue := vset l.queue q [5] }

/-- A list in the Loft: head word at 8010, count 8011, a node at 8040. -/
def tList (s : State) : State := { s with loft := [(0x10, 0x8040), (0x11, 5), (0x20, 7), (0x40, 0x8050)] }

/-- One engine stalled in an instruction, the Warden not. -/
def tStalled (k : StallKind) (i : Instr) (s : State) : State :=
  (s.modEng (.hewer 0) fun x => { x with stall := some ⟨k, i, 2, none⟩ }).modEng .warden fun x => { x with stall := none }

theorem witness_AhfMicroRoutines :
    let e : EngineId := .hewer 0
    let s := tList (regsAre [(3, 0x8010), (4, 0x8020)] live)
    let free (a : Word) : Prop := s.mayWriteLoft e a = true ∧ s.loftOn (a.toNat - 0x8000) = true
    s.MayRun e true ∧
    (free 0x8020 ∧ free 0x8010 ∧ free (0x8010 + 1) ∧ (0x8020 : Word) ≠ 0x8010 ∧ (0x8020 : Word) ≠ 0x8010 + 1 ∧ 5 ≤ s.sbu.act[(actHewer 0)].loft ∧
      s.microWait 0 false (loftOf 0x8010) = none) ∧
    (memRead 0 s.loft 0x10 = (0x8040 : Word) ∧ s.loftOn 0x40 = true) ∧ memRead 0 live.loft 0x10 = (0 : Word) ∧
    (s.lo.tapIn 0 = true ∧ s.microWait 0 false none = none) ∧
    (∃ r, s.lo.grp 0 = some r ∧ r.owner = 0 ∧ r.hostDirect = false ∧ r.req = true ∧ s.gal.grp[(0 : Fin 128)].req = false) ∧
    (1 ≤ s.sbu.act[(actHewer 0)].loft ∧ s.islandOn 20 = true ∧ s.sem[(63 : Fin 64)].held = false) ∧
    (let held (n : Nat) : State := { (s.modHw 0 fun h => { h with eng := { h.eng with tries := n } }) with sem := vset s.sem 32 ⟨true, false, 5⟩ }
     (held 0).sem[(32 : Fin 64)].held = true ∧ (held 0).sem[(32 : Fin 64)].owner ≠ BitVec.ofNat 5 0 ∧ 32 = (0x8020 : Word).toNat % 64 ∧
     ((held 0).eng e).tries + 1 < (held 0).hw[(0 : Fin 16)].eng.core.w[(4 : Fin 16)].toNat / 4 + 1 ∧
     (held 0).hw[(0 : Fin 16)].eng.core.w[(0 : Fin 16)].toNat / 4 + 1 ≤ ((held 0).eng e).tries + 1 ∧
     (held 0).microWait 0 false none = none ∧ (held 0).MayRun e true) := by
  unfold State.MayRun
  exact ⟨by decide, by decide, by decide, by decide, by decide, ⟨_, rfl, by decide⟩, by decide, by decide⟩

/-- An instruction that ends well leaves engine `y` with no stall. -/
theorem tEnds {s : State} {e y : EngineId} {i : Instr} {x : Ahf} (f : s.fetchFault e x.enc.long = none) (l : x.legal = true)
    (h : (x.body (s.fetched e)).endsFree y = true) : ((s.runBody e i x).eng y).stall = none := by
  simp only [State.runBody, f, l, if_true]
  exact settle_stall h

theorem witness_AhfWaitsEnd :
    let e : EngineId := .hewer 0
    let lm : MemForm := .lm ⟨true, 3, 0, 0x209⟩
    let rerun (w : State) (x : Stall) (a : Ahf) : State :=
      ((w.billStall e).modEng e fun y => { y with stall := none, paid := x.paid }).runBody e x.instr a
    let ends (s : State) (x : Stall) (a : Ahf) (w : State) : Prop :=
      (s.eng e).stall = some x ∧ (w.eng e).stall = some x ∧ ahfOf x.instr = some (e, a) ∧
      (w.executes e = true ∧ (w.billStall e).hasCompute e = true ∧ (w.eng e).due = none) ∧ ((rerun w x a).eng e).stall = none
    (∃ x a, x.kind = .load ∧ ends (tStalled .load (.ld e lm) live) x a ((tStalled .load (.ld e lm) live).moreArrived 0 0)) ∧
    (∃ x a, x.kind = .store ∧ ends (tStalled .store (.st e lm) live) x a (tStalled .store (.st e lm) live)) ∧
    (let s := tStalled .microVerdict (.lpop e ⟨5, 3, 0, 0, 0⟩) (tList (regsAre [(3, 0x8010)] live))
     (∃ x a, x.kind = .microVerdict ∧ ends (tQueued (tapQ 0) (tFrame 5 0 (some 1)) s) x a (tQueued (tapQ 0) (tFrame 5 0 (some 1)) s) ∧
       (tQueued (tapQ 0) (tFrame 5 0 (some 1)) s).rxHead 0 = some (tFrame 5 0 (some 1))) ∧
     (tQueued (tapQ 0) (tFrame 5 0 (some 0)) s).rxHead 0 = some (tFrame 5 0 (some 0)) ∧ (1 : Word).getLsbD 0 = true ∧ (0 : Word).getLsbD 0 = false) ∧
    (let s := tStalled .listHold (.lpop e ⟨5, 3, 0, 0, 0⟩) (tList (regsAre [(3, 0x8010)] live))
     s.wdn.eng.stall = none ∧ ∃ x a, x.kind = .listHold ∧ ends s x a s ∧
       ((rerun s x a).eng .warden).stall = none) ∧
    (let s := tStalled .wait (.wait e 0) (onVecs (fun v => { v with ipend := 0x30, ien := 0x3F }) (onCores (fun c => { c with lvl := 32, ie := true }) live))
     ∃ x v, x.kind = .wait ∧ (s.eng e).stall = some x ∧ s.executes e = true ∧ s.hasCompute e = true ∧ (s.eng e).dueAny = some v ∧
       (s.eng e).core.ie = true) ∧
    (let s := tStalled .wait (.wait e 0) (onVecs (fun v => { v with ipend := 0x30, ien := 0x3F }) live)
     ∃ x v, x.kind = .wait ∧ (s.eng e).stall = some x ∧ s.executes e = true ∧ s.hasCompute e = true ∧ (s.eng e).dueAny = some v ∧
       (s.eng e).core.ie = false) ∧
    (let s : State := { live.modHw 0 fun h => ({ h with st := .halted } : Hewer).setLocal 0 ⟨0x40000, false⟩ with sec := { Sec.reset with scope := 3 } }
     let claimed : State := { s with sec := { s.sec with claim := BitVec.allOnes 56 } }
     s.reaches .host = true ∧ s.ctrlResult 0 = 0 ∧ s.hw[(0 : Fin 16)].st = .halted ∧ s.debugOpen .host 0 = true ∧ s.claimed 4 = false ∧
       s.fetchFault e false = none ∧ (s.hw[(0 : Fin 16)].fetchWord s.hw[(0 : Fin 16)].eng.core.pc.toNat).val = 0x40000 ∧
       (claimed.reaches .host = true ∧ claimed.ctrlResult 0 = 0 ∧ claimed.hw[(0 : Fin 16)].st = .halted ∧ claimed.claimed 4 = true)) := by
  refine ⟨⟨_, _, ?_, rfl, rfl, rfl, ?_, tEnds rfl rfl (by decide)⟩, ⟨_, _, ?_, rfl, rfl, rfl, ?_, tEnds rfl rfl (by decide)⟩,
    ⟨⟨_, _, ?_, ⟨rfl, rfl, rfl, ?_, tEnds rfl rfl (by decide)⟩, ?_⟩, ?_⟩,
    ⟨?_, ⟨_, _, ?_, ⟨rfl, rfl, rfl, ?_, tEnds rfl rfl (by decide)⟩, tEnds rfl rfl (by decide)⟩⟩, ⟨_, _, ?_, rfl, ?_, ?_, rfl, ?_⟩,
    ⟨_, _, ?_, rfl, ?_, ?_, rfl, ?_⟩, ?_⟩ <;> first | rfl | decide

/-- Hewer 0 waits in an instruction. -/
theorem tWaits {s : State} {k : StallKind} {i : Instr} {p : Nat} {long : Bool} (h : s.hw[(0 : Fin 16)].eng.stall = some ⟨k, i, p, none⟩)
    (r : s.executes (.hewer 0) = true ∧ (s.billStall (.hewer 0)).hasCompute (.hewer 0) = true ∧ s.hw[(0 : Fin 16)].eng.due = none ∧ s.fetchFault (.hewer 0) long = none) :
    s.Waits 0 k i p long := ⟨⟨none, h⟩, r.1, r.2.1, r.2.2.1, r.2.2.2⟩

/-- A load or a store of word `a` of the map. -/
def tAt (a : Word) : MemForm := .lm ⟨true, 3, 0, a⟩

theorem witness_AhfWaitsEnd_accesses :
    let e : EngineId := .hewer 0
    let full (s : State) : State := s.modHw 0 fun h => { h with cq := List.replicate 15 ⟨0x8000, 3, false, false, .none, 3⟩ }
    let f (v : Option Word) := tFrame 5 0 v
    let got (v : Option Word) (s : State) : State := tQueued (tapQ 0) (f v) s
    (let s := got (some 1) (tStalled .verdictRead (.ld e (tAt 0xC9801)) live)
     s.Waits 0 .verdictRead (.ld e (tAt 0xC9801)) 2 true ∧ s.eaOf e (tAt 0xC9801) = 0xC9801 ∧ s.lo.tapIn 0 = true ∧ s.rxHead 0 = some (f (some 1)) ∧
       (f (some 1)).verdict = some 1) ∧
    (let s := got none (tStalled .load (.ld e (tAt 0xC801D)) live)
     let m := s.moreArrived 0 0
     s.Waits 0 .load (.ld e (tAt 0xC801D)) 2 true ∧ m.Waits 0 .load (.ld e (tAt 0xC801D)) 2 true ∧ m.hw[(0 : Fin 16)].eng.core = s.hw[(0 : Fin 16)].eng.core ∧
       (s.eaOf e (tAt 0xC801D)).toNat = 0xC8000 + 29 ∧ m.lo.tapIn 0 = true ∧ ∃ h, m.rxHead 0 = some h ∧ 29 < h.arrived) ∧
    (let s := full (tStalled .store (.st e (tAt 0x8000)) live)
     s.Waits 0 .store (.st e (tAt 0x8000)) 2 true ∧ (s.eaOf e (tAt 0x8000)).toNat = 0x8000 + 0 ∧ loftAllowed s.lo 0 0 = true ∧ s.loftHeld 0 = false ∧
       s.hw[(0 : Fin 16)].cq ≠ [] ∧ s.hw[(0 : Fin 16)].cq.length < 16 ∧ 1 ≤ s.sbu.act[(actHewer 0)].loft) ∧
    (let s := tStalled .relDrain (.st e (tAt 0xE047F)) { live with sem := vset live.sem 63 ⟨true, true, 0⟩ }
     s.Waits 0 .relDrain (.st e (tAt 0xE047F)) 2 true ∧ (s.eaOf e (tAt 0xE047F)).toNat = 0xE0440 + 63 ∧ s.hw[(0 : Fin 16)].cq = [] ∧
       1 ≤ s.sbu.act[(actHewer 0)].loft ∧ s.sem[(63 : Fin 64)].held = true ∧ s.sem[(63 : Fin 64)].owner = BitVec.ofNat 5 0) ∧
    (let s := got (some 0) (tStalled .rxNext (.st e (tAt 0xC9808)) live)
     s.Waits 0 .rxNext (.st e (tAt 0xC9808)) 2 true ∧ s.eaOf e (tAt 0xC9808) = 0xC9808 ∧ s.rxHead 0 = some (f (some 0)) ∧ (f (some 0)).verdict.isSome = true) ∧
    (let s := regsAre [(3, 0x10041)] (tStalled .push (.st e (tAt 0xCA003)) live)
     s.Waits 0 .push (.st e (tAt 0xCA003)) 2 true ∧ s.eaOf e (tAt 0xCA003) = 0xCA003 ∧ s.lo.tapOut 0 = true ∧
       ∃ w, ((s.billStall e).unstalled e 2).txPush e 0x10041 false = .ok () w) ∧
    (let s := tList (tStalled .listHold (.ld e (tAt 0x8010)) live)
     s.Waits 0 .listHold (.ld e (tAt 0x8010)) 2 true ∧ (s.eaOf e (tAt 0x8010)).toNat = 0x8000 + 0x10 ∧ s.loftHeld 0x10 = false ∧ s.loftOn 0x10 = true ∧
       s.hw[(0 : Fin 16)].queued 0x8010 = none ∧ 1 ≤ s.sbu.act[(actHewer 0)].loft ∧ s.wdn.eng.stall = none) ∧
    (let g : L3 := ⟨5, 3, 0, 0, 0⟩
     let s (k : StallKind) := got (some 1) (tStalled k (.pswap e g) live)
     g.z = 0 ∧ g.aux = 0 ∧ g.rt = 0 ∧ (s .microQueue).Waits 0 .microQueue (.pswap e g) 2 true ∧ (s .microVerdict).Waits 0 .microVerdict (.pswap e g) 2 true ∧
       (s .microVerdict).hw[(0 : Fin 16)].eng.core.ctlG = false ∧ ((s .microVerdict).hw[(0 : Fin 16)].eng.core.reg 3).green = false ∧
       (s .microVerdict).hw[(0 : Fin 16)].cq = [] ∧ (s .microVerdict).hw[(0 : Fin 16)].eng.core.w[(3 : Fin 16)].toNat = 0 ∧
       (∃ r, (s .microVerdict).lo.grp 0 = some r ∧ r.owner = 0 ∧ r.hostDirect = false ∧ r.req = true ∧ (s .microVerdict).gal.grp[(0 : Fin 128)].req = false) ∧
       (s .microVerdict).rxHead 0 = some (f (some 1)) ∧ (1 : Word).getLsbD 0 = true) := by
  refine ⟨⟨tWaits rfl (by decide), by decide, by decide, rfl, rfl⟩, ⟨tWaits rfl (by decide), tWaits rfl (by decide), by decide, by decide, by decide, _, rfl, by decide⟩,
    ⟨tWaits rfl (by decide), by decide⟩, ⟨tWaits rfl (by decide), by decide⟩, ⟨tWaits rfl (by decide), by decide, rfl, rfl⟩,
    ⟨tWaits rfl (by decide), by decide, by decide, _, rfl⟩, ⟨tWaits rfl (by decide), by decide⟩,
    ⟨rfl, rfl, rfl, tWaits rfl (by decide), tWaits rfl (by decide), by decide, by decide, by decide, by decide, ⟨_, rfl, by decide⟩, rfl, by decide⟩⟩

theorem witness_EngineAccesses :
    let e : EngineId := .hewer 0
    let held := { live with sem := vset live.sem 63 ⟨true, true, 0⟩ }
    let got := tQueued (tapQ 0) (tFrame 5 0 (some 1)) live
    let wdn := (tQueued (portQ 7 3) (tFrame 5 0 (some 1)) live).modLnd fun l => { l with toWarden := some 5 }
    let own : State := { live with sem := vset live.sem 63 ⟨true, true, 16⟩ }
    let plain : List Instr := [.secondsCarry, .semTake .warden 0]
    (live.ready e = true ∧ live.lo.tapOut 0 = true ∧ live.hw[(0 : Fin 16)].tx.building = none) ∧
    (let s := live.modHw 0 fun h => { h with tx := { h.tx with building := some 5 } }
     s.ready e = true ∧ s.lo.tapOut 0 = true ∧ s.hw[(0 : Fin 16)].tx.building = some 5) ∧
    (∃ u, live.txPush e 0x10041 (false || live.hw[(0 : Fin 16)].eng.core.ctlG) = .ok () u) ∧
    (got.ready e = true ∧ got.lo.tapIn 0 = true ∧ got.rxHead 0 = some (tFrame 5 0 (some 1))) ∧
    (live.islandOn 20 = true ∧ 1 ≤ live.sbu.act[(actHewer 0)].loft ∧ live.sem[(63 : Fin 64)].held = false) ∧
    (held.ready e = true ∧ held.sem[(63 : Fin 64)].held = true ∧ held.sem[(63 : Fin 64)].owner = BitVec.ofNat 5 0 ∧ held.hw[(0 : Fin 16)].cq = []) ∧
    (live.awake = true ∧ (111 < 112 ∨ 114 < 111) ∧ (115 < 112 ∨ 114 < 115)) ∧
    (wdn.awake = true ∧ wdn.wardenHead = some (tFrame 5 0 (some 1))) ∧
    (own.awake = true ∧ 1 ≤ own.sbu.act[actWarden].loft ∧ own.sem[(63 : Fin 64)].held = true ∧ own.sem[(63 : Fin 64)].owner = 16) ∧
    (live.pending = [] ∧ (0 : Fin 16).val < (15 : Fin 16).val ∧ live.ready (.hewer 0) = true ∧ live.islandOn 20 = true ∧ 1 ≤ live.sbu.act[(actHewer 0)].loft ∧
      live.sem[(63 : Fin 64)].held = false) ∧
    ∀ c ∈ plain, resetOf c = none := by
  refine ⟨by decide, by decide, ⟨_, rfl⟩, ⟨by decide, by decide, rfl⟩, by decide, by decide, by decide, ⟨by decide, rfl⟩, by decide, by decide, by decide⟩

/-! Treads. -/

/-- Tread 0 of flight 0 in a state of its own. -/
def tTread (f : Tread → Tread) : State := live.modTread 0 fun x => f { x with st := .running }

/-- The layout with feed and drain of Tread 0 on, its widths 8 and 6. -/
def autoLay : Layout :=
  { tLayout with sections := tLayout.sections.map fun x =>
      if x.type = 11 then { x with body := x.body.mapIdx fun i w => if i = 6 then 0x03D06 else if i = 7 then 0x00000 else w } else x }

theorem witness_TreadInstructions :
    let s := tTread id
    (s.trd.tread[(0 : Fin 32)].st = .running ∧ s.flightOn (flightOf 0) = true) ∧
    (1 ≤ (20 : BitVec 5).toNat ∧ (20 : BitVec 5).toNat ≤ 20 ∧ s.lo.autoDrain 0 = false ∧ s.lo.autoFeed 0 = false) ∧
    ((2 : BitVec 2) ≠ 3 ∧ (11 : BitVec 4).toNat < 12) := by decide

theorem witness_TreadWaitsAndFlags :
    let q : List Word := [1, 2]
    let s := tTread fun x => { x with tx := q, txAt := 2 }
    let x := s.trd.tread[(0 : Fin 32)]
    let auto (rx : List Word) : State := { (tTread fun x => { x with tx := q, txAt := 2, ocnt := 20, icnt := 20, rx := rx }) with
      lay := { live.lay with active := some autoLay } }
    let none_ : State := { (tTread fun x => { x with ocnt := 20 }) with lay := { live.lay with active := some autoLay } }
    let waits (w : TreadWait) : State := (tTread fun x => { x with st := .waiting, wait := some w })
    let far (u : State) : State := u.modTb fun t => { t with stroke := { t.stroke with ends := some 40000000 } }
    (x.st = .running ∧ s.flightOn (flightOf 0) = true ∧ x.tx = 1 :: [2] ∧ 0 < (x.sense (s.tickCycle 0)).txAt ∧ x.rx.length < 8 ∧
      (x.sense (s.tickCycle 0)).rxAt < 8) ∧
    ((0x01#8 &&& s.lo.slotMask 0).getLsbD 0 = true ∧ (0#8 &&& s.lo.slotMask 0).getLsbD 0 ≠ true) ∧
    (let y := (auto []).trd.tread[(0 : Fin 32)]
     (auto []).lo.autoFeed 0 = true ∧ (auto []).lo.outWidth 0 ≤ y.ocnt ∧ y.tx = 1 :: [2] ∧ 0 < (y.sense ((auto []).tickCycle 0)).txAt ∧
      (auto []).lo.autoDrain 0 = true ∧ (auto []).lo.inWidth 0 ≤ min 20 (y.icnt + 20) ∧ y.rx.length < 8 ∧
      (y.sense ((auto []).tickCycle 0)).rxAt < 8) ∧
    (none_.lo.autoFeed 0 = true ∧ none_.lo.outWidth 0 ≤ none_.trd.tread[(0 : Fin 32)].ocnt ∧ none_.trd.tread[(0 : Fin 32)].tx = []) ∧
    8 ≤ (auto (List.replicate 8 0)).trd.tread[(0 : Fin 32)].rx.length ∧ s.trd.flight[(flightOf 0)].setAt[(7 : Fin 8)] ≠ some (s.tickCycle 0) ∧
    ((waits (.hold 0 true 0)).trd.tread[(0 : Fin 32)].st = .waiting ∧ (waits (.hold 0 true 0)).flightOn (flightOf 0) = true ∧
      (waits (.hold 0 true 0)).trd.tread[(0 : Fin 32)].wait = some (.hold 0 true 0)) ∧
    (let u := far (waits (.at_ true true false))
     u.trd.tread[(0 : Fin 32)].wait = some (.at_ true true false) ∧ u.trd.tread[(0 : Fin 32)].st = .waiting ∧
      u.beforeEnd (u.tb.stroke.cyc0 + 2 * u.atDue u.trd.tread[(0 : Fin 32)] true false) = true) ∧
    ((far live).tb.stroke.running = true ∧ (far live).beforeEnd
      ((far live).tb.stroke.cyc0 + 2 ^ 21 * (((far live).tb.clk.cycles - (far live).tb.stroke.cyc0) / 2 ^ 21 + 1)) = true) := by
  refine ⟨?_, ?_, ?_, ?_, ?_, ?_, ?_, ?_, ?_⟩ <;> decide

theorem witness_FlightCommands :
    let s := tTread fun x => { x with rx := [4] }
    let x := s.trd.tread[(0 : Fin 32)]
    let ending := live.modFlight 0 fun x => { x with resetting := true }
    let halted := live.modTread 0 fun x => { x with st := .halted, prev := .running }
    let stopped := live.modTread 0 fun x => { x with st := .stopped }
    (s.heard (.hewer 0) (32 + (0 : Fin 4).val) = true ∧ s.ownsAll (.hewer 0) 0 0xFF = true ∧ s.lo.flightPresent 0 = true ∧ s.flightOn 0 = true) ∧
    (s.heard (.hewer 0) (32 + (flightOf 0).val) = true ∧ s.lo.treadOwnerCode 0 = agentCode (.hewer 0) ∧ (x.sense s.trdNow).txAt < 8 ∧ x.tx.length < 8 ∧
      x.rx = 4 :: []) ∧
    (s.heard (.hewer 0) (32 + (flightOf 0).val) = true ∧ 0 < (({ x with rxAt := 1 } : Tread).sense s.trdNow).rxAt) ∧
    (live.reaches .host = true ∧ live.flightResult 0 false = 0 ∧ halted.flightResult 0 true = 0 ∧ halted.trd.tread[(treadOf 0 0)].st = .halted ∧
      stopped.flightResult 0 false = 1) ∧
    (ending.trd.flight[(0 : Fin 4)].resetting = true ∧ ending.lo.flightPresent 0 = true ∧ ending.flightOn 0 = true ∧
      ending.Before (ending.trd.flight[(0 : Fin 4)].resetCyc + 1000)) := by
  simp only [before_iff]
  decide

theorem witness_TreadReservedEncodingsStop :
    (tTread id).trd.tread[(0 : Fin 32)].st = .running ∧ (tTread id).flightOn (flightOf 0) = true ∧ 20 < (21 : BitVec 5).toNat ∧
    12 ≤ (12 : BitVec 4).toNat ∧ 2 ≤ (2 : BitVec 2).toNat := by decide

/-! The queue, time, strokes. -/

theorem witness_StepRunsTheFrontCommand :
    (State.reset.pending = [] ∧ (State.reset.pwr.held.isSome || State.reset.pwr.off || State.reset.pwr.clockHold) = true) ∧
    (live.pending = [] ∧ (live.pwr.held.isSome || live.pwr.off || live.pwr.clockHold) = false ∧ live.tb.clk.slew = 0 ∧ 0 ≤ 2 ^ 40 + live.tb.clk.trim) := by
  decide

theorem witness_WellFormedCommandsComplete : WellFormed (.secondsCarry) ∧ WellFormed (.hostGalleryRead 0 0x200000 []) ∧
    WellFormed (.br 0 11 0 0) := by unfold WellFormed; decide

theorem witness_CommandsLeaveTheQueue : ∃ t, exec (.latchedRead .host 0) live = .next t := ⟨_, rfl⟩

theorem witness_StepsKeepTheInvariant :
    let s := { live with pending := [.latchedRead .host 0], loft := [(0, 5)] }
    s.LoftOk ∧ s.PendingOk ∧ ∃ t, step s = .next t := by
  refine ⟨by unfold State.LoftOk; decide, by intro c h; simp only [List.mem_singleton] at h; subst h; rfl, _, rfl⟩

/-- The device's time base changed. -/
def tTime (f : Timebase → Timebase) : State := live.modTb f
/-- No stroke to come. -/
def tIdle (f : Timebase → Timebase) : State := tTime fun t => { f t with stroke := { (f t).stroke with ends := none } }

theorem witness_TimeOwnerWrites :
    let w (v : Word) (cyc : Nat) : HeldWord := ⟨v, cyc⟩
    let s (n : Nat) := tTime fun t => { t with clk := { t.clk with cycles := 600 },
                                               held := { rate := some (w 0x12345 100), adj := some (w 0x7D00 99), set := Vector.replicate 3 (some (w 5 600)) },
                                               regs := { t.regs with stepq := List.replicate n (1, 2) } }
    let due := tTime fun t => { t with stroke := { t.stroke with ends := some 0 } }
    let first := tTime fun t => { t with stroke := { t.stroke with cyc0 := t.clk.cycles } }
    let x (adj hi : Word) : Int := (hi ++ adj : BitVec 40).toInt * 2 ^ 37
    ((s 7).heard .host 54 = true ∧ agentCode .host = (s 7).lo.owner ∧ (s 7).tb.regs.stepq.length < 8 ∧ 8 ≤ (s 8).tb.regs.stepq.length ∧
      (s 8).heard .host 54 = true ∧ (s 8).StepsNow) ∧
    ((s 0).tb.clk.cycles ≤ 100 + 500 ∧ ¬((s 0).tb.clk.cycles ≤ 99 + 500)) ∧
    (x 4000 0).natAbs ≤ 4000 * 2 ^ 37 ∧ 4000 * 2 ^ 37 < (x 4001 0).natAbs ∧ 4000 * 2 ^ 37 < (x 0xFF05F 0xFFFFF).natAbs ∧
    (due.heard .host 54 = true ∧ due.tb.stroke.ends = some 0 ∧ 0 ≤ due.qns) ∧
    (first.heard .host 54 = true ∧ first.BeforeTime first.qns ∧ first.tb.stroke.running = true ∧ first.tb.clk.cycles = first.tb.stroke.cyc0) ∧
    ((s 0).heard .warden 54 = true ∧ agentCode .warden ≠ (s 0).lo.owner) ∧
    ((s 0).Before (100 + 501) ∧ (s 0).Before (99 + 501) ∧ (s 0).Before (600 + 501) ∧ (s 0).tb.held.rate = some (w 0x12345 100) ∧
      (s 0).tb.held.adj = some (w 0x7D00 99) ∧ (s 0).tb.held.set[(2 : Fin 3)] = some (w 5 600) ∧
      ∀ j : Fin 3, (s 0).tb.held.set[j] = some (w 5 600)) := by
  simp only [State.StepsNow, before_iff, beforeTime_iff]
  decide

theorem witness_TimeAndSynchronization :
    let s (y : SyncState) := tTime fun t => { t with clk := { t.clk with trim := -2 ^ 30, slew := 5 }, sync := { t.sync with st := y, ivl := 0xFA },
                                                     regs := { t.regs with holdMs := 2 },
                                                     stroke := { t.stroke with ends := some 8000000000 } }
    let o (m : BitVec 2) (q : Bool) := tTime fun t => { t with pps := Vector.replicate 2 { t.pps[(0 : Fin 2)] with quiet := q, mode := m, starts := [0] },
                                                               cap := Vector.replicate 2 { t.cap[(0 : Fin 2)] with en := true } }
    ((s .holdover).tb.clk.trim.natAbs ≤ 2 ^ 30 ∧ (s .holdover).BeforeTime (((s .holdover).qns / 4000000000 + 1) * 4000000000) ∧
      (s .holdover).Before ((s .holdover).tb.clk.cycles + ((s .holdover).tb.clk.slew.natAbs + 2 ^ 28 - 1) / 2 ^ 28)) ∧
    ((s .synced).Before ((s .synced).tb.sync.ivlCyc0 + 500000000 / 2 ^ ((s .synced).tb.sync.ivl.toInt.natAbs)) ∧ (s .synced).tb.sync.ivl.toInt < 0 ∧
      (s .synced).tb.sync.st = .synced ∧ (s .unsynced).tb.sync.st ≠ .synced) ∧
    ((s .holdover).tb.sync.st = .holdover ∧ (s .holdover).Before ((s .holdover).tb.sync.lostCyc + 500000 * (s .holdover).tb.regs.holdMs.toNat)) ∧
    (o 0 true).tb.cap[(1 : Fin 2)].en = true ∧
    ((o 1 false).tb.pps[(1 : Fin 2)].quiet = false ∧ (o 1 false).tb.pps[(1 : Fin 2)].mode = 1 ∧
      ((o 1 false).qns < 0 + 8 ∧ 0 % 4000000000 = 32 * (o 1 false).tb.pps[(1 : Fin 2)].offset.toNat % 4000000000 ∧ (o 1 false).tb.pps[(1 : Fin 2)].last ≠ some 0) ∧
      (o 1 false).BeforeTime 0) ∧
    ((o 2 false).tb.pps[(0 : Fin 2)].mode = 2 ∧ (o 2 false).tb.pps[(0 : Fin 2)].starts = [] ++ 0 :: [] ∧
      (o 2 false).qns < 0 + 32 * (o 2 false).tb.pps[(0 : Fin 2)].offset.toNat + 8 ∧ (o 2 false).BeforeTime (0 + 32 * (o 2 false).tb.pps[(0 : Fin 2)].offset.toNat)) ∧
    ((o 1 true).tb.pps[(1 : Fin 2)].quiet = true ∧ (o 1 true).tb.sync.st = .unsynced) := by
  simp only [before_iff, beforeTime_iff]
  decide

theorem witness_SchedulerCommands :
    let at_ (l h : Word) (st : SchedState) := tTime fun t => { t with sched := Vector.replicate 16 { Sched.reset with tgt := #v[l, h, 0, 0], st := st, owner := 17 } }
    let d (s : State) := (s.tb.sched[(2 : Fin 16)].tgt[1] ++ s.tb.sched[(2 : Fin 16)].tgt[0] - s.tb.stroke.count : BitVec 40).toNat
    ((at_ 1 0 .idle).heard .host 54 = true ∧ 2 ≤ (2 : Fin 16).val ∧ (0x4 : BitVec 32).getLsbD 1 = false ∧ (0x4 : BitVec 32).getLsbD 2 = true ∧
      (at_ 1 0 .idle).tb.sched[(2 : Fin 16)].st ≠ .pending) ∧
    (1 ≤ d (at_ 1 0 .idle) ∧ d (at_ 1 0 .idle) ≤ 2 ^ 39) ∧ (1 ≤ d (at_ 0 0x80000 .idle) ∧ d (at_ 0 0x80000 .idle) ≤ 2 ^ 39) ∧
    ¬(1 ≤ d (at_ 0 0 .idle) ∧ d (at_ 0 0 .idle) ≤ 2 ^ 39) ∧ ¬(1 ≤ d (at_ 1 0x80000 .idle) ∧ d (at_ 1 0x80000 .idle) ≤ 2 ^ 39) ∧
    ((at_ 1 0 .pending).tb.sched[(2 : Fin 16)].st = .pending ∧ agentCode .host = (at_ 1 0 .pending).tb.sched[(2 : Fin 16)].owner ∧
      (at_ 1 0 .pending).heard (.hewer 3) 54 = true ∧ agentCode (.hewer 3) ≠ (at_ 1 0 .pending).tb.sched[(2 : Fin 16)].owner ∧ Agent.hewer 3 ≠ .warden) ∧
    ((1 : Fin 16).val < 2 ∧ Agent.host ≠ .warden) ∧ live.reaches .host = true := by decide

theorem witness_StrokeBoundaryRefills :
    live.awake = true ∧ live.tb.stroke.ends = some 4000000 ∧ live.tb.stroke.running = true ∧ live.pwr.stop = false ∧ live.pwr.req = none ∧
    (∀ n : Fin 16, live.tb.sched[n].st ≠ .pending) ∧ live.sbu.heldq = [] ∧ live.NoStall ∧ live.wdn.relWait = false ∧ live.tb.steps = [] ∧ live.lnd.toWarden = none ∧
    (tTime fun t => { t with steps := [.set 5] }).tb.steps = [.set 5] ∧ 5 < 2 ^ 48 * 4000000000 := by
  refine ⟨rfl, rfl, rfl, rfl, rfl, by decide, rfl, ?_, rfl, rfl, rfl, rfl, by decide⟩
  intro e
  cases e with
  | hewer n => revert n; decide
  | warden => rfl

theorem witness_StrokeInstants :
    let poor (a : ActId) : State := live.modAct a fun x => { x with cpu := 0, parked := false }
    let flight : State := (tTread id).modAct 16 fun x => { x with cpu := 0 }
    let hinge : State := { live with plans := { live.plans with hinge := { active := true, pins := [3, 5], hewers := [1], flights := [0], settles := 0, cyc := 0 } } }
    let ph := live.tb.stroke.cyc0 + 4 * (live.lo.phaseAt 2).toNat
    let stop : State := live.modPwr fun p => { p with stop := true, stopCyc := 5 }
    (live.tb.stroke.phases[(2 : Fin 3)] = false ∧ live.InStroke ph) ∧
    ((poor 0).tb.stroke.running = true ∧ (poor 0).sbu.act[(0 : ActId)].cpu = 0 ∧ (poor 0).sbu.act[(0 : ActId)].parked = false ∧
      (poor 0).lo.present 0 = true ∧ (poor 0).executes (.hewer 0) = true ∧ (poor 0).hw[(0 : Fin 16)].eng.stall = none) ∧
    (flight.lo.present 16 = true ∧ flight.sbu.act[(16 : ActId)].cpu = 0 ∧ flight.sbu.act[(16 : ActId)].parked = false ∧ flight.awake = true ∧
      ∃ i : Fin 8, flight.trd.tread[(treadOf 0 i)].st = .running) ∧
    ((poor 29).lo.present 29 = true ∧ (poor 29).sbu.act[(29 : ActId)].cpu = 0 ∧ (poor 29).executes .warden = true ∧ (poor 29).wdn.eng.stall = none) ∧
    (hinge.awake = true ∧ hinge.plans.hinge.active = true ∧ hinge.Before (hinge.plans.hinge.cyc + 1000)) ∧
    ((live.modPwr fun p => { p with req := some true }).awake = true ∧ (live.modPwr fun p => { p with req := some true }).tb.stroke.ends = some 4000000 ∧
      (live.modPwr fun p => { p with req := some true }).pwr.stop = false ∧ (live.modPwr fun p => { p with req := some true }).pwr.req.isSome = true) ∧
    (let late : State := live.modPwr fun p => { p with stop := true, stopCyc := 500000 }
     stop.awake = true ∧ stop.pwr.stop = true ∧ stop.stopping = true ∧ late.stopping = true ∧ late.beforeEnd late.stopCycle = false) := by
  simp only [inStroke_iff, before_iff]
  decide

/-! The Gallery. -/

/-- A held lease of a group, deferred `d` times. -/
def tLease (g : Fin 128) (d : BitVec 2) (s : State) : State :=
  s.modGal fun x => { x with lease := vset x.lease 3 { x.lease[(3 : Fin 16)] with held := true, grp := BitVec.ofNat _ g.val, defers := d.toNat } }

theorem witness_SettlePointsAndCommitQueues :
    let r := tLayout.grpAt 1
    let asked (s : State) : State := s.modGal fun g => { g with grp := vset g.grp 0 { g.grp[(0 : Fin 128)] with req := true } }
    let ready (g : Fin 128) (r : GroupRec) (s : State) : Prop :=
      s.lo.grp g.val = some r ∧ s.tb.stroke.running = true ∧ s.unsettled.filter (fun q => s.lo.settleAt q == s.lo.settleAt r) = [r] ∧
      r.group = g.val ∧ s.tb.stroke.settled.getLsbD g.val = false ∧ s.plans.hinge.active = false ∧
      s.beforeEnd (s.tb.stroke.cyc0 + 4 * s.lo.settleAt r) = true ∧ memWf (0 : Word) s.gal.mem = true ∧ memWf none s.gal.flaws = true
    let alone (g : Nat) : State := tTime fun t => { t with stroke := { t.stroke with settled := BitVec.ofNat _ g } }
    let direct := tLayout.grpAt 11
    (ready 2 direct (alone 1) ∧ direct.hostDirect = true) ∧
    (let s := (alone 4).modHw 0 fun h => { h with st := .faulted }
     ready 0 r s ∧ r.hostDirect = false ∧ s.ownerStopped r = true) ∧
    (ready 0 r (alone 4) ∧ (alone 4).ownerStopped r = false ∧ r.req = true ∧ (alone 4).gal.grp[(0 : Fin 128)].req = false) ∧
    (let holders (s : State) := (List.finRange 16).filter fun i => s.gal.lease[i].held && decide (s.gal.lease[i].grp.toNat = 0)
     let s (d : BitVec 2) := tLease 0 d (asked (alone 4))
     ready 0 r (s 2) ∧ (s 2).gal.grp[(0 : Fin 128)].req = true ∧ holders (asked (alone 4)) = [] ∧
     (∃ i ∈ holders (s 2), (if r.lease2 then 2 else 1) ≤ (s 2).gal.lease[i].defers) ∧ ready 0 r (s 1) ∧ holders (s 1) ≠ [] ∧
     ∀ i ∈ holders (s 1), (s 1).gal.lease[i].defers < if r.lease2 then 2 else 1) ∧
    (let s (a : Word) (c : Bool) := live.modHw 0 fun h => { h with cq := [⟨a, 39, false, c, .none, 3⟩] }
     (s 0x8000 true).hw[(0 : Fin 16)].cq = ⟨0x8000, 39, false, true, .none, 3⟩ :: [] ∧ (s 0x8000 false).hw[(0 : Fin 16)].cq = ⟨0x8000, 39, false, false, .none, 3⟩ :: [] ∧
     (s 0x87FFF true).islandOn (20 + (0x87FFF - 0x8000) / 131072) = true ∧
     (∃ r, live.lo.grpOfPage 0 = some r ∧ r.owner = 0) ∧ (∃ r, live.lo.grpOfPage 2 = some r ∧ r.owner ≠ 0) ∧ (39 : Word).toNat % 128 = 39) := by
  refine ⟨by decide, by decide, by decide, by decide, rfl, rfl, by decide, ⟨_, rfl, by decide⟩, ⟨_, rfl, by decide⟩, by decide⟩

theorem witness_GalleryCommands :
    let r := tLayout.grpAt 1
    let direct := tLayout.grpAt 11
    let req : State := live.modGal fun g => { g with grp := vset g.grp 0 { g.grp[(0 : Fin 128)] with req := true } }
    live.lo.grp 127 = none ∧ live.lo.grp 0 = some r ∧ (agentCode .host).toNat ≠ r.owner ∧ (agentCode (.hewer 0)).toNat = r.owner ∧
    r.hostDirect = false ∧ r.req = true ∧ live.gal.grp[(0 : Fin 128)].req = false ∧ req.gal.grp[(0 : Fin 128)].req = true ∧
    live.lo.grp 2 = some direct ∧ (agentCode .host).toNat = direct.owner ∧ direct.hostDirect = true ∧
    live.lo.grp 1 = some (tLayout.grpAt 6) ∧ (agentCode .host).toNat = (tLayout.grpAt 6).owner ∧ (tLayout.grpAt 6).hostDirect = false ∧ (tLayout.grpAt 6).req = false ∧
    (live.hostWorks = true ∧ live.lo.grpOfPage (0 / 512) = some r ∧ memRead none live.gal.flaws (512 * r.viewFrame 17 (0 / 512) + 0 % 512) = none) ∧
    (2047 < 262144 ∧ live.lo.grpOfPage (2047 / 512) = some (tLayout.grpAt 6) ∨ live.lo.grpOfPage (2048 / 512) = some direct) ∧
    memWf (0 : Word) live.gal.mem = true := by decide

/-! Layouts and Hewers. -/

/-- An owner key with the digest of its x and y, both 0. -/
def tOwner : OwnerKey := ⟨0, 0, 0xf5a5fd42d16a20302798ef6ed309979b43003d2320d9f0e8ea9831a92759fb4b⟩

/-- Owner keys in the positions of a mask. -/
def tKeys (mask : BitVec 4) : Vector (Option OwnerKey) 4 := Vector.ofFn fun k => if mask.getLsbD k.val then some tOwner else none

/-- A device whose flash holds these owner keys. -/
def tKeyed (mask : BitVec 4) (s : State) : State := { s with flash := { Flash.blank with owner := tKeys mask } }

theorem tOwner_genuine : tOwner.genuine = true := by decide +kernel

theorem tKeyed_ownerKey {f : Flash} {mask : BitVec 4} (h : f.owner = tKeys mask) (k : Fin 4) (hk : mask.getLsbD k.val = true) : f.ownerKey k = some tOwner := by
  unfold Flash.ownerKey tKeys at *
  rw [h]
  simp [hk, tOwner_genuine]

theorem tKeyed_usable {f : Flash} (k : Nat) (h : f.owner = tKeys 0xF) (hr : f.revoked = 0) (hk : k < 4) : f.usable k = true := by
  unfold Flash.usable
  rw [tKeyed_ownerKey h (ix 4 k) (by generalize ix 4 k = j; revert j; decide), hr]
  simp [hk, bit]

/-- ECDSA is opaque in the model: that a signature of this digest holds under the key above. The witnesses of what a check that passes does take
it as a hypothesis, which no closed theorem can discharge. -/
def tSigned (digest : BitVec 256) : Prop := Config.ecdsaVerify 0 0 digest 0 0 = true

theorem tKeyed_verifies {d : BitVec 256} (hs : tSigned d) {f : Flash} (k : Nat) (r g : BitVec 256) (h : f.owner = tKeys 0xF) (hr : r = 0)
    (hg : g = 0) : f.verifies k d r g = true := by
  unfold Flash.verifies
  rw [tKeyed_ownerKey h (ix 4 k) (by generalize ix 4 k = j; revert j; decide), hr, hg]
  exact hs

/-- The digest of the small stream. -/
def tDigest : BitVec 256 := BitVec.ofNat 256 110200923639086203715212563487734331274931300457877264485328689948090400905897

/-- The small stream with its digest. -/
def tLayoutOctets : List Octet := octets3 (tStream tDigest)

theorem tStream_digest :
    sha256 (List.take (3 * (BitVec.toNat ((wordsOf tLayoutOctets).getD 2 0) - 42)) tLayoutOctets) = tDigest := by decide +kernel

/-- Flash with a valid slot 3, whose octets are the small stream, and a slot 4 without the stream's first word. -/
def tFlash (s : State) : State :=
  { s with flash := { Flash.blank with owner := tKeys 0xF, slots := [(256 + 3, ⟨.valid, tLayoutOctets⟩), (256 + 4, ⟨.valid, [1, 2, 3]⟩)] } }

/-- Entry 0 of the scheduler armed. -/
def tArmed (s : State) : State := s.modTb fun t => { t with sched := vmod t.sched 0 fun e => { e with st := .pending } }

theorem witness_LayoutCommands_passes (hs : tSigned tDigest) : ∃ L, (State.checkSlot 3 (tFlash live)).1 = .inr L := by
  unfold State.checkSlot parseLayout
  dsimp only
  rw [show ((tFlash live).flash.slot 2 3).octets = tLayoutOctets from rfl, tStream_digest, tKeyed_usable _ rfl rfl (by decide),
    tKeyed_verifies hs _ _ _ rfl (by decide +kernel) (by decide +kernel)]
  exact ⟨_, rfl⟩

/-- A device without a layout, its boot and fallback slots set. -/
def tBoot (b f : BitVec 3) : State :=
  let s := tFlash { live with lay := Lay.reset, tb := Timebase.reset }
  { s with flash := { s.flash with bootSlot := b, fallback := f } }

theorem witness_PlaneFaultAndBoot_boot (hs : tSigned tDigest) : ∃ L, ((tBoot 3 4).checkBoot (tBoot 3 4).flash.bootSlot).1 = some L := by
  unfold State.checkBoot parseLayout
  dsimp only
  rw [show ((tBoot 3 4).flash.slot 2 (BitVec.toNat (tBoot 3 4).flash.bootSlot)).octets = tLayoutOctets from rfl, tStream_digest,
    tKeyed_usable _ rfl rfl (by decide), tKeyed_verifies hs _ _ _ rfl (by decide +kernel) (by decide +kernel)]
  exact ⟨_, rfl⟩

theorem witness_PlaneFaultAndBoot_fallback (hs : tSigned tDigest) :
    ((tBoot 4 3).checkBoot (tBoot 4 3).flash.bootSlot).1 = none ∧
    ∃ L, (((tBoot 4 3).checkBoot (tBoot 4 3).flash.bootSlot).2.checkBoot (tBoot 4 3).flash.fallback).1 = some L := by
  refine ⟨rfl, ?_⟩
  rw [show ((tBoot 4 3).checkBoot (tBoot 4 3).flash.bootSlot).2 = (tBoot 4 3).stageRefused 4 ⟨3, 0⟩ from rfl]
  unfold State.checkBoot parseLayout
  dsimp only
  rw [show (((tBoot 4 3).stageRefused 4 ⟨3, 0⟩).flash.slot 2 (BitVec.toNat (tBoot 4 3).flash.fallback)).octets = tLayoutOctets from rfl,
    tStream_digest, tKeyed_usable _ rfl rfl (by decide), tKeyed_verifies hs _ _ _ rfl (by decide +kernel) (by decide +kernel)]
  exact ⟨_, rfl⟩

theorem witness_LayoutCommands :
    let s := tFlash live
    let trial : State := { s with upd := { s.upd with trial := some ⟨⟨0, 0, none, false, [], false, .svp⟩, none⟩ } }
    let valid : State := s.modLay fun l => { l with st := .valid, shadow := some tLayout }
    let d (a b : Word) : Nat := (b ++ a - live.tb.stroke.count : BitVec 40).toNat
    (trial.Takes .svp ∧ trial.upd.trial.isSome = true) ∧
    (s.Takes (.ctx 3) ∧ s.upd.trial = none ∧ s.stageBusy = false ∧ (s.flash.slot 2 7).st ≠ .valid) ∧
    ((tArmed s).Takes .svp ∧ (tArmed s).upd.trial = none ∧ (tArmed s).stageBusy = true ∧ (tArmed s).tb.sched[(0 : Fin 16)].st = .pending) ∧
    (s.checkSlot 4).1 = .inl ⟨3, 0⟩ ∧
    (valid.Takes .svp ∧ valid.upd.trial = none ∧ valid.lay.st = .valid ∧ valid.tb.sched[(0 : Fin 16)].st ≠ .pending) ∧
    (1 ≤ d 1 0 ∧ d 1 0 ≤ 2 ^ 39) ∧ (1 ≤ d 0 0x80000 ∧ d 0 0x80000 ≤ 2 ^ 39) ∧ ¬(1 ≤ d 0 0 ∧ d 0 0 ≤ 2 ^ 39) ∧ ¬(1 ≤ d 1 0x80000 ∧ d 1 0x80000 ≤ 2 ^ 39) ∧
    (trial.activateRefusal = some 19 ∧ s.activateRefusal = some 16 ∧ (tArmed valid).activateRefusal = some 17) ∧
    (let g : Staging := ⟨3, tLayout, some (.svp, 4)⟩
     let w : State := s.modLay fun l => { l with staging := some g }
     w.lay.staging = some g ∧ w.wardenRuns = true ∧ g.reply = some (.svp, 4) ∧ w.upd.wait = none) := by
  unfold State.Takes; refine ⟨?_, ?_, ?_, ?_, ?_, ?_, ?_, ?_, ?_, ?_, ?_⟩ <;> decide

theorem witness_PlaneFaultAndBoot :
    let w : State := live.modLay fun l => { l with staging := some ⟨3, tLayout, some (.svp, 4)⟩ }
    (w.lay.staging = some ⟨3, tLayout, some (.svp, 4)⟩ ∧ w.upd.wait = none) ∧
    ((tArmed live).lay.staging = none ∧ (tArmed live).tb.sched[(0 : Fin 16)].st = .pending) ∧ live.tb.sched[(0 : Fin 16)].st ≠ .pending ∧
    ((tBoot 4 5).wardenRuns = true ∧ (tBoot 4 5).lay.active = none ∧ ((tBoot 4 5).checkBoot (tBoot 4 5).flash.bootSlot).1 = none ∧
      (((tBoot 4 5).checkBoot (tBoot 4 5).flash.bootSlot).2.checkBoot (tBoot 4 5).flash.fallback).1 = none) := by
  refine ⟨?_, ?_, ?_, ?_⟩ <;> decide

/-- A package with an image of three words and the package's own digest. -/
def tPackage : List Octet :=
  octets3 ((List.range 26).map (fun k => if k = 6 then 3 else if k = 7 then 2 else 0) ++ [11, 12, 13] ++ List.replicate 13 0 ++ tPackageWords ++
    List.replicate 26 0)

/-- Hewer 0 loads that package. -/
def tLoads (h : HewerLoad) : State :=
  { live.modHw 0 fun x => { x with st := .loading, load := h } with flash := { Flash.blank with slots := [(128, ⟨.valid, tPackage⟩)] } }

theorem witness_HewerLife_image (l : HewerLoad) : (tLoads l).flash.image (tLoads l).lo 0 = some [11, 12, 13] := by
  show ({ Flash.blank with slots := [(128, ⟨.valid, tPackage⟩)] } : Flash).image tLayout 0 = _
  decide +kernel

theorem witness_HewerLife :
    let st (x : HewerState) := live.modHw 0 fun h => { h with st := x, prev := .running }
    let poor := (st .halted).modAct 0 fun a => { a with cpu := 0 }
    let held : State := { live with sem := vset live.sem 63 ⟨true, false, 0⟩ }
    let l := HewerLoad.idle
    (live.reaches .host = true ∧ live.ctrlResult 0 = 0 ∧ live.hw[(0 : Fin 16)].st = .running ∧ (st .yielded).ctrlResult 0 = 0 ∧ (st .parked).ctrlResult 0 = 0 ∧
      live.hw[(0 : Fin 16)].eng.stall = none) ∧
    (let s := tStalled .slack (.nop (.hewer 0) 0) live
     s.ctrlResult 0 = 0 ∧ s.hw[(0 : Fin 16)].st = .running ∧ ∃ y, s.hw[(0 : Fin 16)].eng.stall = some y ∧ y.kind = .slack) ∧
    ((st .halted).ctrlResult 0 = 0 ∧ (st .halted).hw[(0 : Fin 16)].prev = .running ∧ 0 < (st .halted).sbu.act[(actHewer 0)].cpu) ∧
    (poor.ctrlResult 0 = 0 ∧ poor.hw[(0 : Fin 16)].st = .halted ∧ poor.hw[(0 : Fin 16)].prev = .running ∧ poor.sbu.act[(actHewer 0)].cpu = 0) ∧
    (held.hw[(0 : Fin 16)].cq = [] ∧ held.sem[(63 : Fin 64)].held = true ∧ held.sem[(63 : Fin 64)].owner = BitVec.ofNat 5 0) ∧
    ((st .absent).ctrlResult 0 ≠ 0 ∧ (st .stopped).ctrlResult 0 ≠ 0) ∧
    ((tLoads { l with resetting := true }).hw[(0 : Fin 16)].load.resetting = true ∧ (tLoads { l with resetting := true }).hw[(0 : Fin 16)].load.reload = false ∧
      (tLoads { l with resetting := true, reload := true }).hw[(0 : Fin 16)].load.reload = true ∧
      (tLoads { l with resetting := true }).Before ((tLoads { l with resetting := true }).hw[(0 : Fin 16)].load.resetCyc + 1000)) ∧
    (let s := tLoads { l with pause := some 0 }
     s.hw[(0 : Fin 16)].load.pause = some 0 ∧ s.hw[(0 : Fin 16)].load.loading = false ∧ s.hw[(0 : Fin 16)].st = .loading) ∧
    (let s := tLoads { l with loading := true, pause := some 0 }
     s.hw[(0 : Fin 16)].st = .loading ∧ s.hw[(0 : Fin 16)].load.loading = true ∧ s.hw[(0 : Fin 16)].load.reapply = false ∧ s.lo.bothBanks 0 = false) ∧
    (let s := live.modHw 0 fun h => { h with st := .loading, load := { l with loading := true } }
     s.hw[(0 : Fin 16)].load.loading = true ∧ s.flash.image s.lo 0 = none) ∧
    (live.hw[(0 : Fin 16)].executing = true ∧ live.hw[(0 : Fin 16)].regs.faultAct = false ∧ live.hw[(0 : Fin 16)].cq = []) ∧
    (live.modHw 0 fun h => { h with regs := { h.regs with faultAct := true } }).hw[(0 : Fin 16)].regs.faultAct = true := by
  simp only [before_iff]
  refine ⟨?_, ⟨?_, ?_, _, rfl, rfl⟩, ?_, ?_, ?_, ?_, ?_, ?_, ?_, ?_, ?_, ?_⟩ <;> decide

/-! Ports and the Landing. -/

theorem witness_PortCommands :
    let up : State := live.modPort 2 fun p => { p with link := { p.link with up := true }, freeze := some 77, diag := true }
    let md : State := live.modEth fun e => { e with mdio := { e.mdio with running := some 0x3FFFFFFF } }
    (live.lo.portIf 2 ≠ 0 ∧ live.islandOn (40 + 2) = true ∧ live.eth.port[(2 : Fin 6)].diag = false) ∧
    (live.lo.portIf 2 = 1 ∧ live.islandOn (36 + 2) = true ∧ live.eth.port[(2 : Fin 6)].freeze = none) ∧
    (up.eth.port[(2 : Fin 6)].freeze = some 77 ∧ up.Before 77 ∧ up.eth.port[(2 : Fin 6)].diag = true) ∧
    live.reaches .host = true ∧ live.eth.mdio.running = none ∧ md.eth.mdio.running.isSome = true ∧ md.eth.mdio.running = some 0x3FFFFFFF := by
  simp only [before_iff]
  decide

theorem witness_TableUpkeep :
    let e (st hit : Bool) : LtEntry := ⟨0x123456789ABC, 1, 0xFF, st, hit⟩
    let s (x : Option LtEntry) : State := live.modLnd fun l => { l with table := match x with | none => [] | some y => [(8191, some y)], sweep := 8191 }
    let due := live.lnd.pass + (8191 + 1) * (live.lo.age * 250000000) / 8192
    let fr : State := live.modLnd fun l => { l with frer := [(255, some ⟨1, 2, 1000⟩)] }
    let x : OfcEntry := ⟨⟨false, 0, 0, 0, 0⟩, none, 50, false⟩
    let of : State := { live with grd := { live.grd with ofc := vset live.grd.ofc 63 (some x) } }
    ((s none).lnd.lt (s none).lnd.sweep.toNat = none ∧ (s none).lnd.sweep.toNat = 8191 ∧ (s none).Before due) ∧
    ((s (some (e true false))).lnd.lt 8191 = some (e true false) ∧ (e true false).static = true) ∧
    ((s (some (e false true))).lnd.lt 8191 = some (e false true) ∧ (e false true).static = false ∧ (e false true).hit = true) ∧
    ((s (some (e false false))).lnd.lt 8191 = some (e false false) ∧ (e false false).hit = false ∧ memWf none (s (some (e false false))).lnd.table = true) ∧
    live.reaches .host = true ∧
    (memRead none fr.lnd.frer 255 = some ⟨1, 2, 1000⟩ ∧ fr.Before (1000 + 500000 * fr.lo.resetMs 255) ∧ memWf none fr.lnd.frer = true) ∧
    (of.grd.ofc[(63 : Fin 64)] = some x ∧ of.Before 50) := by
  simp only [before_iff]
  decide

/-- Port 0 is up; the ports' queues have their words, egress has budget. -/
def tUp : State :=
  let q : Layout := { tLayout with sections := tLayout.sections.map fun x =>
    if x.type = 2 then { x with body := x.body ++ (List.range 80).flatMap fun _ => [0x00400, 0x80000] } else x }
  let s := live.modPort 0 fun x => { x with link := { x.link with up := true, speed := 3, full := true } }
  { s with lay := { live.lay with active := some q }, sbu := { live.sbu with egLeft := (List.range 512).map fun k => (k, 1000000) } }

/-- Port 0 receives frame 5, with errors. -/
def tReceives (errs : BitVec 8) (speed : BitVec 3) : State :=
  (tUp.modLnd fun l => { l with frames := [{ tFrame 5 0 none with errs := errs }], nextId := 6 }).modPort 0 fun x =>
    { x with rx := [5], link := { x.link with speed := speed } }

/-- Port 0 sends a frame. -/
def tSends (x : TxActive) (f : Frame) (full : Bool) : State :=
  (tUp.modLnd fun l => { l with frames := [f], nextId := 6 }).modPort 0 fun y => { y with tx := some x, link := { y.link with full := full } }

theorem witness_FramesThroughTheLanding_ingress :
    let full : State := tUp.modLnd fun l => { l with frames := List.replicate 8192 (tFrame 3 2 none) }
    let bare : State := tUp.modPort 0 fun x => { x with rx := [9], bare := [(9, 0)] }
    let os (n : Nat) : List Octet := List.replicate n 0
    let got (errs : BitVec 8) (speed : BitVec 3) : Prop :=
      let s := tReceives errs speed
      ∃ f, s.lnd.frames = [f] ∧ s.eth.port[(0 : Fin 6)].rx = [f.id] ∧ s.eth.port[(0 : Fin 6)].bare = [] ∧ f.verdict = none ∧ f.decided = true ∧
        f.wait = .none ∧ f.uncounted = false ∧ f.refused = false ∧ f.mirrorRefused = false ∧ (f.octets.length + f.fcs.length + 127) / 128 ≤ f.chain.length ∧
        (∀ q : Fin 6, s.eth.port[q].tx = none) ∧ f.rxLen ≥ 64 ∧ f.errs = errs ∧ f.macDrop = none ∧ f.onGood = []
    (tUp.eth.port[(0 : Fin 6)].link.up = true ∧ tUp.landingOn = true ∧ tUp.islandOn (40 + 0) = true ∧ os 1 ≠ [] ∧ 8192 ≤ full.lnd.frames.length) ∧
    (64 ≤ (os 64).length ∧ (os 64).length ≤ tUp.lo.maxLen 0 ∧ (os 1518).length ≤ tUp.lo.maxLen 0 ∧ tUp.lnd.frames.length < 8192 ∧
      (∀ f ∈ tUp.lnd.frames, f.id < tUp.lnd.nextId) ∧ ((os 1518).length - 4 + 127) / 128 ≤ tUp.freeCells) ∧
    (bare.eth.port[(0 : Fin 6)].rx = 9 :: [] ∧ bare.eth.port[(0 : Fin 6)].bare.find? (fun b => b.1 == 9) = some (9, 0)) ∧
    got 0 3 ∧ got 0 2 ∧ got 0x08 3 ∧ got 0x80 3 ∧ got 0x02 3 := by
  refine ⟨⟨by decide, by decide, by decide, by decide, Nat.le_of_eq List.length_replicate.symm⟩, ⟨by decide, by decide +kernel, by decide +kernel, by decide, by decide, by decide +kernel⟩,
    by decide, ⟨_, rfl, ?_⟩, ⟨_, rfl, ?_⟩, ⟨_, rfl, ?_⟩, ⟨_, rfl, ?_⟩, ⟨_, rfl, ?_⟩⟩ <;> decide

/-- The head that each class of port 0 offers, and what the port picks of them. -/
def tPicks (s : State) : Option (Fin 8) × State :=
  let c := s.candidates 0
  c.2.pick (⟨0, by decide⟩ : SwPort) fun t => (c.1.getD t.val none).map fun f => if f.eof = true ∨ f.src < 6 then f.wireLen else s.lo.maxLen 0

theorem witness_FramesThroughTheLanding_egress :
    let waits : State := tQueued (portQ 0 7) (tFrame 5 2 (some 1)) tUp
    let again : State := waits.modPort 0 fun x => { x with retry := [(4, 1), (5, 3)] }
    let gap : State := tUp.modPort 0 fun x => { x with gap := 1 }
    (tUp.macOn 0 = true ∧ tUp.eth.port[(0 : Fin 6)].tx = none ∧ tUp.eth.port[(0 : Fin 6)].gap ≤ tUp.tb.clk.cycles ∧ tUp.eth.port[(0 : Fin 6)].retry = [] ∧
      (tPicks tUp).1 = none) ∧
    (gap.macOn 0 = true ∧ gap.eth.port[(0 : Fin 6)].tx = none ∧ gap.tb.clk.cycles < gap.eth.port[(0 : Fin 6)].gap) ∧
    (waits.macOn 0 = true ∧ waits.eth.port[(0 : Fin 6)].tx = none ∧ waits.eth.port[(0 : Fin 6)].gap ≤ waits.tb.clk.cycles ∧
      waits.eth.port[(0 : Fin 6)].retry = [] ∧ (tPicks waits).1 = some 7 ∧ (waits.candidates 0).1.getD 7 none = some (tFrame 5 2 (some 1))) ∧
    (again.macOn 0 = true ∧ again.eth.port[(0 : Fin 6)].tx = none ∧ again.retryHead 0 = some (tFrame 5 2 (some 1), 7, 3) ∧
      again.retryGoes 0 (tFrame 5 2 (some 1)) 7 = true) ∧
    (let ends (x : TxActive) (f : Frame) : Prop :=
       let s := tSends x f true
       s.eth.port[(0 : Fin 6)].tx = some x ∧ s.frame? x.frame = some f ∧ f.eof = true ∧ f.bound = none ∧ f.desc = none ∧ f.tsTap = none ∧
         oneStepAt s.lo 0 f = none ∧ clockedAt s.lo 0 f = none ∧ f.wireLen ≤ s.lo.maxLen 0
     ends ⟨5, 3, 70, none, false, 0, none⟩ (tFrame 5 2 (some 1)) ∧ (tFrame 5 2 (some 1)).verdict.isSome = true ∧
       ends ⟨5, 3, 70, none, false, 0, none⟩ (tFrame 5 2 none) ∧ (tFrame 5 2 none).src < 6 ∧ ends ⟨5, 3, 70, some 20, false, 0, none⟩ (tFrame 5 2 none)) ∧
    (let s (n : Nat) := tSends ⟨5, 3, 70, none, false, n, none⟩ (tFrame 5 2 none) false
     (s 14).eth.port[(0 : Fin 6)].tx = some ⟨5, 3, 70, none, false, 14, none⟩ ∧ (s 14).eth.port[(0 : Fin 6)].link.full = false ∧ 14 < 15 ∧
       (s 15).eth.port[(0 : Fin 6)].tx = some ⟨5, 3, 70, none, false, 15, none⟩) := by
  refine ⟨by decide +kernel, by decide, by decide +kernel, by decide +kernel, by decide, by decide⟩

theorem witness_FramesThroughTheLanding_gates :
    ∃ g gs, live.lo.gates 0 = g :: gs ∧
      let k := (live.lnd.entry[(0 : Fin 6)]).toNat + 1
      let n := gs.length + 1
      let e := if k < n then k else 0
      let c := if k < n then live.lnd.cycle[(0 : Fin 6)] else live.lnd.cycle[(0 : Fin 6)] + 1
      live.InStroke (live.tb.stroke.cyc0 + 4 * (c * live.lo.gateCycle 0 + ((g :: gs)[e]?.elim 0 (·.start)))) := by
  refine ⟨_, _, rfl, ?_⟩
  simp only [inStroke_iff]
  decide

/-! CAN. -/

/-- CAN_0 of Hewer 0 on its bus, with words in its message RAM. -/
def tCan (ram : Mem Word) (f : Can → Can) : State :=
  ({ live with loft := ram.map fun (x : Nat × Word) => (0x78000 + x.1, x.2) } : State).modCan 0 fun x => f { x with mode := 1, joined := true }

/-- Header of a buffer: TXS, DIR and flags, DLC 8 with data at 700. -/
def tBuf (b txs : Nat) (h1 : Word) : Mem Word := [(12 * b, BitVec.ofNat 20 (1024 * txs)), (12 * b + 1, h1), (12 * b + 2, 4), (12 * b + 5, 8)]

/-- A classic frame with identifier 5. -/
def tCanFrame (data : List Word) : CanFrame :=
  { ident := 5, ide := false, rtr := false, fdf := false, xlf := false, brs := false, esi := false, len := 8, xl := 0, data := data }

theorem witness_CanTransmission :
    let own (s : State) : Prop := s.heard (.hewer 0) (48 + (0 : Fin 4).val / 2) = true ∧ agentCode (.hewer 0) = s.lo.canOwnerCode 0
    let dir (s : State) (b : Fin 128) := (s.canHdr 0 b 1).extractLsb' 18 2
    let txs (s : State) (b : Fin 128) := (s.canHdr 0 b 0).extractLsb' 10 3
    let s (t : Nat) (h1 : Word) : State := tCan (tBuf 127 t h1) id
    let act : CanTx := ⟨127, tCanFrame [], 5, false, false⟩
    own (s 0 0x80700) ∧ (dir (s 0 0x40700) 127 ≠ 2) ∧ (dir (s 1 0x80700) 127 = 2 ∧ txs (s 1 0x80700) 127 = 1) ∧ txs (s 4 0x80700) 127 = 4 ∧
    txs (s 2 0x80700) 127 = 2 ∧
    (dir (s 0 0xA0700) 127 = 2 ∧ txs (s 0 0xA0700) 127 = 0 ∧ ((s 0 0xA0700).canHdr 0 127 1).getLsbD 17 = true ∧ (s 0 0xA0700).can[(0 : Fin 4)].mode.getLsbD 8 = false) ∧
    (s 0 0x806FF).requestResult 0 127 = 4 ∧ (s 0 0x80700).requestResult 0 127 = 0 ∧
    ((0x0007F : Word).getLsbD 8 = false ∧ (0x0007F : Word).toNat % 128 = 127 ∧ (0x00103 : Word).getLsbD 8 = true ∧ (0x00103 : Word).toNat % 4 = 3) ∧
    (live.heard .warden 48 = true ∧ agentCode .warden ≠ live.lo.canOwnerCode 0) ∧
    ((s 1 0x80700).canBus 0 = true ∧ (s 1 0x80700).can[(0 : Fin 4)].tx = none ∧ (s 1 0x80700).can[(0 : Fin 4)].op = 1 ∧ (s 1 0x80700).arbWinner 0 = some 127) ∧
    (let s := tCan (tBuf 127 2 0x80700) fun x => { x with tx := some act }
     s.can[(0 : Fin 4)].tx = some act ∧ s.canOn 0 = true ∧ own s ∧ txs s 127 = 2 ∧ s.can[(0 : Fin 4)].looped = false) ∧
    (let s := tCan (tBuf 127 2 0x80700) fun x => { x with tx := some act, mode := 4 }
     s.can[(0 : Fin 4)].tx = some act ∧ s.canOn 0 = true ∧ s.can[(0 : Fin 4)].looped = true) ∧
    (let m (t : Nat) (h1 : Word) := tCan (tBuf 127 t h1) fun x => { x with mode := 0x101 }
     ((m 1 0xA0700).canOn 0 = true ∧ (m 1 0xA0700).isAt 0 127 = true ∧ (m 1 0xA0700).tb.stroke.running = true ∧ (m 1 0xA0700).canDir 0 127 = 2 ∧
       (m 1 0xA0700).txs 0 127 = 1 ∧ ((m 1 0xA0700).canHdr 0 127 1).getLsbD 16 = false ∧ ((m 1 0xB0700).canHdr 0 127 1).getLsbD 16 = true) ∧
     ((m 4 0xA0700).txs 0 127 = 4 ∧ memRead none (m 1 0xA0700).can[(0 : Fin 4)].missed 127 ≠ some (m 1 0xA0700).tb.stroke.count ∧ memRead none (m 4 0xA0700).can[(0 : Fin 4)].missed 127 ≠ some (m 4 0xA0700).tb.stroke.count)) := by
  refine ⟨?_, ?_, ?_, ?_, ?_, ?_, ?_, ?_, ?_, ?_, ?_, ?_, ?_, ?_⟩ <;> decide

theorem witness_CanReceptionAndModes :
    let f := tCanFrame [1, 2, 3, 4]
    let dest (b : Nat) : Mem Word := [(0x600, BitVec.ofNat 20 (2 ^ 19 + 64 * b)), (0x601, 5), (0x603, 0x3FFFF)]
    let hpm : Mem Word := [(0x600, 0x9C000), (0x601, 5), (0x603, 0x3FFFF)]
    let buf (h1 : Word) := tCan (tBuf 127 0 h1 ++ dest 127) id
    let on (s : State) : Prop := s.canBus 0 = true ∧ s.can[(0 : Fin 4)].looped = false ∧ (f.fdf = true → s.can[(0 : Fin 4)].mode.getLsbD 4 = true) ∧ (f.xlf = true → s.can[(0 : Fin 4)].mode.getLsbD 5 = true)
    (on live ∨ on (tCan [] id)) ∧ (tCan [] id).canTarget 0 f = .discard ∧
    (let s := buf 0x40700
     on s ∧ s.canTarget 0 f = .buffer 127 (some 0) ∧ s.canDir 0 127 = 1 ∧ s.usable 0 127 = true ∧ (canData f).length ≤ s.dataWords 0 127 ∧
       (s.canHdr 0 127 0).getLsbD 19 = false) ∧
    (let s := buf 0x80700
     on s ∧ s.canTarget 0 f = .buffer 127 (some 0) ∧ s.canDir 0 127 ≠ 1) ∧
    (let s := tCan hpm fun x => { x with hpm := Vector.replicate 4 (Vector.replicate 44 0) }
     on s ∧ s.canTarget 0 f = .hpm 3 0 ∧ s.can[(0 : Fin 4)].hpm[(3 : Fin 4)][0].getLsbD 19 = false ∧ (canData f).length ≤ 32) ∧
    (let s := tCan (tBuf 127 2 0x80700) fun x => { x with tx := some ⟨127, tCanFrame [], 5, false, false⟩ }
     s.canBus 0 = true ∧ s.can[(0 : Fin 4)].op ≠ 2 ∧ s.can[(0 : Fin 4)].tx = some ⟨127, tCanFrame [], 5, false, false⟩) ∧
    (let s := tCan [] fun x => { x with st := .busOff }
     s.heard (.hewer 0) 48 = true ∧ agentCode (.hewer 0) = s.lo.canOwnerCode 0 ∧ s.can[(0 : Fin 4)].st = .busOff) ∧
    (let s := tCan [] fun x => { x with mode := 0, nbtA := 0x27F, nbtB := 0x1F2F, st := .recovering }
     s.can[(0 : Fin 4)].op = 0 ∧ s.can[(0 : Fin 4)].badTiming 0 = false ∧ (tCan [] fun x => { x with mode := 0, nbtA := 0, nbtB := 0 }).can[(0 : Fin 4)].badTiming 0 = true ∧
       s.canOn 0 = true ∧ s.can[(0 : Fin 4)].st = .recovering) ∧ (tCan [] id).can[(0 : Fin 4)].op ≠ 0 := by
  refine ⟨?_, ?_, ?_, ?_, ?_, ?_, ?_, ?_, ?_⟩ <;> decide

/-! Two-wire bus. -/

/-- TWB_0 changed. -/
def tTwb (f : Twb → Twb) : State := live.modTwb 0 f

/-- A descriptor of `n` octets. -/
def tDesc (rd pec stop : Bool) (n : BitVec 8) : TwbDesc := ⟨rd, false, 0x50, pec, stop, n⟩

theorem witness_TwoWireTransfers :
    let own (s : State) : Prop := s.heard (.hewer 0) 50 = true ∧ s.lo.twbOwnerCode 0 = agentCode (.hewer 0)
    let q (n : Nat) := tTwb fun x => { x with queue := List.replicate n (tDesc false false true 2) }
    let octets (n : Nat) : List Octet := List.replicate n 7
    let at_ (r : TwbRole) (d : List TwbDesc) := tTwb fun x => { x with role := r, queue := d, txd := [1, 2, 3] }
    own live ∧ ((q 3).twb[(0 : Fin 3)].queue.length < 4 ∧ 4 ≤ (q 4).twb[(0 : Fin 3)].queue.length) ∧
    ((tTwb fun x => { x with txd := octets 31 }).twb[(0 : Fin 3)].txd.length < 32 ∧ 32 ≤ (tTwb fun x => { x with txd := octets 32 }).twb[(0 : Fin 3)].txd.length ∧
      live.twb[(0 : Fin 3)].stretch = none) ∧
    ((tTwb fun x => { x with rxd := [5] }).twb[(0 : Fin 3)].rxd = 5 :: [] ∧ live.twb[(0 : Fin 3)].rxd = [] ∧ live.twb[(0 : Fin 3)].role = .idle) ∧
    (live.heard .warden 50 = true ∧ live.lo.twbOwnerCode 0 ≠ agentCode .warden) ∧
    (let x := (q 1).twb[(0 : Fin 3)]
     (q 1).twbOn = true ∧ x.role = .idle ∧ x.recover = false ∧ x.res.queue.length < 8 ∧ x.attnGo = false ∧ x.queue = tDesc false false true 2 :: []) ∧
    (let x := (tTwb fun x => { x with attnGo := true }).twb[(0 : Fin 3)]
     x.role = .idle ∧ x.recover = false ∧ x.res.queue.length < 8 ∧ x.attnGo = true ∧ x.holds = false) ∧
    (let d := tDesc false false true 2
     let x := (at_ (.controller false) [d]).twb[(0 : Fin 3)]
     x.role = .controller false ∧ x.stretch = none ∧ x.ending = false ∧ x.queue = d :: [] ∧ d.rd = false ∧ d.len.toNat ≤ x.txd.length ∧ 2 ≤ d.len.toNat ∧ d.stop = true) ∧
    (let d := tDesc true false false 31
     let x := (at_ (.controller false) [d]).twb[(0 : Fin 3)]
     d.rd = true ∧ d.pec = false ∧ (octets 31).length = d.len.toNat ∧ x.rxd.length + (octets 31).length ≤ 32) ∧
    (let d := tDesc true true true 1
     let x := (at_ (.controller false) [d]).twb[(0 : Fin 3)]
     d.rd = true ∧ d.pec = true ∧ (octets 1).length = d.len.toNat ∧ x.rxd.length + (octets 1).length ≤ 32 ∧ (0xFF : Octet) ≠ pec x.crc (octets 1)) ∧
    (let x := (tTwb fun x => { x with role := .controller true, cfg := 0x7FF }).twb[(0 : Fin 3)]
     x.role = .controller true ∧ x.losses < x.retryMax) ∧
    (let d := tDesc false false true 2
     let x := (tTwb fun x => { x with role := .controller false, cfg := 0, queue := [d] }).twb[(0 : Fin 3)]
     x.role = .controller false ∧ x.retryMax ≤ x.losses ∧ x.ending = false ∧ x.queue = [d]) ∧
    (let s := (tTwb fun x => { x with holds := true }).modTb fun t => { t with stroke := { t.stroke with ends := none } }
     let x := s.twb[(0 : Fin 3)]
     s.twbOn = true ∧ x.holds = true ∧ x.role = .idle ∧ x.queue = [] ∧ s.Before (x.holdCyc + 500000)) ∧
    (let d := tDesc false false true 2
     let x := (tTwb fun x => { x with role := .controller false, cfg := 0x7FF, queue := [d] }).twb[(0 : Fin 3)]
     x.timeoutEn = true ∧ x.role = .controller false ∧ x.ending = false ∧ x.stretch = none ∧ x.queue = [d]) ∧
    (tTwb fun x => { x with role := .target }).twb[(0 : Fin 3)].role = .target ∧
    (live.twb[(0 : Fin 3)].role = .idle ∧ live.twb[(0 : Fin 3)].holds = false) ∧
    (let x := (tTwb fun x => { x with recover := true }).twb[(0 : Fin 3)]
     x.recover = true ∧ x.queue = []) ∧
    (let x := (tTwb fun x => { x with recover := true, queue := [tDesc false false true 2] }).twb[(0 : Fin 3)]
     x.recover = true ∧ x.queue = [tDesc false false true 2]) := by
  simp only [before_iff]
  refine ⟨?_, ?_, ?_, ?_, ?_, ?_, ?_, ?_, ?_, ?_, ?_, ?_, ?_, ?_, ?_, ?_, ?_, ?_⟩ <;> decide

theorem witness_TwoWireTargets :
    let octets (n : Nat) : List Octet := List.replicate n 7
    let t (f : Twb → Twb) := tTwb fun x => f { x with cfg := 0x7FF, taddr := #v[0x1050, 0x1C51] }
    (let x := (t fun x => { x with ttx := octets 5 }).twb[(0 : Fin 3)]
     (t id).twbOn = true ∧ x.targetEn = true ∧ x.role = .idle ∧ x.stretch = none ∧ (∃ i, x.slotOf false 0x50 = some i) ∧ x.alertLow = false ∧
       twbSlotPec x.taddr[(0 : Fin 2)] = false ∧ x.trx.length + ((1 : Octet) :: octets 31).length ≤ 32 ∧ 5 ≤ x.ttx.length ∧ x.ttx.length < 6) ∧
    (let x := (t fun x => { x with alertLow := true }).twb[(0 : Fin 3)]
     x.targetEn = true ∧ x.role = .idle ∧ x.stretch = none ∧ x.alertLow = true) ∧
    (let x := (t fun x => { x with role := .target, stretch := some (.targetRead 2) }).twb[(0 : Fin 3)]
     x.timeoutEn = true ∧ x.role = .target ∧ x.stretch.isSome = true) ∧
    (live.lo.pinOf 3 0 2).isSome = true ∧
    (let x := (t fun x => { x with attnRxa := 0x110, attn := List.replicate 3 (true, [1]) }).twb[(0 : Fin 3)]
     x.attnRxa.getLsbD 8 = true ∧ x.attnRxa.getLsbD 7 = false ∧ x.role = .idle ∧ x.stretch = none ∧ x.attn.length < 4 ∧ 1 ≤ (octets 4).length ∧ (octets 4).length ≤ 4) ∧
    (let x := (t fun x => { x with attnRxa := 0x190 }).twb[(0 : Fin 3)]
     x.attnRxa.getLsbD 8 = true ∧ x.attnRxa.getLsbD 7 = true ∧ x.attn.length < 4 ∧ 1 ≤ (octets 1).length ∧
       (0 : Octet) ≠ pec (pec 0 (addressOctets false false false ((x.attnRxa.setWidth 7).setWidth 10))) (octets 1)) ∧
    (let s := tTwb fun x => { x with ttx := octets 31, trx := [5], attn := [(true, octets 4)] }
     let x := s.twb[(0 : Fin 3)]
     s.heard (.hewer 0) 50 = true ∧ s.lo.twbOwnerCode 0 = agentCode (.hewer 0) ∧ x.stretch = none ∧ x.ttx.length < 32 ∧ x.trx = 5 :: [] ∧
       x.attn = (true, octets 4) :: [] ∧ (octets 4).length ≤ 4 ∧ 1 ≤ (octets 4).length) ∧
    (live.twb[(0 : Fin 3)].trx = [] ∧ live.twb[(0 : Fin 3)].attn = []) := by
  refine ⟨⟨by decide, by decide, by decide, by decide, ⟨_, rfl⟩, by decide⟩, ?_, ?_, ?_, ?_, ?_, ?_, ?_⟩ <;> decide

/-! The host. -/

/-- A host interface selected and released. -/
def tHost (sel : BitVec 2) (f : HostIf → HostIf) : State := { live with host := f { live.host with hsel := sel, resetting := false, linkWait := false } }

theorem witness_RegisterAccesses :
    (live.reaches .host = true ∧ live.reaches .warden = true ∧ live.islandOn 54 = true) ∧ agentCode .warden ≠ live.lo.owner ∧
    (0xFFF < 0x1000 ∧ 0x2000 ≤ 0x1FFFF ∧ 0x1FFFF < 0x20000) := by decide

theorem witness_HostInterfaces :
    let w (a : BitVec 17) (be : BitVec 2) : ParWrite := { addr := a, data := 5, be := be }
    ((tHost 1 id).busSelected 1 = true ∧ (tHost 1 id).host.resetting = false ∧ (0x35 : Octet) ≠ 0x05 ∧ (0x35 : Octet) ≠ 0x0B ∧ (0x35 : Octet) ≠ 0x02) ∧
    ((tHost 2 id).busSelected 2 = true ∧ (tHost 2 id).host.resetting = false ∧ (tHost 2 id).host.wbuf = [] ∧ (0xFFFE : BitVec 17).toNat < 0x10000 ∧
      (0xFFFE : BitVec 17).toNat % 4 = 2) ∧
    (let s := tHost 2 fun h => { h with wbuf := List.replicate 8 (w 0x10 3) }
     (tHost 2 fun h => { h with wbuf := List.replicate 7 (w 0x10 3) }).host.wbuf.length < 8 ∧ s.busSelected 2 = true ∧
       s.host.wbuf = w 0x10 3 :: List.replicate 7 (w 0x10 3) ∧ 8 ≤ s.host.wbuf.length ∧ s.drainOne.host.wbuf = List.replicate 7 (w 0x10 3)) ∧
    (let s := tHost 2 fun h => { h with wbuf := [w 0xFFFF 1] }
     s.host.wbuf = w 0xFFFF 1 :: [] ∧ (w 0xFFFF 1).addr.toNat < 0x10000 ∧ (w 0xFFFF 1).be ≠ 3 ∧ (w 0xFFFF 1).be ≠ 0) ∧
    (let s := tHost 2 fun h => { h with wbuf := [w 0x12 3], heldLow := some (0x10, 0x10, 7) }
     s.host.wbuf = w 0x12 3 :: [] ∧ (w 0x12 3).addr = 0x12 ∧ (w 0x12 3).be = 3 ∧ s.host.heldLow = some (0x10, 0x10, 7) ∧ s.hostLets = true) ∧
    ((tHost 0 id).hostWorks = true ∧ (tHost 0 id).loftOn 0x7FFFF = true) := by
  decide

theorem witness_DmaAndHostReset :
    let tx (f : Dma → Dma) (held : Bool) : State := (tHost 0 id).modDma 0 fun d => f { d with en := true, dir := false, ring := 4, tail := 1, held := held }
    let poor (s : State) : State := s.modAct (actDma 0) fun x => { x with dma := 99 }
    let len (v : BitVec 32) := v.toNat % 2 ^ 17
    let f := tFrame 5 2 (some 1)
    let rx : State := tQueued (portQ 6 0) f ((tHost 0 id).modDma 0 fun d => { d with en := true, dir := true, ring := 4, tail := 1 })
    ((tx id false).dmaOn 0 false = true ∧ (0 : BitVec 32).getLsbD 31 = false) ∧
    ((0x80000000#32).getLsbD 31 = true ∧ (0x80000000#32).getLsbD 20 = false ∧ len 0x8000000D < 14 ∧ 9212 < len 0x800023FD) ∧
    (14 ≤ len 0x80000640 ∧ len 0x80000640 ≤ 9212 ∧ ((tx id false).lo.dma 20).toNat < len 0x80000640) ∧
    (len 0x80000064 ≤ ((tx id false).lo.dma 20).toNat ∧ (poor (tx id false)).sbu.act[(actDma 0)].dma < len 0x80000064 ∧ (tx id false).host.dma[(0 : Fin 8)].held = false) ∧
    (14 ≤ len 0x8000000E ∧ len 0x800005DC ≤ (tx id false).sbu.act[(actDma 0)].dma ∧ len 0x800005DC ≤ ((tx id false).lo.dma 20).toNat ∧ (tx id false).landingOn = true ∧
      (tx id false).lnd.frames.length < 8192) ∧
    (rx.dmaOn 0 true = true ∧ rx.hostHead 0 = some f ∧ f.good = true ∧ f.wait = .none ∧ f.src < 8 ∧ f.octets.length < 2 ^ 17) ∧
    (len 0x8000003B < f.octets.length ∧ f.octets.length ≤ len 0x8000003C ∧ f.octets.length ≤ (rx.lo.dma 20).toNat ∧ f.octets.length ≤ rx.sbu.act[(actDma 0)].dma) ∧
    ((tx id false).host.hsel = 0 ∧ (tx id false).host.dma[(0 : Fin 8)].en = true ∧ (tx id false).hostLets = true ∧ (tHost 0 id).host.dma[(0 : Fin 8)].en = false ∧
      (tHost 0 id).host.dma[(0 : Fin 8)].busy = false) ∧
    ((tHost 3 id).hostLets = true ∨ (tHost 0 id).hostLets = true) ∧
    ((tHost 0 fun h => { h with resetting := true }).host.resetting = true ∧ (tHost 0 fun h => { h with resetting := true }).host.linkWait = false) := by
  refine ⟨?_, ?_, ?_, ?_, ?_, ?_, ?_, ?_, ?_, ?_⟩ <;> decide

/-- A received frame larger than the channel's budget. -/
theorem witness_DmaAndHostReset_overBudget :
    let f : Frame := { tFrame 5 2 (some 1) with octets := List.replicate 1501 0 }
    let rx : State := tQueued (portQ 6 0) f ((tHost 0 id).modDma 0 fun d => { d with en := true, dir := true, ring := 4, tail := 1 })
    rx.hostHead 0 = some f ∧ f.octets.length ≤ (0x800005DD : BitVec 32).toNat % 2 ^ 17 ∧ (rx.lo.dma 20).toNat < f.octets.length := by
  refine ⟨rfl, ?_, ?_⟩ <;> decide +kernel

/-! Chutes and events. -/

/-- A channel in a state. -/
def tChan (c : Fin 168) (st : ChuteState) (s : State) : State :=
  { s with chu := { s.chu with chan := vset s.chu.chan c { s.chu.chan[c] with st := st } } }

theorem witness_Chutes :
    let gone := live.modHw 0 fun h => { h with st := .faulted }
    let routed : State := { tChan 8 .full live with evt := { live.evt with route := vset live.evt.route 110 { live.evt.route[(110 : EventId)] with pins := 15, msix := 0xFFFFFFFF, wdn := 0xFFFFFFFF } } }
    let costly := routed.modAct (actHewer 0) fun x => { x with events := 0 }
    (live.chuteOpen (.ctx 0) = true ∧ ChuteEnd.ctx 0 = chanSender 8 ∧ chanReceiver 8 = .hewer 0 ∧ live.chu.chan[(8 : Fin 168)].st ≠ .full ∧
      (tChan 8 .full live).chu.chan[(8 : Fin 168)].st = .full ∧ live.chu.chan[(8 : Fin 168)].st = .empty ∧ 1 ≤ (16 : BitVec 5).toNat ∧ (16 : BitVec 5).toNat ≤ 16 ∧
      live.available (.hewer 0) = true ∧ gone.available (.hewer 0) = false ∧ 16 < (17 : BitVec 5).toNat ∧
      (tChan 8 .aborted live).chu.chan[(8 : Fin 168)].st = .aborted) ∧
    (live.chuteOpen (.hewer 0) = true ∧ ChuteEnd.hewer 0 = chanSender 72 ∧ chanReceiver 72 = .ctx 0 ∧ live.available (.ctx 0) = true) ∧
    (live.chuteOpen .warden = true ∧ ChuteEnd.warden = chanReceiver 0 ∧ chanSender 0 = .ctx 0 ∧ (tChan 0 .full live).chu.chan[(0 : Fin 168)].st = .full) ∧
    (ChuteEnd.hewer 0 = chanReceiver 8 ∧ (tChan 8 .full live).freedCost 8 ≤ (tChan 8 .full live).sbu.act[(actHewer 0)].events ∧
      (∀ y ∈ (tChan 8 .full live).sbu.heldq, y.act ≠ actHewer 0) ∧ costly.sbu.act[(actHewer 0)].events < costly.freedCost 8) ∧
    (ChuteEnd.warden ≠ chanSender 8 ∧ ChuteEnd.warden ≠ chanReceiver 8) := by
  refine ⟨?_, ?_, ?_, ?_, ?_⟩ <;> decide

theorem witness_EventRouter :
    let s := tHost 0 fun h => { h with pba := 0x80000000, msix := Vector.replicate 32 { addr := 0, data := 0, mask := false } }
    let masked := tHost 0 fun h => { h with pba := 0x80000000, msix := Vector.replicate 32 { addr := 0, data := 0, mask := true } }
    (s.awake = true ∧ s.hostLets = true ∧ Agent.host ≠ .warden) ∧
    (s.host.hsel = 0 ∧ s.host.resetting = false ∧ s.host.d3 = false ∧ s.host.pba.getLsbD 31 = true ∧ s.host.msix[(31 : Fin 32)].mask = false) ∧
    (s.host.pba.getLsbD 30 = false ∧ masked.host.msix[(31 : Fin 32)].mask = true) := by decide

/-! The Warden. -/

theorem witness_ManagementCommands :
    let rec1 := logWords 100 3 5 7 1 [1, 2, 3]
    let logs : State := { live with flash := { live.flash with log := [(3, rec1)] } }
    let claims (w h : BitVec 56) : State := { live with sec := { live.sec with claim := h, wclaim := w } }
    let alone : State := { live with wdn := { live.wdn with session := false } }
    let busy : State := { live with wdn := { live.wdn with relq := [.response (.ctx 0) [1]] } }
    (live.Takes .svp ∧ live.Takes (.ctx 3)) ∧ (tChan (wardenIn 0) .full live).chu.chan[(wardenIn 0)].st = .full ∧
    (logs.flash.logFind 100 = some rec1 ∧ logs.flash.logFind 0xFFFFF = none) ∧ (0x71 : BitVec 12).toNat > 0x70 ∧
    ((55 : BitVec 6).toNat ≤ 55 ∧ 55 < (56 : BitVec 6).toNat) ∧
    ((claims 0 (BitVec.allOnes 56)).sec.wclaim.getLsbD 55 = false ∧ (claims 0 (BitVec.allOnes 56)).sec.claim.getLsbD 55 = true) ∧
    ((claims (BitVec.allOnes 56) 0).sec.wclaim.getLsbD 55 = true ∧ (claims 0 0).sec.claim.getLsbD 55 = false) ∧
    (alone.takesCommand .svp = true ∧ alone.wdn.session = false) ∧ busy.wdn.answering (.ctx 0) = true := by
  unfold State.Takes; refine ⟨?_, ?_, ?_, ?_, ?_, ?_, ?_, ?_, ?_⟩ <;> decide

/-- A release queue. -/
def tQueue (q : List REntry) (s : State) : State := { s with wdn := { s.wdn with relq := q } }

theorem witness_FlashAndReleaseQueue :
    let op : State := { live with wdn := { live.wdn with fcmd := some (.program 0x1FFFFFF [1]) } }
    let s (e : REntry) : State := tQueue [e, .mark] live
    let waits : State := { s (.mark) with wdn := { (s .mark).wdn with relWait := true } }
    let poor (e : REntry) : State := (s e).modAct actWarden fun x => { x with loft := 0 }
    let gone (e : REntry) : State := { s e with host := { live.host with hsel := 3 } }
    (live.wardenRuns = true ∧ live.wdn.fcmd = none ∧ op.wdn.fcmd.isSome = true ∧ op.wdn.fcmd = some (.program 0x1FFFFFF [1])) ∧
    ((s (.write (.word 0xF0026) 1)).wdn.relq = .write (.word 0xF0026) 1 :: [.mark] ∧ (REntry.free 3) ≠ .mark ∧ REntry.free 3 ≠ .write (.word 0xF0026) 1) ∧
    ((s (.response .svp [0x12002, 0])).awake = true ∧ (s (.response .svp [0x12002, 0])).wdn.relWait = false ∧ (s (.response .svp [0x12002, 0])).wdn.relq = .response .svp [0x12002, 0] :: [.mark] ∧
      REntry.mark ∈ [REntry.mark] ∧ ((0x12002 : Word).toNat % 4096 = 2)) ∧
    (let q := s (.response (.ctx 3) (List.replicate 16 1))
     q.chu.chan[(wardenOut 3)].st = .empty ∧ 1 ≤ (List.replicate 16 (1 : Word)).length ∧ (List.replicate 16 (1 : Word)).length ≤ 16 ∧ q.available (.ctx 3) = true) ∧
    ((gone (.response (.ctx 3) [1])).chu.chan[(wardenOut 3)].st = .empty ∧ (gone (.response (.ctx 3) [1])).available (.ctx 3) = false) ∧
    (tChan (wardenIn 3) .full (s (.free 3))).chu.chan[(wardenIn 3)].st = .full ∧
    ((s (.log 3 5 77 2 (List.replicate 7 1))).flash.record < 84 ∧ (List.replicate 7 (1 : Word)).length ≤ 7) ∧
    (let q := s (.write (.word (BitVec.ofNat 20 (0x30000 + 0x7FFFF))) 5)
     0x7FFFF < 0x80000 ∧ q.loftHeld 0x7FFFF = false ∧ q.loftOn 0x7FFFF = true ∧ 0 < q.sbu.act[(actWarden)].loft ∧
       ((poor (.write (.word (BitVec.ofNat 20 (0x30000 + 0x7FFFF))) 5)).beat actWarden .loft).granted = false) ∧
    (REntry.mark ∉ live.wdn.relq ∧ waits.wdn.relWait = true) := by
  refine ⟨?_, ?_, ?_, ?_, ?_, ?_, ?_, ?_, ?_⟩ <;> decide

theorem witness_ManagementRestarts :
    let s (n : Nat) (age : Bool) (j : List JEntry) : State :=
      { live with wdn := { live.wdn with ageOn := age, age := 2500000, journal := j, restart := { live.wdn.restart with recent := List.replicate n 0 } } }
    let recent (s : State) := s.wdn.restart.recent.filter fun k => decide (s.tb.clk.cycles < k + 500000000)
    let down : State := { live with wdn := { live.wdn with mode := .restart, why := some (1, 47) } }
    ((s 1 true [.ram 0x1234 9]).wardenRuns = true ∧ (s 1 true [.ram 0x1234 9]).lay.staging = none ∧ (recent (s 1 true [])).length < 2 ∧ 2 ≤ (recent (s 2 true [])).length ∧
      (s 1 true [.ram 0x1234 9]).wdn.journal = [.ram 0x1234 9] ∧ (s 1 true []).wdn.journal = [] ∧ REntry.mark ∉ (s 1 true []).wdn.relq) ∧
    ((s 1 true []).wdn.ageOn = true ∧ 250000 * (s 1 true []).wdn.limit.toNat ≤ (s 1 true []).wdn.age ∧ (s 1 false []).wdn.ageOn = false) ∧
    (down.wdn.mode = .restart ∧ down.wdn.why = some (1, 47) ∧ down.awake = true) := by decide

/-! The security island. -/

theorem witness_RandomNumbersAndAttestation :
    let s (f : Sec → Sec) : State := { live with sec := f { live.sec with trng := .ok, host := { live.sec.host with pending := false } } }
    (live.hostWorks = true ∧ (s id).sec.host.pending = false ∧ (s id).sec.trng = .ok ∧ (s fun x => { x with trng := .fail }).sec.trng ≠ .ok ∧
      (s fun x => { x with host := { x.host with pending := true } }).sec.host.pending = true) ∧
    ((s id).sec.hewer[(15 : Fin 16)].pending = false ∧ (s id).sec.wdn.pending = false ∧
      (s fun x => { x with wdn := { x.wdn with pending := true } }).sec.wdn.pending = true ∧
      (s fun x => { x with hewer := vmod x.hewer 15 fun y => { y with pending := true } }).sec.hewer[(15 : Fin 16)].pending = true) ∧
    (let t (r : BitVec 4) := s fun x => { x with trng := .fail, testing := true, run := r }
     let good := (List.range 4096).map fun k => decide (k % 2 = 0)
     (t 6).sec.trng ≠ .dead ∧ (t 6).sec.testing = true ∧ (t 6).sec.run.toNat < 7 ∧ 7 ≤ (t 7).sec.run.toNat ∧
       (good.length = 4096 ∧ ((t 6).sec.health.bits good).2 = none) ∧
       (List.replicate 4096 true).length = 4096 ∧ ((t 6).sec.health.bits (List.replicate 4096 true)).2 = some false) ∧
    (let k (n : Nat) : Health := { last := some true, run := n, first := false, seen := 5, same := 3 }
     let j (n : Nat) : Health := { last := some false, run := 7, first := true, seen := 1023, same := n }
     let run (x : Health) (b : Bool) : Nat := if x.last = some b then x.run + 1 else 1
     let same (x : Health) (b : Bool) : Nat := if x.seen = 0 then 1 else if b = x.first then x.same + 1 else x.same
     41 ≤ run (k 40) true ∧ run (k 39) true < 41 ∧ same (k 39) true < 794 ∧ run (j 793) true < 41 ∧ 794 ≤ same (j 793) true ∧ same (j 792) true < 794 ∧
       run (k 40) false < 41) ∧
    ((s fun x => { x with trng := .dead }).sec.trng = .dead ∧ (s fun x => { x with seeding := true }).sec.seeding = true ∧
      65536 ≤ (s fun x => { x with calls := 65536 }).sec.calls) ∧
    (live.reaches .host = true ∧ (s id).sec.att = none ∧ (s fun x => { x with att := some 7 }).sec.att.isSome = true ∧ (s fun x => { x with att := some 7 }).sec.att = some 7) := by
  decide +kernel

theorem tOwner_holds : sha256 (octets256 tOwner.x ++ octets256 tOwner.y) = tOwner.digest := by decide +kernel

/-- Key `k` is the owner key above, not revoked. -/
def tHolds (s : State) (k : Nat) : Prop := k < 4 ∧ s.flash.owner[(ix 4 k)] = some tOwner ∧ s.flash.revoked.getLsbD k = false

/-- A statement of 20: operation, argument, UID 0 and the nonce 5; 3 is a usable key, 2 is not. -/
def tStatement (op arg key run : Nat) (nonce : Option (BitVec 128 × Nat)) (s : State) : State :=
  { s with
    sec := { s.sec with nonce := nonce, lock := { run := BitVec.ofNat 4 run, last := 0 },
                        auth := #v[0x47A61, BitVec.ofNat 20 (op + 16 * key), BitVec.ofNat 20 arg, 0, 0, 5, 0, 0, 0, 0, 0, 0, 0, 0, 0, 0] }
    flash := { Flash.blank with owner := tKeys 0xB } }

theorem witness_AuthenticatedRequests :
    let s (op arg key run : Nat) := tStatement op arg key run (some (5, 0)) live
    let w (s : State) (k : Nat) : Word := s.sec.auth.toList.getD k 0
    let locked (s : State) : Prop := 8 ≤ s.sec.lock.run.toNat ∧ s.tb.clk.cycles < s.sec.lock.last + 30000000000
    let form (s : State) (op argMax : Nat) : Prop :=
      w s 0 = 0x47A61 ∧ (w s 1).toNat = op + 16 * ((w s 1).toNat / 16) ∧ (w s 1).toNat / 16 < 4 ∧ (w s 2).toNat ≤ argMax ∧ w s 3 = s.flash.uid.extractLsb' 0 20 ∧
      w s 4 = s.flash.uid.extractLsb' 20 20 ∧ (∀ k : Fin 7, w s (5 + k.val) = (5 : BitVec 128).extractLsb' (20 * k.val) 20) ∧ ∀ k : Fin 4, w s (12 + k.val) = 0
    let ready (s : State) (op argMax : Nat) : Prop := s.Takes .svp ∧ ¬locked s ∧ s.sec.nonce = some (5, 0) ∧ s.tb.clk.cycles < 0 + 30000000000 ∧ form s op argMax
    (ready (s 1 3 3 7) 1 3 ∧ tHolds (s 1 3 3 7) 3 ∧ (s 1 3 3 7).flash.debugOff = false) ∧
    (ready (s 3 1 3 7) 3 3 ∧ tHolds (s 3 1 3 7) 3 ∧ (∃ k : Fin 4, k.val ≠ 1 ∧ tHolds (s 3 1 3 7) k.val) ∧ (s 3 1 3 7).keyInUse 1 = false ∧
      (s 3 0 3 7).keyInUse 0 = true) ∧
    (let one : State := tKeyed 8 (s 3 3 3 7)
     ready one 3 3 ∧ tHolds one 3 ∧ ∀ k : Fin 4, k.val ≠ 3 → one.flash.owner[(ix 4 k.val)] = none) ∧
    (ready (s 4 15 3 7) 4 15 ∧ tHolds (s 4 15 3 7) 3 ∧ (s 4 15 3 7).pkeyInUse 15 = false) ∧
    locked (s 1 3 3 8) ∧ (tStatement 1 3 3 7 none live).sec.nonce = none ∧ ¬form (s 1 4 3 7) 1 3 ∧ (ready (s 1 3 2 7) 1 3 ∧ (s 1 3 2 7).flash.owner[(ix 4 2)] = none) ∧
    live.sec.trng ≠ .ok ∧
    (let e := tStatement 1 3 3 7 (some (5, 0)) (tIdle id)
     e.sec.nonce = some (5, 0) ∧ e.Before (0 + 30000000000)) := by
  simp only [before_iff, State.Takes, tHolds]; refine ⟨?_, ?_, ?_, ?_, ?_, ?_, ?_, ?_, ?_, ?_⟩ <;> decide

/-- Where ECDSA says that the signature holds (or does not), it does so for every key that the statement may name. -/
theorem witness_AuthenticatedRequests_signed {v : Bool} (s : State) (h : Config.ecdsaVerify 0 0 (sha256 (octets3 s.sec.auth.toList)) 0 0 = v)
    (hs : s.sec.sig = Vector.replicate 26 0) : ∀ o, (tKeyed 8 s).flash.owner[(ix 4 3)] = some o →
    Config.ecdsaVerify o.x o.y (sha256 (octets3 s.sec.auth.toList)) (unpack256 s.sec.sig.toList) (unpack256 (s.sec.sig.toList.drop 13)) = v := by
  intro o ho
  have ho' : some tOwner = some o := ho
  cases ho'
  rw [hs]
  exact h

/-! Field updates. -/

/-- An open update of one block. -/
def tUpdate (src : CmdSource) (bitmap : BitVec 96) : OpenUpdate :=
  { src := src, type := 2, slot := 6, size := 4096, digest := 77, bitmap := bitmap, last := 3 }

/-- The device with that update open and slot 2.6 receiving, nothing in the boot slots 0 and 1. -/
def tUpdating (u : Option OpenUpdate) : State :=
  { live with flash := { Flash.blank with slots := [(256 + 6, ⟨.receiving, []⟩)], fallback := 1 }, upd := { live.upd with cur := u } }

theorem witness_FieldUpdates :
    let open_ := tUpdating (some (tUpdate .svp 0))
    let full := tUpdating (some (tUpdate .svp 1))
    let none_ := tUpdating none
    let trial (d : Option Nat) : State := { live with upd := { live.upd with trial := some ⟨⟨2, 0, none, true, [], false, .svp⟩, d⟩ } }
    (open_.Takes .svp ∧ open_.Takes (.ctx 3) ∧ open_.upd.cur = some (tUpdate .svp 0) ∧ (tUpdate .svp 0).src ≠ .ctx 3 ∧ (tUpdate .svp 0).src = .svp) ∧
    (none_.Takes .svp ∧ none_.upd.cur = none ∧ 8 ≤ 8 ∧ 7 < 8 ∧ none_.slotInUse 2 7 = false ∧ none_.slotInUse 2 0 = true ∧ none_.slotInUse 2 1 = true) ∧
    ((393216 : Word).toNat ≤ 393216 ∧ 393216 < (393217 : Word).toNat) ∧
    ((4096 : Word).toNat % 4096 = 0 ∧ ¬((4096 : Word).toNat < (tUpdate .svp 0).size) ∧ (0 : Word).toNat < (tUpdate .svp 0).size ∧
      (4096 : Word).toNat = min 4096 ((tUpdate .svp 0).size - 0)) ∧
    (ones (tUpdate .svp 0).bitmap ≠ ((tUpdate .svp 0).size + 4095) / 4096 ∧ full.upd.cur = some (tUpdate .svp 1) ∧
      ones (tUpdate .svp 1).bitmap = ((tUpdate .svp 1).size + 4095) / 4096) ∧
    (live.upd.trial = none ∧ live.Takes .svp ∧ (∃ t, (trial (some 5)).upd.trial = some t ∧ t.deadline = some 5)) ∧
    (5 < ({ trial (some 5) with tb := { live.tb with clk := { live.tb.clk with cycles := 6 } } } : State).tb.clk.cycles ∧ (trial (some 5)).tb.clk.cycles ≤ 5) ∧
    (let s := { tIdle id with upd := { live.upd with cur := some (tUpdate .svp 0) } }
     s.upd.cur = some (tUpdate .svp 0) ∧ s.wardenRuns = true ∧ s.Before ((tUpdate .svp 0).last + 300000000000)) := by
  simp only [before_iff, State.Takes]
  refine ⟨by decide, by decide, by decide, by decide, by decide, ⟨by decide, by decide, ⟨_, rfl, rfl⟩⟩, by decide, by decide⟩

/-- A firmware image of four words, with its digest. -/
def tFirmwareDigest : BitVec 256 := BitVec.ofNat 256 8389059192879898748160882836384094160171201093021595949840665060819799329152

def tFirmware : List Octet :=
  octets3 ([0x47A3F, 0x10000, 52, 7, 4, 3, 2, 0, 1, 2, 3, 4] ++ 0 :: (List.range 13).map (pack256 tFirmwareDigest) ++ List.replicate 26 0)

theorem tFirmware_digest : sha256 (List.take (3 * (8 + BitVec.toNat ((wordsOf tFirmware).getD 4 0))) tFirmware) = tFirmwareDigest := by decide +kernel

/-- It passes the checks of 19 R691, where the signature holds. -/
theorem tFirmware_passes (hs : tSigned tFirmwareDigest) {f : Flash} (h : f.owner = tKeys 0xF) (hr : f.revoked = 0) : firmwareFail f tFirmware = none := by
  unfold firmwareFail
  dsimp only
  rw [tFirmware_digest, tKeyed_usable _ h hr (by decide +kernel), tKeyed_verifies hs _ _ _ h (by decide +kernel) (by decide +kernel)]
  rfl

theorem witness_FieldUpdates_image (hs : tSigned tFirmwareDigest) : imageFail { Flash.blank with owner := tKeys 0xF } 0 tFirmware = none := by
  unfold imageFail
  exact tFirmware_passes (f := { Flash.blank with owner := tKeys 0xF }) hs rfl rfl

/-- An image without the magic word fails, whatever SHA-256 is. -/
theorem witness_FieldUpdates_badImage : imageFail Flash.blank 0 [1, 2, 3] = some 1 := by decide

/-- Both firmware slots valid, the image in slot 1; or in neither. -/
def tFwFlash (os : List Octet) : Flash := { Flash.blank with owner := tKeys 0xF, slots := [(0, ⟨.valid, [1, 2, 3]⟩), (1, ⟨.valid, os⟩)], fwConfirmed := true }

theorem witness_ActivationAndTrials_firmware (hs : tSigned tFirmwareDigest) : (tFwFlash tFirmware).firmware true = some (firmwareOf tFirmware) := by
  unfold Flash.firmware
  dsimp only
  rw [show (tFwFlash tFirmware).slot 0 (if true = true then 1 else 0) = ⟨.valid, tFirmware⟩ from rfl, tFirmware_passes hs rfl rfl]
  rfl

theorem witness_ActivationAndTrials :
    let s : State := { live with flash := { tFwFlash tFirmware with slots := (tFwFlash tFirmware).slots ++ [(128, ⟨.valid, tPackage⟩), (256 + 4, ⟨.valid, [1, 2, 3]⟩)] } }
    let trial : State := { s with upd := { s.upd with trial := some ⟨⟨2, 0, none, true, [], false, .svp⟩, none⟩ } }
    let w (v : Word) : Nat := v.toNat
    let bad (ts flags timeout hewers : Word) : Prop := 32 ≤ w flags ∨ (flags.getLsbD 0 = true ∧ (timeout = 0 ∨ 3600 < w timeout)) ∨
      (flags.getLsbD 1 = true ∧ w ts / 256 % 4 ≠ 2) ∨ (hewers ≠ 0 ∧ w ts / 256 % 4 ≠ 1)
    let fw (a : Activation) : State := { s with upd := { s.upd with fw := some a } }
    let a : Activation := ⟨0, 1, some 60, false, [], false, .svp⟩
    let at_ : Activation := ⟨2, 4, none, false, [], true, .svp⟩
    s.Takes .svp ∧ (bad 1 32 0 0 ∧ bad 1 1 0 0 ∧ bad 1 1 3601 0 ∧ bad 1 2 0 0 ∧ bad 1 0 0 1) ∧ (¬bad 1 1 3600 0 ∧ ¬bad 0x204 31 3600 0) ∧
    (trial.upd.trial.isSome = true ∧ s.upd.trial = none ∧ (fw a).activationBusy = true ∧ s.activationBusy = false) ∧
    (2 ≤ w 2 % 128 ∧ w 1 % 128 < 2 ∧ (s.flash.slot 2 7).st ≠ .valid ∧ w 0 % 128 = s.wdn.slot.toNat ∧ w 1 % 128 ≠ s.wdn.slot.toNat ∧ (s.flash.slot 0 1).st = .valid) ∧
    ((s.flash.slot 2 4).st = .valid ∧ (s.checkSlot 4).1 = .inl ⟨3, 0⟩) ∧ ((s.flash.slot 1 0).st = .valid ∧ s.affected 0 0 = 0) ∧
    (let c : State := tArmed { s with upd := { s.upd with lay := some at_, fw := some { a with at_ := true } } }
     let d : State := c.modTb fun t => { t with sched := vmod t.sched 1 fun e => { e with st := .pending } }
     c.upd.trial = none ∧ c.upd.lay = some at_ ∧ at_.at_ = true ∧ c.tb.sched[(0 : Fin 16)].st = .pending ∧ d.upd.fw = some { a with at_ := true } ∧
       d.tb.sched[(1 : Fin 16)].st = .pending) ∧
    (let due (x : Activation) : State := { live with upd := { live.upd with trial := some ⟨x, some 50⟩ } }
     (due a).upd.trial = some ⟨a, some 50⟩ ∧ (due a).Before 50 ∧ (due at_).upd.trial = some ⟨at_, some 50⟩ ∧ (due at_).Before 50 ∧
       (due at_).wardenRuns = true ∧ at_.type ≠ 0) ∧
    ((fw a).upd.fw = some a ∧ a.type = 0 ∧ a.at_ = false ∧ (fw a).wardenRuns = true ∧ (fw a).wdn.responding = false ∧ (fw a).lay.staging = none ∧
      a.slot.getLsbD 0 = true ∧ (tFwFlash tFirmware).firmware false = none ∧ false ≠ (tFwFlash tFirmware).fwConfirmed) ∧ live.upd.fw = none := by
  simp only [before_iff, State.Takes]; refine ⟨?_, ?_, ?_, ?_, ?_, ?_, ?_, ?_, ?_, ?_, ?_⟩ <;> decide +kernel

/-! The service port. -/

theorem witness_ServicePort :
    let nonce : BitVec 128 := 5
    let st (key : Nat) (w12 : Word) : List Word := [0x47A63, BitVec.ofNat 20 (16 * key), 0, 0, 0, 5, 0, 0, 0, 0, 0, 0, w12, 0, 0, 0] ++ List.replicate 26 0
    let s (run : BitVec 4) (n : Option (BitVec 128 × Nat)) : State :=
      { tKeyed 8 live with sec := { live.sec with svpNonce := n, svpLock := { run := run, last := 0 } } }
    let locked (s : State) : Prop := 8 ≤ s.sec.svpLock.run.toNat ∧ s.tb.clk.cycles < s.sec.svpLock.last + 30000000000
    let form (s : State) (ws : List Word) : Prop :=
      let w (k : Nat) : Word := ws.getD k 0
      let key := (w 1).toNat / 16
      w 0 = 0x47A63 ∧ (w 1).toNat = 16 * key ∧ key < 4 ∧ w 2 = 0 ∧ w 3 = s.flash.uid.extractLsb' 0 20 ∧ w 4 = s.flash.uid.extractLsb' 20 20 ∧
      (∀ k : Fin 7, w (5 + k.val) = nonce.extractLsb' (20 * k.val) 20) ∧ ∀ k : Fin 4, w (12 + k.val) = 0
    let data (off count : Word) (n : Nat) (s : State) : Prop :=
      s.wdn.session = true ∧ 1 ≤ count.toNat % 8192 ∧ count.toNat % 8192 ≤ 2048 ∧ off.toNat % 4096 + count.toNat % 8192 ≤ 4096 ∧ n = 2 + (8 * (count.toNat % 8192) + 19) / 20
    let ok := s 7 (some (5, 0))
    (live.awake = true ∧ live.islandOn 53 = true ∧ live.flash.svpOff = false ∧ live.wardenRuns = true ∧ live.wdn.svpConf = true ∧ live.sec.trng ≠ .ok) ∧
    ((st 3 0).length = 42 ∧ ¬locked ok ∧ ok.sec.svpNonce = some (nonce, 0) ∧ ok.tb.clk.cycles < 0 + 30000000000 ∧ form ok (st 3 0) ∧
      tHolds ok 3) ∧
    (locked (s 8 none) ∧ (s 7 none).sec.svpNonce = none ∧ ¬locked (s 7 none) ∧ ¬form ok (st 3 1) ∧ form ok (st 2 0) ∧ ok.flash.owner[(ix 4 2)] = none) ∧
    (data 2048 2048 822 live ∧ data 4095 1 3 live ∧ ¬data 2049 2048 822 live ∧ ¬data 0 2049 822 live ∧ ¬data 0 0 2 live) ∧
    live.wdn.session = true ∧ ((tIdle id).wdn.session = true ∧ (tIdle id).wardenRuns = true ∧ (tIdle id).Before ((tIdle id).upd.sessLast + 150000000000)) := by
  simp only [before_iff, tHolds]; refine ⟨?_, ?_, ?_, ?_, ?_, ?_⟩ <;> decide

/-! Power. -/

theorem witness_PowerIslands :
    let p (f : Pwr → Pwr) (claim : BitVec 56) : State := { live with pwr := f live.pwr, sec := { live.sec with claim := claim } }
    let idle (s : State) : Prop := s.pwr.cur ≠ .drowse ∧ s.pwr.stop = false ∧ s.pwr.moves = []
    let unmarked : State := { live with lay := { live.lay with active := none } }
    let off : State := { unmarked with pwr := { live.pwr with islOn := 0 } }
    (live.reachesAon .host = true ∧ live.reachesAon .warden = true ∧ 55 < (56 : BitVec 6).toNat ∧ (55 : BitVec 6).toNat ≤ 55) ∧
    (¬idle (p (fun x => { x with stop := true }) 0) ∧ idle live) ∧
    ((p id (BitVec.allOnes 56)).sec.claim.getLsbD 55 = true ∧ live.sec.claim.getLsbD 4 = false ∧ live.sec.wclaim.getLsbD 4 = false ∧ live.lo.marks 4 = true) ∧
    (unmarked.lo.marks 5 = false ∧ unmarked.islandOn 5 = true ∧ off.lo.marks 5 = false ∧ off.islandOn 5 = false ∧ idle off ∧ off.reachesAon .host = true) ∧
    ((p (fun x => { x with moves := [{ island := 4, on := false, host := true }] }) 0).pwr.moves = [{ island := 4, on := false, host := true }] ∧
      (live.available (.hewer 0) = true)) ∧
    ((p (fun x => { x with moves := [{ island := 20, on := true, host := true }] }) 0).pwr.moves = [{ island := 20, on := true, host := true }] ∧
      unmarked.lay.shadow = none) ∧
    ((p (fun x => { x with reapply := BitVec.allOnes 56 }) 0).pwr.reapply.getLsbD 4 = true ∧ live.hw[(0 : Fin 16)].st ≠ .loading) := by
  refine ⟨?_, ?_, ?_, ?_, ?_, ?_, ?_⟩ <;> decide

theorem witness_ResetsAndStart :
    let p (f : Pwr → Pwr) : State := { live with pwr := f live.pwr }
    let due : State := p fun x => { x with resetAt := some 50 }
    let held (k : ResetKind) : State := p fun x => { x with held := some k, off := false, deep := false, clockHold := false }
    let boot : State := { live with wdn := { live.wdn with mode := .boot, ram := [(0x1FFF0, 0x47A50), (0x1FFF1, 3)] } }
    (live.pwr.off = false ∧ live.pwr.held ≠ some .C ∧ 1000 ≤ 1000 ∧ 199 < 200) ∧
    (due.pwr.off = false ∧ due.pwr.held ≠ some .C ∧ due.pwr.resetAt = some 50 ∧ due.Before 50) ∧
    ((p fun x => { x with off := true, cause := 4 }).pwr.off = true ∧ (p fun x => { x with off := true, cause := 4 }).pwr.cause = 4 ∧
      (p fun x => { x with off := true, cause := 5 }).pwr.cause = 5) ∧
    (State.reset.pwr.held = some .C ∧ (State.reset.pwr.off = false ∨ State.reset.pwr.cause = 1 ∨ State.reset.pwr.cause = 2)) ∧
    ((held .D).pwr.held = some .D ∧ (held .D).pwr.off = false ∧ (held .D).pwr.deep = false ∧ (held .D).pwr.clockHold = false) ∧
    (boot.wdn.mode = .boot ∧ boot.awake = true ∧ memRead 0 boot.wdn.ram 0x1FFF0 = 0x47A50 ∧ memRead 0 live.wdn.ram 0x1FFF0 ≠ (0x47A50 : Word) ∧
      (firmwareOf tFirmware).image.length ≤ 0x1C000) ∧ boot.flash.firmware boot.flash.fwConfirmed = none := by
  simp only [before_iff]; refine ⟨?_, ?_, ?_, ?_, ?_, ?_, ?_⟩ <;> decide

theorem witness_PowerStatesAndSensors :
    let p (f : Pwr → Pwr) : State := { tIdle id with pwr := f live.pwr }
    let busy (s : State) : Prop := s.tb.sched[(0 : Fin 16)].st = .pending ∨ s.tb.sched[(1 : Fin 16)].st = .pending ∨ s.lay.staging.isSome = true ∨ s.upd.cur.isSome = true ∨
      s.upd.trial.isSome = true ∨ s.pwr.stop = true ∨ s.pwr.cur ≠ .run
    (live.reachesAon .host = true ∧ busy (tArmed live) ∧ ¬busy (p id) ∧ (p fun x => { x with wakeCfg := 0 }).pwr.wakeCfg.extractLsb' 0 2 = 0 ∧
      (p fun x => { x with wakeCfg := 2 }).pwr.wakeCfg.extractLsb' 0 2 ≠ 0) ∧
    ((p fun x => { x with cur := .entering }).pwr.stop = false ∧ (p fun x => { x with cur := .entering }).reachesAon .host = true) ∧
    ((p fun x => { x with req := some false }).powered = true ∧ (p fun x => { x with req := some false }).pwr.req = some false ∧
      (p fun x => { x with req := some true }).powered = true) ∧
    (let d := p fun x => { x with cur := .drowse, wakeCfg := 15, alarmOn := true, alarm := 0, waking := false }
     d.powered = true ∧ d.pwr.stop = false ∧ d.pwr.cur = .drowse ∧ d.pwr.waking = false ∧ d.Before (d.tb.clk.cycles + d.tb.clk.aonCyclesTo d.pwr.alarm.toNat) ∧ d.pwr.wakeCfg.getLsbD 0 = true ∧
       d.pwr.wakeCfg.getLsbD 1 = true ∧ d.pwr.alarmOn = true ∧ d.tb.clk.aonSeconds ≤ d.pwr.alarm.toNat ∧ d.pwr.wakeCfg.getLsbD 2 = true ∧ d.host.resetting = false ∧
       d.pwr.wakeCfg.getLsbD 3 = true ∧ d.eth.port[(ix 6 3 : Fin 6)].link.up = false) ∧
    ((let d := p fun x => { x with cur := .drowse, waking := true, wakeCfg := 15, wakeCyc := some live.tb.clk.cycles }
      d.pwr.wakeCfg.getLsbD 3 = true ∧ d.eth.port[(ix 6 3 : Fin 6)].link.up = false ∧ d.pwr.wakeCyc = some d.tb.clk.cycles) ∧
      (p fun x => { x with cur := .drowse, waking := true }).pwr.waking = true ∧ (p fun x => { x with cur := .drowse, waking := true }).powered = true ∧
      live.lay.active.isSome = true) ∧
    (let d := p fun x => { x with deep := true, wakeCfg := 3, alarmOn := true, alarm := 0 }
     d.pwr.deep = true ∧ d.pwr.wakeCfg.getLsbD 0 = true ∧ d.pwr.wakeCfg.getLsbD 1 = true ∧ d.tb.clk.aonSeconds ≤ d.pwr.alarm.toNat) ∧
    ((p fun x => { x with pllB := true }).powered = true ∧ (p fun x => { x with pllB := true }).pwr.pllB = true ∧ (p fun x => { x with pllB := false }).pwr.pllB = false) ∧
    (let v := p fun x => { x with vinLow := 430 }
     (4299 : BitVec 16).toNat < 10 * v.pwr.vinLow.toNat ∧ ¬((4300 : BitVec 16).toNat < 10 * v.pwr.vinLow.toNat) ∧ v.pwr.lowSeen = false ∧
       (p fun x => { x with vinLow := 430, lowSeen := true }).pwr.lowSeen = true ∧ 10 * v.pwr.vinLow.toNat + 200 < (4501 : BitVec 16).toNat) ∧
    (inWarn 1 759 = false ∧ inWarn 1 760 = true) ∧
    ((1080 ≤ (1080 : BitVec 12).toInt ∧ (1079 : BitVec 12).toInt < 1080) ∧ (p fun x => { x with resume := 115, stop := false }).pwr.resume.toNat ≤ 115 ∧
      1000 ≤ (1000 : BitVec 12).toInt ∧ (p fun x => { x with crit := 0xFF }).pwr.crit.getLsbD 7 = true ∧
      (p fun x => { x with highArmed := true, high := 105 }).pwr.highArmed = true ∧ 8 * ((p fun x => { x with high := 105 }).pwr.high.toNat : Int) ≤ (840 : BitVec 12).toInt) ∧
    (let d := p fun x => { x with stop := true, autoResume := true, resume := 95, halted := false }
     d.powered = true ∧ d.pwr.stop = true ∧ d.pwr.autoResume = true ∧ (760 : BitVec 12).toInt ≤ 8 * d.pwr.resume.toNat ∧
       (∀ j : Fin 8, d.wdn.sens.temp[j].toInt ≤ 8 * d.pwr.resume.toNat) ∧ d.pwr.halted = false) := by
  simp only [before_iff]; refine ⟨?_, ?_, ?_, ?_, ?_, ?_, ?_, ?_, ?_, ?_, ?_⟩ <;> decide

/-! Worked examples, with their expected results from the spec or a named standard. -/

/-- The profile CRC of the received frame (07, worked case): the words hold "1" to "9", POLY 0x1021, width 16, initial value 0xFFFF; result 0x29B1. -/
theorem test_crc_workedCase :
    let p : BitVec 40 := 0x0F000#20 ++ 0x01021#20
    crcStep p 8 0x39 ([0x3231, 0x3433, 0x3635, 0x3837].foldl (bcrcWord 0 p) 0xFFFF) = 0x29B1 := by decide +kernel

/-- CRC-32 of IEEE 802.3 over "123456789": the standard's check value. -/
theorem test_crc32 : crc32 [0x31, 0x32, 0x33, 0x34, 0x35, 0x36, 0x37, 0x38, 0x39] = 0xCBF43926 := by decide +kernel

/-- Verdict words (08, after R313): a good early frame in arrival window 3 gives 0x8_1321, a frame stomped upstream 0x8_0082. -/
theorem test_verdictWord : verdictWord { Frame.blank 0 0 [] with win := some 3, early := true } 0 = 0x81321 ∧
    verdictWord (Frame.blank 0 0 []) 0x82 = 0x80082 := by decide

/-- The TIME_STEP log record (19, worked cases). -/
theorem test_logRecord :
    logWords 305419896 0x02 0 (0x00006#20 ++ 0xCB808#20 ++ 0#20 ++ 0x5EBA0#20) 1 [0x61A80, 0, 0xCB808, 6, 3, 0xF4240, 0] =
      [0x47A50, 0x45678, 0x00123, 0x5EBA0, 0, 0xCB808, 0x00006, 0x02400, 0x61A80, 0, 0xCB808, 6, 3, 0xF4240, 0, 0x25196] := by decide

/-- Fields of process-value blocks (09, worked cases): line speed BOUND 14,940, drive position DELTA 147,200 to 147,329, film tension DEADBAND
2,410 to 2,412. -/
theorem test_pvcFields :
    pvcField false 0x44000 14940 14944 = ⟨0x3A6, 16, 14944⟩ ∧ pvcField false 0x30000 147329 147200 = ⟨9 + 16 * 129, 13, 147329⟩ ∧
    pvcField false 0x60003 2412 2410 = ⟨0, 1, 2410⟩ := by decide

/-- Column W of the event catalogue (24): SYNC_OK 1, CHANGEOVER_ABORT 3, HEWER_FAULT_15 2, MGMT_RESTART 5, AUTH_FAIL 4, TEMP_CRIT 0,
LOG_WRAP none. -/
theorem test_shippedVectors : [3, 15, 31, 112, 117, 123, 127].map shippedVectors = [2, 8, 4, 32, 16, 1, 0] := by decide

/-- The words of instructions (06 and 07, worked encodings and the worked case of 07). -/
theorem test_encodings :
    (ahfLd (.hewer 0) (.sm 5 2 1)).enc = ⟨0x30521, none⟩ ∧ (ahfSt (.hewer 0) (.lm ⟨true, 2, 0, 0x88010⟩)).enc = ⟨0xB8120, some 0x88010⟩ ∧
    (ahfYield (.hewer 0) 0).enc = ⟨0x40100, none⟩ ∧ (ahfTrap (.hewer 0) 0x2A).enc = ⟨0x4062A, none⟩ ∧
    encLI 0x01 ⟨3, 3, 0x10000⟩ = ⟨0x90133, some 0x10000⟩ ∧ (ahfBcc (.hewer 0) 1 0xFFD).enc = ⟨0x21FFD, none⟩ ∧
    (ahfBcrc (.hewer 0) ⟨4, 6, 8, 0, 0x700⟩ 1).enc = ⟨0x84680, some 0x31700⟩ := by decide

end Sys2Proof.Machine
end

namespace Sys2Proof.Machine

/-! Register accesses of the host and the Warden (00 R9; 17 R645-R651): what an access reaches, and what its beat leaves. -/

/-! What an operation that only charges leaves of the paths to a register. -/

section
variable {s t : State} (q : Quiet s t)
include q

theorem Quiet.islandOn (i : Nat) : t.islandOn i = s.islandOn i := by rw [State.islandOn, q.pwr, State.islandOn]

theorem Quiet.resetting : t.host.resetting = s.host.resetting := by
  obtain ⟨v, h⟩ := q.host
  rw [h]

theorem Quiet.shadow : t.host.shadow = s.host.shadow := by
  obtain ⟨v, h⟩ := q.host
  rw [h]

theorem Quiet.awake : t.awake = s.awake := by rw [State.awake, State.powered, q.pwr, State.awake, State.powered]

theorem Quiet.reaches (a : Agent) : t.reaches a = s.reaches a := by
  cases a <;> simp only [State.reaches, State.hostWorks, q.awake, q.resetting]

theorem Quiet.latched (r off : Nat) : t.latched r off = s.latched r off := by rw [State.latched, q.shadow, State.latched]

end

/-! Which units hear an access. -/

/-- The blocks that Drowse serves too are reached by whoever reaches the others. -/
theorem reachesAon_of_reaches {s : State} {a : Agent} (h : s.reaches a = true) : s.reachesAon a = true := by
  cases a with
  | host =>
    simp only [State.reaches, State.hostWorks, State.awake, Bool.and_eq_true] at h
    simp only [State.reachesAon, State.hostLets, Bool.and_eq_true]
    exact ⟨h.1.1, h.2⟩
  | warden => exact h
  | hewer n => exact h

theorem hearsReg_of_reaches {s : State} {a : Agent} {off : Nat} (h : s.reaches a = true)
    (hi : ∀ i, regIsland off = some i → s.islandOn i = true) : s.hearsReg a off = true := by
  have hr : (if alwaysOn off then s.reachesAon a else s.reaches a) = true := by
    split
    · exact reachesAon_of_reaches h
    · exact h
  rw [State.hearsReg, hr, Bool.true_and]
  split
  · next i e => exact hi i e
  · rfl

theorem hearsReg_of_noIsland {s : State} {a : Agent} {off : Nat} (h : s.reaches a = true) (hi : regIsland off = none) :
    s.hearsReg a off = true :=
  hearsReg_of_reaches h fun i e => by rw [hi] at e; cases e

theorem heard_of_reaches {s : State} {a : Agent} {i : Nat} (h : s.reaches a = true) (hi : s.islandOn i = true) : s.heard a i = true := by
  cases a <;> simp_all [State.reaches, State.heard]

/-! The commands as reads and writes of Window A. -/

theorem exec_registerWrite (a : Agent) (off : Nat) (v : BitVec 32) (s : State) :
    exec (.registerWrite a off v) s = .next (s.agentWrite a off v) := rfl

theorem exec_latchedRead (a : Agent) (off : Nat) (s : State) :
    exec (.latchedRead a off) s = .next { (s.agentRead a off).2 with rd := [(s.agentRead a off).1] } := rfl

theorem exec_resultRead (a : Agent) (off : Nat) (s : State) :
    exec (.resultRead a off) s = .next { (s.agentRead a off).2 with rd := [(s.agentRead a off).1] } := rfl

section
variable {s : State} {a : Agent} {off : Nat} (ha : a = .host ∨ a = .warden)
include ha

theorem agentWrite_eq_writeA (v : BitVec 32) : s.agentWrite a off v = (s.paid a).writeA a off v := by
  rcases ha with rfl | rfl <;> rfl

/-- A read of a whole register that no read consumes. -/
theorem agentRead_of_not_consuming (h4 : off % 4 = 0) (hc : consumesReg off = false) : s.agentRead a off = (s.paid a).readA a off := by
  rcases ha with rfl | rfl
  · have hk : off / 4 * 4 = off := by omega
    simp [State.agentRead, State.hostRegRead, hk, hc, h4]
  · rfl

/-- A read of a whole result register also keeps, for the host, what it took (R651). -/
theorem agentRead_of_consuming (h4 : off % 4 = 0) (hc : consumesReg off = true) (hh : (s.paid a).hearsReg a off = true) :
    ∃ f, s.agentRead a off = (((s.paid a).readA a off).1, ((s.paid a).readA a off).2.modHost f) := by
  rcases ha with rfl | rfl
  · have hk : off / 4 * 4 = off := by omega
    simp only [State.agentRead, State.hostRegRead, hk, hc, hh, h4, Bool.and_self, if_true]
    exact ⟨_, rfl⟩
  · exact ⟨id, rfl⟩

end

theorem writeA_of_hears {s : State} {a : Agent} {off : Nat} (h : s.hearsReg a off = true) (v : BitVec 32) :
    s.writeA a off v = s.regWrite a (off / 4 * 4) v := if_pos h

theorem readA_of_hears {s : State} {a : Agent} {off : Nat} (h : s.hearsReg a off = true) :
    s.readA a off = s.regRead a (off / 4 * 4) := if_pos h

/-- A write has no effect where the register map gives the offset nothing to write (00 R13). -/
theorem writeA_of_regWrite {s : State} {a : Agent} {off : Nat} {v : BitVec 32} (h : s.regWrite a (off / 4 * 4) v = s) :
    s.writeA a off v = s := by
  rw [State.writeA, h, ite_self]

theorem regWrite_beyond {off : Nat} (h : 0x40000 ≤ off) (a : Agent) (v : BitVec 32) (s : State) : s.regWrite a off v = s := by
  unfold State.regWrite
  repeat rw [if_neg (by omega)]

theorem regRead_beyond {off : Nat} (h : 0x40000 ≤ off) (a : Agent) (s : State) : s.regRead a off = (0, s) := by
  unfold State.regRead
  dsimp only
  repeat rw [if_neg (by omega)]

/-- Offsets that name no writable register: the LAY block, the end of the ports' blocks, the end of the two-wire bus, beyond SEC. -/
theorem regWrite_reserved {off : Nat} (h : off = 0x3000 ∨ off = 0x16000 ∨ off = 0x2CC00 ∨ 0x40000 ≤ off) (a : Agent) (v : BitVec 32)
    (s : State) : s.regWrite a (off / 4 * 4) v = s := by
  rcases h with rfl | rfl | rfl | h
  · rfl
  · rfl
  · rfl
  · exact regWrite_beyond (by omega) a v s

/-! No window of a Hewer lies below TIME, or from the SBU block to the CAN controllers (05, I/O table). -/

theorem windowWord_eq_none {off : Nat} (h : off < 0x1000 ∨ (0x2000 ≤ off ∧ off < 0x20000)) : windowWord off = none := by
  unfold windowWord
  repeat rw [if_neg (by omega)]

theorem agentWrite_hewer_noWindow {off : Nat} (h : windowWord off = none) (n : Fin 16) (v : BitVec 32) (s : State) :
    s.agentWrite (.hewer n) off v = s := by
  simp [State.agentWrite, State.ownWindow, h]

/-! Field values. -/

theorem fld_eq_extractLsb' {v : Nat} (x : BitVec v) (lo w : Nat) : fld x lo w = x.extractLsb' lo w := by
  ext i hi
  simp [fld]

@[simp] theorem at32_zero {w : Nat} (x : BitVec w) : at32 x 0 = x.setWidth 32 := by simp [at32]

theorem storedIvl_eq_clamp (k : BitVec 4) : storedIvl k = if k.toInt < -7 then -7 else if 3 < k.toInt then 3 else k := by
  revert k; decide

@[simp] theorem bitAt_false (lo : Nat) : bitAt false lo = 0 := by simp [bitAt, bool, at32]

/-- What a result register shows while its result is new (17 R649). -/
theorem ResultReg.word_of_valid {w : Nat} {x : ResultReg w} (h : x.valid = true) : x.word = 0x80000000 ||| x.data.setWidth 32 := by
  have htop : bitAt true 31 = 0x80000000 := by decide
  simp [ResultReg.word, ResultReg.top, ResultReg.shown, h, htop]

/-- The same result read again (17 R649). -/
theorem ResultReg.word_of_rep {w : Nat} {x : ResultReg w} (h : x.valid = false) (hr : x.rep = true) :
    x.word = 0x40000000 ||| x.data.setWidth 32 := by
  have htop : bitAt true 30 = 0x40000000 := by decide
  simp [ResultReg.word, ResultReg.top, ResultReg.shown, h, hr, htop]

/-- No result yet (17 R649). -/
theorem ResultReg.word_of_none {w : Nat} {x : ResultReg w} (h : x.valid = false) (hr : x.rep = false) : x.word = 0 := by
  simp [ResultReg.word, ResultReg.top, ResultReg.shown, h, hr]

/-! Latched words. -/

theorem memRead_memPut_same {α : Type} (d : α) (a : Nat) (v : α) : ∀ m : Mem α, memRead d (memPut a v m) a = v
  | [] => by simp [memPut, memRead]
  | (k, u) :: m => by
    unfold memPut
    split
    · simp [memRead]
    · split
      · simp [memRead]
      · next h => rw [memRead, if_neg (Ne.symm h), memRead_memPut_same d a v m]

/-- Unlike `memRead_memWrite`, of any listed content. -/
theorem memRead_memWrite_same {α : Type} [DecidableEq α] (d : α) (m : Mem α) (a : Nat) (v : α) : memRead d (memWrite d m a v) a = v := by
  unfold memWrite
  split
  · next h => rw [memRead_memDel, if_pos rfl, h]
  · exact memRead_memPut_same d a v m

@[simp] theorem latched_latch_same (s : State) (r off : Nat) (v : BitVec 32) : (s.latch r off v).latched r off = v :=
  memRead_memWrite_same 0 _ _ v

/-! The TIME block, through Window A (02, Registers). -/

theorem regIsland_time {o : Nat} (h : o < 0x1000) : regIsland (0x1000 + o) = some 54 := if_pos (by omega)

theorem regWrite_time {o : Nat} (h : o < 0x1000) (a : Agent) (v : BitVec 32) (s : State) :
    s.regWrite a (0x1000 + o) v = s.timeWrite a o v := by
  unfold State.regWrite
  rw [if_neg (by omega), if_pos (by omega), Nat.add_sub_cancel_left]

theorem regRead_time {o : Nat} (h : o < 0x1000) (a : Agent) (s : State) : s.regRead a (0x1000 + o) = s.timeRead a o := by
  unfold State.regRead
  dsimp only
  rw [if_neg (by omega), if_pos (by omega), Nat.add_sub_cancel_left]

section
variable {s : State} {a : Agent} (hr : s.reaches a = true) (hi : s.islandOn 54 = true)
include hr hi

theorem hearsReg_time {o : Nat} (ho : o < 0x1000) : s.hearsReg a (0x1000 + o) = true :=
  hearsReg_of_reaches hr fun i e => by
    rw [regIsland_time ho] at e
    cases e
    exact hi

theorem writeA_time {o : Nat} (h4 : o % 4 = 0) (ho : o < 0x1000) (v : BitVec 32) : s.writeA a (0x1000 + o) v = s.timeWrite a o v := by
  rw [writeA_of_hears (hearsReg_time hr hi ho), show (0x1000 + o) / 4 * 4 = 0x1000 + o by omega, regWrite_time ho]

theorem readA_time {o : Nat} (h4 : o % 4 = 0) (ho : o < 0x1000) : s.readA a (0x1000 + o) = s.timeRead a o := by
  rw [readA_of_hears (hearsReg_time hr hi ho), show (0x1000 + o) / 4 * 4 = 0x1000 + o by omega, regRead_time ho]

/-- TIME.SYNC_CFG written (02, Registers). -/
theorem timeWrite_syncCfg (v : BitVec 32) :
    s.timeWrite a 0x060 v = s.modTimeRegs fun g => { g with holdMs := atLeastOne (fld v 16 16), logIvl := storedIvl (fld v 12 4) } :=
  if_pos (heard_of_reaches hr hi)

/-- TIME.SYNC_LIMIT written (02, Registers). -/
theorem timeWrite_syncLimit (v : BitVec 32) :
    s.timeWrite a 0x064 v = s.modTimeRegs fun g => { g with limit := atLeastOne (fld v 0 20) } :=
  if_pos (heard_of_reaches hr hi)

/-- A write that only the time owner may make, by another agent (R34). -/
theorem byOwner_foreign (hn : agentCode a ≠ s.lo.owner) (f : State → State) : s.byOwner a f = s.foreignTime := by
  simp [State.byOwner, heard_of_reaches hr hi, hn]

end

theorem timeRead_strokeLow (a : Agent) (s : State) :
    s.timeRead a 0x014 = (lo20 s.tb.stroke.count, s.latch (readerOf a) 0x1018 (hi20 s.tb.stroke.count)) := rfl

theorem timeRead_strokeHigh (a : Agent) (s : State) : s.timeRead a 0x018 = (s.latched (readerOf a) 0x1018, s) := rfl

/-! MDIO's result, in the registers that the ports share (11 R439): no island holds them (log 174). -/

theorem readA_mdioResult {s : State} {a : Agent} (hr : s.reaches a = true) :
    s.readA a 0x10F1C =
      (s.eth.mdio.res.word, s.modEth fun e => { e with mdio := { e.mdio with res := e.mdio.res.consume } }) :=
  readA_of_hears (hearsReg_of_noIsland hr rfl)

/-! The parts of `Obligations.RegisterAccesses`. -/

section
variable {s : State} {a : Agent} (ha : a = .host ∨ a = .warden)
include ha

theorem registerWrite_reserved (v : BitVec 32) {off : Nat} (h : off = 0x3000 ∨ off = 0x16000 ∨ off = 0x2CC00 ∨ 0x40000 ≤ off) :
    Completes (.registerWrite a off v) s (Quiet s) := by
  refine ⟨_, exec_registerWrite a off v s, ?_⟩
  rw [agentWrite_eq_writeA ha, writeA_of_regWrite (regWrite_reserved h a v _)]
  exact quiet_paid s a

variable (hr : s.reaches a = true)
include hr

theorem latchedRead_beyond : Completes (.latchedRead a 0x40000) s (fun t => t.rd = [0]) := by
  have hr' : (s.paid a).reaches a = true := ((quiet_paid s a).reaches a).trans hr
  refine ⟨_, exec_latchedRead a _ s, ?_⟩
  rw [agentRead_of_not_consuming ha rfl (by decide), readA_of_hears (hearsReg_of_noIsland hr' (by decide)),
    regRead_beyond (by decide)]

/-- A read of MDIO's result consumes it (R649). -/
theorem resultRead_mdio :
    Completes (.resultRead a 0x10F1C) s (fun t => t.rd = [s.eth.mdio.res.word] ∧ t.eth.mdio.res = s.eth.mdio.res.consume) := by
  have q := quiet_paid s a
  have hr' : (s.paid a).reaches a = true := (q.reaches a).trans hr
  have hh : (s.paid a).hearsReg a 0x10F1C = true := hearsReg_of_noIsland hr' rfl
  obtain ⟨f, hf⟩ := agentRead_of_consuming ha (off := 0x10F1C) rfl (by decide) hh
  refine ⟨_, exec_resultRead a _ s, ?_⟩
  rw [hf, readA_mdioResult hr', ← q.eth]
  exact ⟨rfl, rfl⟩

variable (hi : s.islandOn 54 = true)
include hi

/-- A write of a TIME register, by its effect on the state in which the access is paid. -/
theorem completes_timeWrite {o : Nat} (h4 : o % 4 = 0) (ho : o < 0x1000) {v : BitVec 32} {Q : State → Prop}
    (hq : ∀ t, Quiet s t → t.reaches a = true → t.islandOn 54 = true → Q (t.timeWrite a o v)) :
    Completes (.registerWrite a (0x1000 + o) v) s Q := by
  have q := quiet_paid s a
  have hr' : (s.paid a).reaches a = true := (q.reaches a).trans hr
  have hi' : (s.paid a).islandOn 54 = true := (q.islandOn 54).trans hi
  refine ⟨_, exec_registerWrite a _ v s, ?_⟩
  rw [agentWrite_eq_writeA ha, writeA_time hr' hi' h4 ho]
  exact hq _ q hr' hi'

/-- A read of a TIME register that no read consumes, by its effect on the state in which the access is paid. -/
theorem completes_timeRead {o : Nat} (h4 : o % 4 = 0) (ho : o < 0x1000) (hc : consumesReg (0x1000 + o) = false)
    {Q : State → Prop}
    (hq : ∀ t, Quiet s t → Q { (t.timeRead a o).2 with rd := [(t.timeRead a o).1] }) :
    Completes (.latchedRead a (0x1000 + o)) s Q := by
  have q := quiet_paid s a
  refine ⟨_, exec_latchedRead a _ s, ?_⟩
  rw [agentRead_of_not_consuming ha (by omega) hc, readA_time ((q.reaches a).trans hr) ((q.islandOn 54).trans hi) h4 ho]
  exact hq _ q

theorem registerWrite_syncCfg (v : BitVec 32) :
    Completes (.registerWrite a 0x1060 v) s (fun t =>
      t.tb.regs.holdMs = (if v.extractLsb' 16 16 = 0 then 1 else v.extractLsb' 16 16) ∧
      t.tb.regs.logIvl = (let k : BitVec 4 := v.extractLsb' 12 4
        if k.toInt < -7 then -7 else if 3 < k.toInt then 3 else k) ∧ t.tb.regs.limit = s.tb.regs.limit) :=
  completes_timeWrite ha hr hi (o := 0x060) rfl (by decide) fun t q hr' hi' => by
    rw [timeWrite_syncCfg hr' hi', ← q.tb, fld_eq_extractLsb', fld_eq_extractLsb', storedIvl_eq_clamp]
    exact ⟨rfl, rfl, rfl⟩

theorem registerWrite_syncLimit (v : BitVec 32) :
    Completes (.registerWrite a 0x1064 v) s (fun t =>
      t.tb.regs.limit = (if v.extractLsb' 0 20 = 0 then 1 else v.extractLsb' 0 20) ∧ t.tb.regs.holdMs = s.tb.regs.holdMs) :=
  completes_timeWrite ha hr hi (o := 0x064) rfl (by decide) fun t q hr' hi' => by
    rw [timeWrite_syncLimit hr' hi', ← q.tb, fld_eq_extractLsb']
    exact ⟨rfl, rfl⟩

theorem registerWrite_rate_foreign (v : BitVec 32) (hn : agentCode a ≠ s.lo.owner) :
    Completes (.registerWrite a 0x1044 v) s (fun t => t.tb.clk = s.tb.clk ∧ t.tb.regs.foreign = satInc s.tb.regs.foreign) :=
  completes_timeWrite ha hr hi (o := 0x044) rfl (by decide) fun t q hr' hi' => by
    rw [State.timeWrite, byOwner_foreign hr' hi' (by rwa [q.lo]), ← q.tb]
    exact ⟨rfl, rfl⟩

theorem latchedRead_strokeLow :
    Completes (.latchedRead a 0x1014) s (fun t =>
      t.rd = [(s.tb.stroke.count.extractLsb' 0 20).setWidth 32] ∧
      t.latched (readerOf a) 0x1018 = (s.tb.stroke.count.extractLsb' 20 20).setWidth 32 ∧ t.tb = s.tb) :=
  completes_timeRead ha hr hi (o := 0x014) rfl (by decide) (by decide) fun t q => by
    rw [timeRead_strokeLow, ← q.tb, lo20, hi20, at32_zero, at32_zero, fld_eq_extractLsb', fld_eq_extractLsb']
    exact ⟨rfl, latched_latch_same _ _ _ _, rfl⟩

theorem latchedRead_strokeHigh :
    Completes (.latchedRead a 0x1018) s (fun t => t.rd = [s.latched (readerOf a) 0x1018] ∧ t.tb = s.tb) :=
  completes_timeRead ha hr hi (o := 0x018) rfl (by decide) (by decide) fun t q => by
    rw [timeRead_strokeHigh, ← q.latched]
    exact ⟨rfl, q.tb⟩

end

/-- Settles O45: an access is paid, reaches its unit, and does there what the unit's register map says; each register by its own
lemma above. -/
theorem registerAccesses : Obligations.RegisterAccesses := by
  unfold Obligations.RegisterAccesses
  refine ⟨fun s a ha hr hi => ⟨fun v => ⟨?_, ?_, ?_, ?_⟩, ?_, ?_, ?_⟩, fun s a ha hr => ?_, fun s n off v h => ?_⟩
  · exact registerWrite_syncCfg ha hr hi v
  · exact registerWrite_syncLimit ha hr hi v
  · exact registerWrite_rate_foreign ha hr hi v
  · intro off h
    obtain ⟨t, ht, q⟩ := registerWrite_reserved ha v h
    exact ⟨t, ht, q.tb, q.lay, q.gal, q.eth, q.lnd, q.grd, q.can, q.trd, q.twb, q.chu, q.sec, q.upd, q.pwr, q.loft⟩
  · exact latchedRead_strokeLow ha hr hi
  · exact latchedRead_strokeHigh ha hr hi
  · exact latchedRead_beyond ha hr
  · obtain ⟨t, ht, hrd, hres⟩ := resultRead_mdio ha hr
    refine ⟨t, ht, fun hv => ?_, fun hv hp => ?_, fun hv hp => ?_, hres⟩
    · rw [hrd, ResultReg.word_of_valid hv]
    · rw [hrd, ResultReg.word_of_rep hv hp]
    · rw [hrd, ResultReg.word_of_none hv hp]
  · rw [exec_registerWrite, agentWrite_hewer_noWindow (windowWord_eq_none h)]

end Sys2Proof.Machine

namespace Sys2Proof.Machine

/-! A boundary at which a parked flight goes on (03 R97, R100; 15 R559, R574). Step 4 refills every budget and then rouses each parked
Tread that was running, which charges its flight the Tread cycles until its next tick: a flight that goes on between two ticks begins
the stroke with less compute than its layout gives it. -/

/-- A boundary that neither a controlled stop nor a request to rest replaces. -/
theorem exec_strokeBoundary {s : State} {e : Nat} (ha : s.awake = true) (he : s.tb.stroke.ends = some e) (hs : s.pwr.stop = false)
    (hr : s.pwr.req = none) : exec .strokeBoundary s = .next (s.boundary e).lateSteps := by
  have hx : exec .strokeBoundary s = execStrokeBoundary s := rfl
  simp [hx, execStrokeBoundary, ha, he, hs, hr]

/-- A layout of 1 ms strokes (P = 125,000 units of 8 ns) that gives flight 0, activity 16, a compute of 1,000, and whose Tread 0 has
DIV = 512: a tick in every second Tread cycle (15 R559). -/
def halfRateLayout : Layout :=
  { Layout.blank with
    sections := [⟨1, 0, [125000, 0, 10000, 0, 50000, 0, 100000]⟩, ⟨6, 0, [1, 0, 16, 0, 0, 1000]⟩, ⟨11, 0, [1, 4, 0, 0, 512]⟩] }

/-- A powered device under that layout, in a stroke that ends at 4,000,000 quarter-nanoseconds, as BUDGET_PARK leaves it when Tread 0
runs and flight 0 has no compute left. Tread 0 ticks in the odd Tread cycles, and the stroke ends in Tread cycle 250,000. -/
def parkedFlight : State :=
  ({ State.reset with
      pwr := { State.reset.pwr with held := none }
      lay := { State.reset.lay with active := some halfRateLayout }
      trd := { State.reset.trd with tread := vmod State.reset.trd.tread 0 fun x => { x with st := .running } }
      tb := { State.reset.tb with stroke := { State.reset.tb.stroke with running := true, ends := some 4000000 } } } : State).parkAct 16

theorem noStall_parkedFlight : parkedFlight.NoStall := by
  intro e
  cases e with
  | hewer n => revert n; decide
  | warden => rfl

/-- The layout gives the flight 1,000 Tread cycles; one of them is spent on the wait for the next tick. -/
theorem boundary_parkedFlight_cpu :
    (parkedFlight.lo.compute 16).toNat = 1000 ∧ ((parkedFlight.boundary 4000000).lateSteps).sbu.act[(16 : ActId)].cpu = 999 := by
  decide +kernel

/-- Refutes O31: no premise keeps a flight's Treads from being parked, and the boundary that rouses them charges their flight at once,
after the refill; so its compute is not the layout's. -/
theorem not_strokeBoundaryRefills : ¬ Obligations.StrokeBoundaryRefills := by
  unfold Obligations.StrokeBoundaryRefills
  intro h
  have hx : exec .strokeBoundary parkedFlight = .next (parkedFlight.boundary 4000000).lateSteps :=
    exec_strokeBoundary (by decide) (by decide) (by decide) (by decide)
  have hquiet := h parkedFlight 4000000 (by decide) (by decide) (by decide) (by decide) (by decide) (by decide) (by decide)
    noStall_parkedFlight (by decide)
  obtain ⟨t, ht, -, -, -, -, -, -, -, -, refilled, -⟩ := hquiet.1 (by decide)
  obtain rfl : _ = t := Host.Outcome.next.inj (hx.symm.trans ht)
  obtain ⟨hcompute, hcpu⟩ := boundary_parkedFlight_cpu
  have hfull := (refilled 16 (.inl (by decide))).1
  rw [show ((16 : ActId) : Nat) = 16 from rfl, hcompute, hcpu] at hfull
  exact absurd hfull (by decide)

end Sys2Proof.Machine

namespace Sys2Proof.Machine

/-! A push that ends a frame at the head of its own Hewer's ingress tap (05 R201, R205, R209). The Landing may decide a frame before
its last word is there (13 R502), so a frame that Hewer 0 builds may already be the head of Hewer 0's own tap, and what the Hewer has
read of it is green (05 R202). The push of the EOF word then brings this frame its verdict (05 R205), and the verdict clears every tag
of the Hewer (06 R243): the core behind the push is not the core before it, past the instruction. -/

/-- ST w3, [0xCA003]: a push to TX_PUSH. -/
def pushForm : MemForm := .lm ⟨true, 3, 0, 0xCA003⟩

/-- A layout that gives Hewer 0 an ingress and an egress tap (bits 0 and 1 of word 32 of its section 2). -/
def ownTapLayout : Layout := { Layout.blank with sections := [⟨2, 0, List.replicate 32 0 ++ [3]⟩] }

/-- A frame of Hewer 0's egress tap (source 16): 60 octets stored in a cell, its consumer set fixed, its EOF not yet pushed. -/
def ownTapFrame : Frame :=
  { Frame.blank 5 16 (List.replicate 60 0x5A) with chain := [0], arrived := 30, decided := true }

/-- A Hewer that builds this frame and waits in the push of w3, a word of two octets with EOF; its w5 is green. -/
def pushingHewer : Hewer :=
  { Hewer.reset with
    st := .running
    tx := { TxTap.reset with building := some 5 }
    eng := { Eng.reset with
      core := { Core.reset with w := vset Core.reset.w 3 0x20041, tag := 0x20 }
      stall := some ⟨.push, .st (.hewer 0) pushForm, 0, none⟩ } }

/-- A powered device in which Hewer 0 is that Hewer, and the frame it builds is the head of its own ingress tap. -/
def ownTapPush : State :=
  { State.reset with
    pwr := { State.reset.pwr with held := none, islOn := BitVec.allOnes 56 }
    lay := { State.reset.lay with active := some ownTapLayout }
    lnd := { State.reset.lnd with frames := [ownTapFrame], nextId := 6, queue := vset State.reset.lnd.queue (tapQ 0) [5] }
    hw := vset State.reset.hw 0 pushingHewer }

/-- Nothing but its own wait keeps the Hewer. -/
theorem waits_ownTapPush : ownTapPush.Waits 0 .push (.st (.hewer 0) pushForm) 0 true where
  stall := ⟨none, rfl⟩
  runs := by decide
  cpu := by decide
  due := by decide
  fetch := by decide

/-- The tap takes the word: the frame it builds has its SOF, and its cell has room. -/
theorem txPush_ownTapPush :
    ∃ w, ((ownTapPush.billStall (.hewer 0)).unstalled (.hewer 0) 0).txPush (.hewer 0) 0x20041 false = .ok () w := ⟨_, rfl⟩

/-- The end of the push: w5 has lost its tag. -/
theorem tag_pushStallEnd_ownTapPush :
    ∃ t, exec (.pushStallEnd 0) ownTapPush = .next t ∧ t.hw[(0 : Fin 16)].eng.core.tag = 0 := ⟨_, rfl, by decide +kernel⟩

/-- Refutes O16: its clause on the end of a push says that the core is what it was, past the instruction. Where the word pushed ends a
frame that is the head of the Hewer's own ingress tap, its verdict clears every tag (06 R243). -/
theorem not_ahfWaitsEnd : ¬ Obligations.AhfWaitsEnd := by
  unfold Obligations.AhfWaitsEnd
  intro h
  obtain ⟨-, -, -, -, accesses, -⟩ := h
  obtain ⟨-, -, -, -, -, push, -⟩ := accesses ownTapPush 0 pushForm 0
  obtain ⟨w, hw⟩ := txPush_ownTapPush
  obtain ⟨t, ht, ⟨hcore, -⟩, -⟩ := push w waits_ownTapPush (by decide) (by decide) hw
  obtain ⟨u, hu, htag⟩ := tag_pushStallEnd_ownTapPush
  obtain rfl : t = u := Host.Outcome.next.inj (ht.symm.trans hu)
  rw [hcore] at htag
  exact absurd htag (by decide)

end Sys2Proof.Machine

namespace Sys2Proof.Machine

/-! What the Landing, the two-wire buses, the Chutes and an island's reset leave alone (04 R177; 22 R800, survival matrix): the planes, the
plans, the pins, updates, power and flash. An operation keeps its bedrock by one equation, which `simp` carries through the
operations built on it. -/

/-- The parts of the device that neither the passage of a frame nor an island's reset reaches. -/
structure Bedrock where
  lay   : Lay
  plans : Plans
  pins  : Pins
  upd   : Upd
  pwr   : Pwr
  flash : Flash

def State.bedrock (s : State) : Bedrock := ⟨s.lay, s.plans, s.pins, s.upd, s.pwr, s.flash⟩

section
variable {s t : State} (h : t.bedrock = s.bedrock)
include h

theorem lay_of_bedrock : t.lay = s.lay := congrArg Bedrock.lay h
theorem pins_of_bedrock : t.pins = s.pins := congrArg Bedrock.pins h
theorem pwr_of_bedrock : t.pwr = s.pwr := congrArg Bedrock.pwr h
theorem upd_of_bedrock : t.upd = s.upd := congrArg Bedrock.upd h
theorem flash_of_bedrock : t.flash = s.flash := congrArg Bedrock.flash h

end

theorem Quiet.bedrock {s t : State} (q : Quiet s t) : t.bedrock = s.bedrock := by
  simp only [State.bedrock, q.lay, q.plans, q.pins, q.upd, q.pwr, q.flash]

@[simp] theorem ite_bedrock {c : Prop} [Decidable c] (t u : State) :
    (if c then t else u).bedrock = if c then t.bedrock else u.bedrock := apply_ite State.bedrock c t u

/-- What each step of a fold keeps, the fold keeps. -/
theorem foldl_keeps {σ α β : Type} {π : σ → β} {f : σ → α → σ} (h : ∀ s x, π (f s x) = π s) (l : List α) (s : σ) :
    π (l.foldl f s) = π s := by
  induction l generalizing s with
  | nil => rfl
  | cons x l ih => rw [List.foldl_cons, ih, h]

theorem foldl_bedrock {α : Type} {f : State → α → State} (h : ∀ s x, (f s x).bedrock = s.bedrock) (l : List α) (s : State) :
    (l.foldl f s).bedrock = s.bedrock := foldl_keeps h l s

section
variable (s : State)

/-! Single fields. -/

@[simp] theorem modSbu_bedrock (f : Sbu → Sbu) : (s.modSbu f).bedrock = s.bedrock := rfl
@[simp] theorem modAct_bedrock (a : ActId) (f : Activity → Activity) : (s.modAct a f).bedrock = s.bedrock := rfl
@[simp] theorem modHw_bedrock (n : Fin 16) (f : Hewer → Hewer) : (s.modHw n f).bedrock = s.bedrock := rfl
@[simp] theorem modRegs_bedrock (n : Fin 16) (f : HewerRegs → HewerRegs) : (s.modRegs n f).bedrock = s.bedrock := rfl
@[simp] theorem modCtx_bedrock (h : Fin 4) (f : ChuteCtx → ChuteCtx) : (s.modCtx h f).bedrock = s.bedrock := rfl
@[simp] theorem modChan_bedrock (c : Fin 168) (f : Channel → Channel) : (s.modChan c f).bedrock = s.bedrock := rfl
@[simp] theorem modLnd_bedrock (f : Lnd → Lnd) : (s.modLnd f).bedrock = s.bedrock := rfl
@[simp] theorem modFrame_bedrock (id : Nat) (f : Frame → Frame) : (s.modFrame id f).bedrock = s.bedrock := rfl
@[simp] theorem modPort_bedrock (p : Fin 6) (f : EthPort → EthPort) : (s.modPort p f).bedrock = s.bedrock := rfl
@[simp] theorem modGrd_bedrock (f : Grd → Grd) : (s.modGrd f).bedrock = s.bedrock := rfl
@[simp] theorem modTwb_bedrock (b : Fin 3) (f : Twb → Twb) : (s.modTwb b f).bedrock = s.bedrock := rfl
@[simp] theorem modTreads_bedrock (f : Fin 4) (g : Tread → Tread) : (s.modTreads f g).bedrock = s.bedrock := by
  simp only [State.bedrock, State.modTreads]
@[simp] theorem modFlight_bedrock (f : Fin 4) (g : Flight → Flight) : (s.modFlight f g).bedrock = s.bedrock := rfl
@[simp] theorem drawn_bedrock : s.drawn.bedrock = s.bedrock := rfl
@[simp] theorem lsrc_bedrock (n i : Fin 16) : (s.lsrc n i).bedrock = s.bedrock := rfl
@[simp] theorem wsrc_bedrock (i : Fin 16) : (s.wsrc i).bedrock = s.bedrock := rfl

/-! Events, counts and records. -/

@[simp] theorem satEvent_bedrock {w : Nat} (c : BitVec w) (k : Nat) : (s.satEvent c k).bedrock = s.bedrock := (quiet_satEvent c k s).bedrock
@[simp] theorem raise_bedrock (e : EventId) : (s.raise e).bedrock = s.bedrock := (quiet_raise s e).bedrock
@[simp] theorem raiseIf_bedrock (b : Bool) (e : EventId) : (s.raiseIf b e).bedrock = s.bedrock := (quiet_raiseIf s b e).bedrock
@[simp] theorem heldInc_bedrock (a : ActId) : (s.heldInc a).bedrock = s.bedrock := (quiet_heldInc s a).bedrock
@[simp] theorem logRec_bedrock (type : BitVec 8) (arg : Nat) (payload : List Word) : (s.logRec type arg payload).bedrock = s.bedrock :=
  (quiet_logRec s type arg payload).bedrock

@[simp] theorem tally_bedrock (p : Fin 6) (i k : Nat) : (s.tally p i k).bedrock = s.bedrock := by simp [State.tally]
@[simp] theorem ltally_bedrock (i : Nat) : (s.ltally i).bedrock = s.bedrock := by simp [State.ltally]
@[simp] theorem gcount_bedrock (i : Nat) : (s.gcount i).bedrock = s.bedrock := by simp [State.gcount]
@[simp] theorem glDrop_bedrock (n : Fin 16) : (s.glDrop n).bedrock = s.bedrock := by simp [State.glDrop]

/-! Queues, cells and taps (12; 05 R201-R209). -/

@[simp] theorem effect_bedrock (e : GoodEffect) : (s.effect e).bedrock = s.bedrock := by
  cases e <;> simp [State.effect]

@[simp] theorem whenGood_bedrock (id : Nat) (es : List GoodEffect) : (s.whenGood id es).bedrock = s.bedrock := by
  unfold State.whenGood
  split
  · rfl
  · split
    · exact modFrame_bedrock ..
    · split
      · exact foldl_bedrock effect_bedrock es s
      · rfl

@[simp] theorem bufferNote_bedrock : s.bufferNote.bedrock = s.bedrock := by
  simp [State.bufferNote]

@[simp] theorem txDone_bedrock (f : Frame) : (s.txDone f).bedrock = s.bedrock := by
  simp [State.txDone]

@[simp] theorem reap_bedrock : s.reap.bedrock = s.bedrock := by
  simp [State.reap, foldl_bedrock txDone_bedrock]

@[simp] theorem leave_bedrock (q : Fin 80) (id : Nat) : (s.leave q id).bedrock = s.bedrock := modLnd_bedrock ..

@[simp] theorem leaveAll_bedrock (id : Nat) (keep : Fin 80 → Bool) : (s.leaveAll id keep).bedrock = s.bedrock :=
  foldl_bedrock (fun s q => by simp) _ s

theorem chainCells_bedrock (id n : Nat) : (s.chainCells id n).2.bedrock = s.bedrock := by
  induction n generalizing s with
  | zero => rfl
  | succ n ih =>
    by_cases h : s.freeCells = 0
    · exact congrArg (fun r : Bool × State => r.2.bedrock) (if_pos h)
    · refine (congrArg (fun r : Bool × State => r.2.bedrock) (if_neg h)).trans ?_
      cases freeCell s.usedCells (s.freeVal 14) with
      | none => rfl
      | some c => exact ih _

@[simp] theorem newHead_bedrock (n : Fin 16) : (s.newHead n).bedrock = s.bedrock := by
  unfold State.newHead
  split <;> simp

@[simp] theorem newHeads_bedrock (was : Vector (Option Nat) 16) : (s.newHeads was).bedrock = s.bedrock :=
  foldl_bedrock (fun s n => by simp) _ s

@[simp] theorem giveSeq_bedrock (t : Fin 17) (id : Nat) : (s.giveSeq t id).bedrock = s.bedrock := rfl

@[simp] theorem join_bedrock (q : Fin 80) (id : Nat) : (s.join q id).bedrock = s.bedrock := by
  simp [State.join]

@[simp] theorem refuse_bedrock (q : Fin 80) (mirror : Bool) (id : Nat) : (s.refuse q mirror id).bedrock = s.bedrock := by
  simp [State.refuse]

@[simp] theorem offer_bedrock (id : Nat) (qs : List (Fin 80 × Bool)) : (s.offer id qs).bedrock = s.bedrock :=
  foldl_bedrock (fun s x => by simp) _ s

@[simp] theorem emptySet_bedrock (id : Nat) (es : List GoodEffect) : (s.emptySet id es).bedrock = s.bedrock := by
  simp [State.emptySet]

/-! Classification (12 R446-R454; 13). -/

@[simp] theorem fix_bedrock (id : Nat) (g : Graded) : (s.fix id g).bedrock = s.bedrock := by
  unfold State.fix
  split
  · rfl
  · lift_lets
    extract_lets L r w9 arr late ts s1 s2 refused vid dst stream dec s3 d s4 ports mir mp useMir tc qs s5 s6
    clear_value dec
    have h2 : s2.bedrock = s.bedrock := by simp [s2, s1]
    have h3 : s3.bedrock = s.bedrock := by
      simp only [s3]
      split <;> simp [h2]
    split
    · simp [h2]
    · split <;> simp [h2, h3, s6, s5, s4]

@[simp] theorem classify_bedrock (id : Nat) (g : Graded) : (s.classify id g).bedrock = s.bedrock := by
  unfold State.classify
  dsimp only
  split
  · rfl
  · split <;> simp

@[simp] theorem place_bedrock (id : Nat) (ended : Bool) : (s.place id ended).bedrock = s.bedrock := by
  unfold State.place
  dsimp only
  split
  · rfl
  · simp

theorem storeTo_bedrock (id n : Nat) : (s.storeTo id n).2.bedrock = s.bedrock := by
  unfold State.storeTo
  split
  · rfl
  · simp [chainCells_bedrock]

/-! Verdicts (08 R314-R326; 13 R506-R510). -/

@[simp] theorem resolveCq_bedrock (n : Fin 16) (good : Bool) : (s.resolveCq n good).bedrock = s.bedrock := by
  have refund (s : State) (e : CqEntry) : (s.refund n e).bedrock = s.bedrock := by
    unfold State.refund State.giveBack
    split
    · split <;> simp
    · rfl
  unfold State.resolveCq
  split
  · simp
  · simp [foldl_bedrock refund]

@[simp] theorem verdictAt_bedrock (n : Fin 16) (good : Bool) : (s.verdictAt n good).bedrock = s.bedrock := by
  simp [State.verdictAt]

@[simp] theorem stompTx_bedrock (p : Fin 6) : (s.stompTx p).bedrock = s.bedrock := by
  unfold State.stompTx
  split
  · rfl
  · split <;> simp

@[simp] theorem greenStomp_bedrock (id : Nat) : (s.greenStomp id).bedrock = s.bedrock := by
  unfold State.greenStomp
  split
  · simp
  · rfl

@[simp] theorem countRx_bedrock (p : Fin 6) (f : Frame) (errs : BitVec 8) (align lost : Bool) :
    (s.countRx p f errs align lost).bedrock = s.bedrock := by
  unfold State.countRx
  cases f.macDrop <;> simp

@[simp] theorem offcutWrite_bedrock (k : OfcKey) (rule : Option (BitVec 11)) : (s.offcutWrite k rule).bedrock = s.bedrock := by
  unfold State.offcutWrite
  dsimp only
  split <;> simp

@[simp] theorem offcutLast_bedrock (k : OfcKey) : (s.offcutLast k).bedrock = s.bedrock := by
  unfold State.offcutLast
  split <;> simp

@[simp] theorem passOffcut_bedrock (f : Frame) : (s.passOffcut f).bedrock = s.bedrock := by
  unfold State.passOffcut
  split <;> simp

@[simp] theorem frerRecord_bedrock (k : Nat) (n : BitVec 16) : (s.frerRecord k n).bedrock = s.bedrock := by
  simp [State.frerRecord]

@[simp] theorem passTables_bedrock (f : Frame) : (s.passTables f).bedrock = s.bedrock := by
  unfold State.passTables
  cases f.ltHit <;> dsimp only <;> split <;> simp

@[simp] theorem learn_bedrock (p : Nat) (mac : BitVec 48) (vid : BitVec 12) : (s.learn p mac vid).bedrock = s.bedrock := by
  unfold State.learn
  dsimp only
  split
  · split <;> simp
  · split
    · rfl
    · simp

@[simp] theorem goodTables_bedrock (f : Frame) : (s.goodTables f).bedrock = s.bedrock := by
  simp [State.goodTables]

@[simp] theorem egressBad_bedrock (id : Nat) : (s.egressBad id).bedrock = s.bedrock := by
  simp [State.egressBad, foldl_bedrock stompTx_bedrock]

@[simp] theorem resolveBound_bedrock (id : Nat) (good : Bool) : (s.resolveBound id good).bedrock = s.bedrock :=
  foldl_bedrock (fun s f => by simp) _ s

@[simp] theorem windowKnown_bedrock (id : Nat) : (s.windowKnown id).bedrock = s.bedrock := modFrame_bedrock ..

@[simp] theorem lateGood_bedrock (id : Nat) : (s.lateGood id).bedrock = s.bedrock := by
  unfold State.lateGood
  split
  · rfl
  · simp [apply_dite State.bedrock]

@[simp] theorem unhold_bedrock (f : Frame) : (s.unhold f).bedrock = s.bedrock := by
  unfold State.unhold
  dsimp only
  split <;> simp

@[simp] theorem wake_bedrock (id : Nat) (good : Bool) : (s.wake id good).bedrock = s.bedrock := by
  unfold State.wake
  refine (foldl_bedrock (fun s f => ?_) _ _).trans (modGrd_bedrock ..)
  split
  · simp
  · dsimp only
    split
    · split
      · simp
      · split <;> simp
    · rfl
  · rfl

/-! The Warden port (12 R459, R461; 03 R111). -/

theorem budgetTest_bedrock (p : SwPort) (f : Frame) (n : Nat) : (s.budgetTest p f n).2.bedrock = s.bedrock := by
  unfold State.budgetTest
  split
  · rfl
  · split
    · rfl
    · split <;> simp

theorem wardenCand_bedrock (t : Fin 8) : (s.wardenCand t).2.bedrock = s.bedrock := by
  unfold State.wardenCand
  split
  · rfl
  · split
    · split
      · exact budgetTest_bedrock ..
      · rfl
    · rfl

theorem pick_bedrock (p : SwPort) (need : Fin 8 → Option Nat) : (s.pick p need).2.bedrock = s.bedrock := by
  unfold State.pick
  lift_lets
  extract_lets L q strict d
  split
  · rfl
  · split
    · rfl
    · generalize weigh strict need (fun t => L.quantum (q t)) 10000 s.lnd.cur[p] d = w
      obtain ⟨t, cur, d⟩ := w
      rfl

@[simp] theorem chargeStart_bedrock (p : SwPort) (f : Frame) (n : Nat) : (s.chargeStart p f n).bedrock = s.bedrock := by
  unfold State.chargeStart
  split
  · exact modSbu_bedrock ..
  · rfl

@[simp] theorem presentWarden_bedrock : s.presentWarden.bedrock = s.bedrock := by
  unfold State.presentWarden
  split
  · rfl
  · split
    next cs u hu =>
    have hub : u.bedrock = s.bedrock := by
      rw [show u = _ from (congrArg Prod.snd hu).symm]
      exact foldl_keeps (π := fun a : List (Option Frame) × State => a.2.bedrock) (fun acc t => wardenCand_bedrock acc.2 t) _ ([], s)
    split
    next t v hv =>
    have hvb : v.bedrock = s.bedrock := by rw [← hub, ← pick_bedrock u, hv]
    split
    · exact hvb
    · split
      · exact hvb
      · simp [hvb]

@[simp] theorem verdictFor_bedrock (id : Nat) (v : Word) : (s.verdictFor id v).bedrock = s.bedrock := by
  unfold State.verdictFor
  split
  · rfl
  · next f _ =>
    have atTap (s : State) (n : Fin 16) (good : Bool) : (match s.rxHead n with
        | some h => if h.id = id then s.verdictAt n good else s
        | none => s).bedrock = s.bedrock := by
      split <;> simp
    lift_lets
    extract_lets good held s1 s2 s3 s4 s5
    have h4 : s4.bedrock = s.bedrock := by
      simp [s4, s3, s2, s1, foldl_bedrock effect_bedrock]
    have h5 : s5.bedrock = s4.bedrock := foldl_bedrock (fun s n => atTap s n good) _ s4
    simp [h5, h4]

theorem tapWord_bedrock (f : Frame) : (s.tapWord f).2.bedrock = s.bedrock := by
  unfold State.tapWord
  split <;> rfl

@[simp] theorem settleTaps_bedrock (fuel : Nat) : (s.settleTaps fuel).bedrock = s.bedrock := by
  induction fuel generalizing s with
  | zero => rfl
  | succ fuel ih =>
    unfold State.settleTaps
    split
    · rfl
    · rw [ih, verdictFor_bedrock, tapWord_bedrock]

@[simp] theorem giveVerdict_bedrock (id : Nat) (v : Word) : (s.giveVerdict id v).bedrock = s.bedrock := by
  simp [State.giveVerdict]

/-! Storing, and the ends of frames (12 R441, R453; 08 R315, R316, R331, R332). -/

@[simp] theorem noBuffer_bedrock (id : Nat) : (s.noBuffer id).bedrock = s.bedrock := by
  unfold State.noBuffer
  lift_lets
  split
  · rfl
  · lift_lets
    extract_lets s1 s2 s3 s4
    have h4 : s4.bedrock = s.bedrock := by simp [s4, s3, s2, s1, apply_dite State.bedrock]
    split
    · exact h4
    · rw [giveVerdict_bedrock, h4]

@[simp] theorem beginTx_bedrock (p : Fin 6) (q : Fin 80) (f : Frame) (tries : Nat) : (s.beginTx p q f tries).bedrock = s.bedrock := by
  simp [State.beginTx]

@[simp] theorem goEarly_bedrock (j : Fin 6) (id : Nat) (t : Fin 8) : (s.goEarly j id t).bedrock = s.bedrock := by
  unfold State.goEarly
  split
  · rfl
  · simp

@[simp] theorem endEarly_bedrock (j : Fin 6) (id lag : Nat) : (s.endEarly j id lag).bedrock = s.bedrock := by
  simp [State.endEarly]

@[simp] theorem settleEarly_bedrock (p : Fin 6) (id need : Nat) : (s.settleEarly p id need).bedrock = s.bedrock := by
  unfold State.settleEarly
  split
  · rfl
  · split
    · rfl
    · refine foldl_bedrock (fun s j => ?_) _ s
      split <;> simp

@[simp] theorem enter_bedrock (p : Fin 6) (id : Nat) (ended : Bool) : (s.enter p id ended).bedrock = s.bedrock := by
  unfold State.enter
  split
  · rfl
  · simp

theorem endRx_bedrock (p : Fin 6) (id : Nat) (lost : Bool) : (s.endRx p id lost).2.bedrock = s.bedrock := by
  unfold State.endRx
  simp [storeTo_bedrock]

@[simp] theorem loseRx_bedrock (p : Fin 6) : (s.loseRx p).bedrock = s.bedrock := by
  refine foldl_bedrock (fun s id => ?_) _ s
  split
  next ok u hu =>
  have hub : u.bedrock = s.bedrock := by
    rw [show u = _ from (congrArg Prod.snd hu).symm, endRx_bedrock, modPort_bedrock]
  split
  · split <;> simp [hub]
  · exact hub

/-! Links (11 R410, R411, R874). -/

@[simp] theorem txLost_bedrock (p : Fin 6) : (s.txLost p).bedrock = s.bedrock := by
  unfold State.txLost
  split
  · rfl
  · dsimp only
    split <;> simp [State.txStomped]

@[simp] theorem linkRestart_bedrock (p : Fin 6) : (s.linkRestart p).bedrock = s.bedrock := by
  simp [State.linkRestart, State.setLink]

@[simp] theorem loseFrames_bedrock : s.loseFrames.bedrock = s.bedrock := by
  unfold State.loseFrames
  lift_lets
  extract_lets ports hws s1 s2
  refine (modLnd_bedrock ..).trans ((foldl_bedrock (fun s n => ?_) _ _).trans rfl)
  split
  · simp
  · rfl

@[simp] theorem installStatics_bedrock : s.installStatics.bedrock = s.bedrock := by
  refine (foldl_bedrock (fun s e => ?_) _ _).trans (modLnd_bedrock ..)
  dsimp only
  split
  · simp
  · simp
  · split <;> simp

/-! Chutes and engines that become unavailable (18 R660, R661). -/

@[simp] theorem abortTowards_bedrock (e : ChuteEnd) : (s.abortTowards e).bedrock = s.bedrock := by
  have notice (s : State) (c : Fin 168) : (s.noticeAborted c).bedrock = s.bedrock := by
    unfold State.noticeAborted
    split <;> simp
  exact foldl_bedrock (fun s c => by simp [State.abortChan, State.withdrawBell, notice]) _ s

theorem losing_bedrock (e : ChuteEnd) {f : State → State} (h : (f s).bedrock = s.bedrock) : (s.losing e f).bedrock = s.bedrock := by
  simp [State.losing, h]

@[simp] theorem hewerTo_bedrock (n : Fin 16) (st : HewerState) : (s.hewerTo n st).bedrock = s.bedrock :=
  losing_bedrock s _ (modHw_bedrock ..)

/-! Two-wire buses that lose their owner (16 R598, R613). -/

@[simp] theorem twbCount_bedrock (b : Fin 3) (i : Fin 5) : (s.twbCount b i).bedrock = s.bedrock := by simp [State.twbCount]

@[simp] theorem twbResult_bedrock (b : Fin 3) (attn : Bool) (count : Nat) (status : BitVec 4) :
    (s.twbResult b attn count status).bedrock = s.bedrock := by simp [State.twbResult, State.twbCause]

@[simp] theorem twbAborted_bedrock (b : Fin 3) (n : Nat) : (s.twbAborted b n).bedrock = s.bedrock := by
  induction n generalizing s with
  | zero => rfl
  | succ n ih => rw [State.twbAborted, ih, twbResult_bedrock]

@[simp] theorem twbEmpty_bedrock (b : Fin 3) : (s.twbEmpty b).bedrock = s.bedrock := by simp [State.twbEmpty]

@[simp] theorem twbEnd_bedrock (b : Fin 3) (status : BitVec 4) (count : Nat) : (s.twbEnd b status count).bedrock = s.bedrock := by
  unfold State.twbEnd
  dsimp only
  split <;> simp

@[simp] theorem twbOwnerLoss_bedrock (b : Fin 3) : (s.twbOwnerLoss b).bedrock = s.bedrock := by
  have cut (s : State) : (s.twbCut b).bedrock = s.bedrock := by
    unfold State.twbCut
    dsimp only
    split <;> simp
  simp [State.twbOwnerLoss, State.twbFlush, State.twbDropAttn, cut]

/-- A Hewer that faults without an image (05 R224). -/
theorem hewerFault_load_bedrock (n : Fin 16) : (s.hewerFault n 4).bedrock = s.bedrock := by
  unfold State.hewerFault
  lift_lets
  extract_lets s1 s2 s3
  rw [if_neg fun h => h.2 rfl, foldl_bedrock fun s b => by simp]
  simp [s3, s2, s1]

/-! Islands (22 R800; 04 R177). -/

theorem bedrock_of_ite {c : Prop} [Decidable c] {t u : State} {b : Bedrock} (ht : t.bedrock = b) (hu : u.bedrock = b) :
    (if c then t else u).bedrock = b := by rw [ite_bedrock, ht, hu, ite_self]

@[simp] theorem pReset_bedrock (i : Fin 56) : (s.pReset i).bedrock = s.bedrock := by
  have lost (n : Fin 16) : (s.losing (.hewer n) fun s => s.modHw n fun _ => Hewer.reset).bedrock = s.bedrock :=
    losing_bedrock s (.hewer n) (modHw_bedrock s n _)
  have canReset (k : Nat) (s : State) (c : Fin 4) :
      (if c.val / 2 = k then s.modCan c fun _ => Can.reset else s).bedrock = s.bedrock := bedrock_of_ite rfl rfl
  have net (s : State) (l : Lnd) (e : Eth) : ({ s with lnd := l, eth := e } : State).bedrock = s.bedrock := rfl
  unfold State.pReset
  dsimp only
  refine bedrock_of_ite rfl (bedrock_of_ite ?hewer (bedrock_of_ite (bedrock_of_ite rfl rfl) (bedrock_of_ite (loseFrames_bedrock s)
    (bedrock_of_ite ?landing (bedrock_of_ite rfl (bedrock_of_ite rfl (bedrock_of_ite ?flight (bedrock_of_ite ?phy (bedrock_of_ite ?mac
    (bedrock_of_ite ?serdes (bedrock_of_ite (foldl_bedrock (canReset _) _ s) ?others)))))))))))
  case hewer => simp [lost]
  case landing => rw [installStatics_bedrock, net, loseFrames_bedrock]
  case flight => simp [State.unparkAct]
  case phy => simp
  case mac => simp
  case serdes => simp
  case others =>
    exact bedrock_of_ite rfl (bedrock_of_ite (bedrock_of_ite rfl rfl)
      (bedrock_of_ite rfl (bedrock_of_ite rfl (bedrock_of_ite rfl (bedrock_of_ite rfl rfl)))))

end

/-! Islands powered up (22 R800; 04 R153, R155). -/

theorem getLsbD_setBit {w : Nat} (x : BitVec w) (i j : Nat) (b : Bool) :
    (setBit x i b).getLsbD j = if j = i then (b && decide (i < w)) else x.getLsbD j := by
  have one : (1#w <<< i).getLsbD j = (decide (j = i) && decide (i < w)) := by
    simp only [BitVec.getLsbD_shiftLeft, BitVec.getLsbD_one, ← Bool.decide_and, ← decide_not, decide_eq_decide]
    omega
  rcases Nat.lt_or_ge j w with hj | hj
  · cases b <;> simp only [setBit, BitVec.getLsbD_or, BitVec.getLsbD_and, BitVec.getLsbD_not, one, Bool.false_eq_true, if_true, if_false]
    all_goals
      by_cases h : j = i
      · subst h; simp [hj]
      · simp [h, hj]
  · simp only [BitVec.getLsbD_of_ge _ j hj]
    split
    · next h => simp [← h, Nat.not_lt.mpr hj]
    · rfl

/-- Once one element of a list makes a property true that no element unmakes, the fold has it. -/
theorem foldl_reaches {σ α : Type} {P : σ → Prop} {f : σ → α → σ} (stays : ∀ s y, P s → P (f s y)) {x : α} (made : ∀ s, P (f s x))
    {l : List α} (h : x ∈ l) (s : σ) : P (l.foldl f s) := by
  induction l generalizing s with
  | nil => cases h
  | cons y l ih =>
    rcases List.mem_cons.mp h with rfl | h
    · exact List.foldlRecOn l f (made s) fun t ht z _ => stays t z ht
    · exact ih h _

/-- An island that comes up is on, no other goes off; planes and pins are as they were. -/
theorem islandUp_keeps (s : State) (i : Fin 56) :
    (s.islandUp i).lay = s.lay ∧ (s.islandUp i).pins = s.pins ∧ (s.islandUp i).pwr.islOn = setBit s.pwr.islOn i.val true := by
  unfold State.islandUp
  extract_lets t
  have reset : t.bedrock = _ := pReset_bedrock (s.modPwr fun p => { p with islOn := setBit p.islOn i.val true }) i
  have lay := lay_of_bedrock reset
  have pins := pins_of_bedrock reset
  have pwr := pwr_of_bedrock reset
  split
  · exact ⟨lay, pins, congrArg Pwr.islOn pwr⟩
  · have raised := raise_bedrock t evIslandReady
    exact ⟨(lay_of_bedrock raised).trans lay, (pins_of_bedrock raised).trans pins, congrArg Pwr.islOn ((pwr_of_bedrock raised).trans pwr)⟩

theorem islandUp_on (s : State) (i : Fin 56) (j : Nat) : (s.islandUp i).islandOn j = (s.islandOn j || decide (j = i.val)) := by
  rw [State.islandOn, (islandUp_keeps s i).2.2, bit, getLsbD_setBit]
  by_cases h : j = i.val <;> simp [h, State.islandOn, bit]

@[simp] theorem powerMarked_lay (L : Layout) (s : State) : (s.powerMarked L).lay = s.lay :=
  foldl_keeps (π := State.lay) (fun s i => by simp [apply_ite State.lay, (islandUp_keeps s i).1]) _ s

/-- Every island that the layout marks is on once the marked ones are powered up (04 R153, R155). -/
theorem powerMarked_on (L : Layout) (s : State) {i : Fin 56} (h : L.marks i.val = true) : (s.powerMarked L).islandOn i.val = true := by
  refine foldl_reaches (P := fun s => s.islandOn i.val = true) (fun s j on => ?_) (fun s => ?_) (List.mem_finRange i) s
  · split
    · rw [islandUp_on, on, Bool.true_or]
    · exact on
  · by_cases on : s.islandOn i.val = true
    · simp [on]
    · simp [h, on, islandUp_on]

end Sys2Proof.Machine

namespace Sys2Proof.Machine

/-! Status bits of events (18 R674): raising sets one, and nothing that raising does clears another. -/

section
variable {s : State} {k : Nat} (h : s.evt.status.getLsbD k = true)
include h

theorem mark_keeps_status (e : EventId) : (s.mark e).evt.status.getLsbD k = true := by
  simp [State.mark, getLsbD_setBit, h]

theorem satEvent_keeps_status {w : Nat} (c : BitVec w) (n : Nat) : (s.satEvent c n).evt.status.getLsbD k = true := by
  unfold State.satEvent
  split
  · exact mark_keeps_status h evTallySat
  · exact h

theorem hold_keeps_status (d : HeldDelivery) : (s.hold d).evt.status.getLsbD k = true := by
  unfold State.hold
  split
  · exact h
  · exact satEvent_keeps_status (s := State.modSbu _ (s.modSbu _)) h _ 1

end

theorem occur_status (s : State) (e : EventId) : (s.occur e).evt.status.getLsbD e.val = true := by
  have marked : (s.mark e).evt.status.getLsbD e.val = true := by
    simp [State.mark, getLsbD_setBit]
  unfold State.occur
  dsimp only
  split
  · exact marked
  · exact satEvent_keeps_status marked _ 1

/-- An event raised by hardware shows in its status bit. -/
theorem raise_status (s : State) (e : EventId) : (s.raise e).evt.status.getLsbD e.val = true := occur_status s e

/-- So does one that an activity raises, delivered or held (R682). -/
theorem raiseBy_status (s : State) (a : ActId) (e : EventId) : (s.raiseBy a e).evt.status.getLsbD e.val = true := by
  unfold State.raiseBy
  dsimp only
  split
  · next t paid =>
    unfold State.payEvents at paid
    split at paid
    · cases paid
      exact occur_status s e
    · cases paid
  · exact hold_keeps_status (occur_status s e) _

@[simp] theorem logRec_evt (s : State) (type : BitVec 8) (arg : Nat) (payload : List Word) : (s.logRec type arg payload).evt = s.evt := by
  unfold State.logRec
  split <;> rfl

/-! Commands of the management interface (19 R713, R714): the answer stands last in the queue, and taking a command changes nothing that
the layouts, the scheduler or the checks look at. -/

theorem respond_answers (s : State) (src : CmdSource) (tag : BitVec 8) (code : BitVec 12) (status : Nat) (results : List Word) :
    (s.respond src tag code status results).Answers src tag code status results := by
  simp [State.Answers, State.respond]

section
variable (s : State) (src : CmdSource) (tag : BitVec 8) (code : BitVec 12) (status : Nat) (results : List Word)

@[simp] theorem respond_tb : (s.respond src tag code status results).tb = s.tb := rfl
@[simp] theorem respond_lay : (s.respond src tag code status results).lay = s.lay := rfl
@[simp] theorem respond_upd : (s.respond src tag code status results).upd = s.upd := rfl

end

/-- State `u` is `s` with a command taken. -/
structure Taken (s u : State) : Prop where
  tb      : u.tb = s.tb
  lay     : u.lay = s.lay
  flash   : u.flash = s.flash
  host    : u.host = s.host
  pwr     : u.pwr = s.pwr
  trial   : u.upd.trial = s.upd.trial
  session : u.wdn.session = s.wdn.session
  sens    : u.wdn.sens = s.wdn.sens

theorem taken_freeCommand (s : State) (src : CmdSource) : Taken s (s.freeCommand src) := by
  unfold State.freeCommand
  split
  · split <;> constructor <;> rfl
  · constructor <;> rfl

/-- A command that the Warden takes and may perform is performed on the state in which it is taken. -/
theorem completes_command {s : State} {src : CmdSource} {tag : BitVec 8} {code : BitVec 12} {f : State → State} {c : Instr}
    {Q : State → Prop} (h : s.Takes src) (hx : exec c s = .next (s.command src tag code f)) (hq : ∀ u, Taken s u → Q (f u)) :
    Completes c s Q := by
  obtain ⟨takes, session⟩ := h
  have k := taken_freeCommand s src
  refine ⟨_, hx, ?_⟩
  have allowed : ¬(src = .svp ∧ !(s.freeCommand src).wdn.session ∧ code ≠ 1) := fun ⟨svp, no, _⟩ => by
    rw [k.session, session svp] at no
    cases no
  rw [State.command, takes]
  simp only [Bool.not_true, Bool.false_eq_true, if_false, allowed]
  exact hq _ k

end Sys2Proof.Machine

namespace Sys2Proof.Machine

/-! The check phase (04 R148-R150): what it looks at, and what it leaves. -/

/-- The check's result rests on flash, the host strap, the islands' power and the rails alone. -/
theorem checkSlot_congr {s u : State} (k : Taken s u) (slot : Nat) : (u.checkSlot slot).1 = (s.checkSlot slot).1 := by
  have can (L : Layout) : u.islandsCan L = s.islandsCan L := by
    simp only [State.islandsCan, State.islandOn, k.pwr, k.sens]
  simp only [State.checkSlot, State.checkLayout, k.flash, k.host, can]
  split
  · rfl
  · split
    · rfl
    · cases (lateChecks s.flash (s.host.hsel == 0) (s.islandsCan _) _ _).fail <;> rfl

@[simp] theorem recordAdmit_bedrock (s : State) (a : Option (Option (Nat × Nat × Nat))) : (s.recordAdmit a).bedrock = s.bedrock := by
  unfold State.recordAdmit
  split <;> rfl

@[simp] theorem recordAdmit_tb (s : State) (a : Option (Option (Nat × Nat × Nat))) : (s.recordAdmit a).tb = s.tb := by
  unfold State.recordAdmit
  split <;> rfl

/-- A failed verification counts in the security island and is quiet otherwise. -/
theorem quiet_authFailed (s : State) : Quiet { s with sec := { s.sec with authFails := satInc s.sec.authFails } } s.authFailed :=
  (quiet_raise _ _).trans (quiet_logRec _ _ _ _)

@[simp] theorem authFailed_bedrock (s : State) : s.authFailed.bedrock = s.bedrock := (quiet_authFailed s).bedrock
@[simp] theorem authFailed_tb (s : State) : s.authFailed.tb = s.tb := (quiet_authFailed s).tb

theorem checkLayout_bedrock (s : State) (ps : List Placed) (L : Layout) : (s.checkLayout ps L).2.bedrock = s.bedrock := by
  simp [State.checkLayout]

theorem checkLayout_tb (s : State) (ps : List Placed) (L : Layout) : (s.checkLayout ps L).2.tb = s.tb := by
  simp [State.checkLayout, apply_ite State.tb]

theorem checkSlot_bedrock (s : State) (slot : Nat) : (s.checkSlot slot).2.bedrock = s.bedrock := by
  unfold State.checkSlot
  dsimp only
  split
  · rfl
  · split
    · simp
    · next ps L _ =>
      rw [← checkLayout_bedrock s ps L]
      split <;> rfl

/-- A refusal is recorded in LAY and nowhere else in the bedrock (R150). -/
theorem quiet_stageRefused (s : State) (slot : BitVec 3) (e : LayFail) :
    Quiet (s.modLay fun l => { l with code := BitVec.ofNat 5 e.code, word := BitVec.ofNat 20 e.word, slot := slot }) (s.stageRefused slot e) :=
  (quiet_logRec _ _ _ _).trans (quiet_raiseBy _ _ _)

theorem stageRefused_lay (s : State) (slot : BitVec 3) (e : LayFail) :
    (s.stageRefused slot e).lay = { s.lay with code := BitVec.ofNat 5 e.code, word := BitVec.ofNat 20 e.word, slot := slot } :=
  (quiet_stageRefused s slot e).lay

/-- LAYOUT_REJECT shows (R150). -/
theorem stageRefused_status (s : State) (slot : BitVec 3) (e : LayFail) : (s.stageRefused slot e).evt.status.getLsbD 13 = true :=
  raiseBy_status _ actWarden evLayoutReject

/-! The write phase (04 R151-R153). -/

theorem beginWrite_lay (s : State) (slot : BitVec 3) (L : Layout) (reply : Option (CmdSource × BitVec 8)) :
    (s.beginWrite slot L reply).lay =
      { s.lay with slot := slot, st := .writing, shadow := none, staging := some { slot := slot, layout := L, reply := reply } } := by
  simp [State.beginWrite, modLay_lay]

/-- The islands that the layout marks are on (R153). -/
theorem beginWrite_on (s : State) (slot : BitVec 3) (reply : Option (CmdSource × BitVec 8)) {L : Layout} {i : Fin 56} (h : L.marks i.val = true) :
    (s.beginWrite slot L reply).pwr.islOn.getLsbD i.val = true := powerMarked_on L s h

/-- The islands that the layout marks are claimed by the Warden (20, Warden claims). -/
theorem beginWrite_claims (s : State) (slot : BitVec 3) (reply : Option (CmdSource × BitVec 8)) {L : Layout} {i : Fin 56}
    (h : L.marks i.val = true) : (s.beginWrite slot L reply).sec.wclaim.getLsbD i.val = true := by
  refine foldl_reaches (P := fun m : BitVec 56 => m.getLsbD i.val = true) (fun m j hm => ?_) (fun m => ?_) (List.mem_range.mpr i.isLt) 0
  · rw [getLsbD_setBit]
    split
    · next e => simp [← e, h]
    · exact hm
  · simp [getLsbD_setBit, h]

/-! LAYOUT_STAGE (R148-R151; 21 R785). -/

theorem Taken.stageBusy {s u : State} (k : Taken s u) : u.stageBusy = s.stageBusy := by
  simp only [State.stageBusy, k.lay, k.tb]

section
variable {s : State} {src : CmdSource} {tag : BitVec 8} {slot : BitVec 3} (h : s.Takes src)
include h

/-- During a trial LAYOUT_STAGE is answered TRIAL (21 R785). -/
theorem layoutStage_trial (ht : s.upd.trial.isSome = true) :
    Completes (.layoutStage src tag slot) s (fun t => t.Answers src tag 0x10 19 [] ∧ t.lay = s.lay) :=
  completes_command h rfl fun u k => by
    simp only [k.trial, ht, if_true]
    exact ⟨respond_answers .., k.lay⟩

theorem layoutStage_busy (ht : s.upd.trial = none) (hb : s.stageBusy = true) :
    Completes (.layoutStage src tag slot) s (fun t =>
      t.Answers src tag 0x10 1 [] ∧ t.lay = { s.lay with code := 1, word := 0, slot := slot } ∧ t.evt.status.getLsbD 13 = true) :=
  completes_command h rfl fun u k => by
    simp only [k.trial, ht, Option.isSome_none, Bool.false_eq_true, if_false, k.stageBusy, hb, if_true]
    refine ⟨respond_answers .., ?_, stageRefused_status ..⟩
    rw [respond_lay, stageRefused_lay, k.lay]
    rfl

variable (ht : s.upd.trial = none) (hb : s.stageBusy = false)
include ht hb

/-- A slot that fails the check phase is refused with the failure's code, which LAY keeps (R148, R150). -/
theorem layoutStage_refused {f : LayFail} (hf : (s.checkSlot slot.toNat).1 = .inl f) :
    Completes (.layoutStage src tag slot) s (fun t => t.Answers src tag 0x10 f.code [] ∧
      t.lay = { s.lay with code := BitVec.ofNat 5 f.code, word := BitVec.ofNat 20 f.word, slot := slot } ∧
      t.evt.status.getLsbD 13 = true) :=
  completes_command h rfl fun u k => by
    have lay : (u.checkSlot slot.toNat).2.lay = s.lay := (lay_of_bedrock (checkSlot_bedrock u _)).trans k.lay
    rw [← checkSlot_congr k] at hf
    simp only [k.trial, ht, Option.isSome_none, Bool.false_eq_true, if_false, k.stageBusy, hb, hf]
    refine ⟨respond_answers .., ?_, stageRefused_status ..⟩
    rw [respond_lay, stageRefused_lay, lay]

/-- A slot that passes goes to the write phase (R151). -/
theorem layoutStage_passed {L : Layout} (hL : (s.checkSlot slot.toNat).1 = .inr L) :
    Completes (.layoutStage src tag slot) s (fun t =>
      t.lay.st = .writing ∧ t.lay.shadow = none ∧ t.lay.slot = slot ∧ t.lay.active = s.lay.active ∧
      t.lay.staging = some { slot := slot, layout := L, reply := some (src, tag) } ∧
      ∀ i : Fin 56, L.marks i.val = true → t.pwr.islOn.getLsbD i.val = true ∧ t.sec.wclaim.getLsbD i.val = true) :=
  completes_command h rfl fun u k => by
    have lay : (u.checkSlot slot.toNat).2.lay = s.lay := (lay_of_bedrock (checkSlot_bedrock u _)).trans k.lay
    rw [← checkSlot_congr k] at hL
    simp only [k.trial, ht, Option.isSome_none, Bool.false_eq_true, if_false, k.stageBusy, hb, hL, beginWrite_lay, lay, true_and]
    exact fun i m => ⟨beginWrite_on _ _ _ m, beginWrite_claims _ _ _ m⟩

end

theorem checkSlot_invalid {s : State} {slot : Nat} (h : (s.flash.slot 2 slot).st ≠ .valid) : (s.checkSlot slot).1 = .inl ⟨2, 0⟩ := by
  rw [State.checkSlot, if_pos h]

theorem staging_of_idle {s : State} (h : s.stageBusy = false) : s.lay.staging = none := by
  simp only [State.stageBusy, Bool.or_eq_false_iff, Option.isSome_eq_false_iff, Option.isNone_iff_eq_none] at h
  exact h.1

/-! Arming and cancelling (02 R63, R69; R157-R159). -/

theorem inRange_iff {target count : BitVec 40} :
    inRange target count = true ↔ 1 ≤ (target - count).toNat ∧ (target - count).toNat ≤ 2 ^ 39 := by
  simp [inRange]

section
variable {s : State} {n : Fin 16} {stroke needSync : Bool} {tgt : Vector Word 4}

theorem armWarden_sched : (s.armWarden n stroke needSync tgt).2.tb.sched[n] =
    ({ s.tb.sched[n] with action := 0, mask := 0, needSync := needSync, stroke := stroke, tgt := tgt } : Sched).arm .warden s.tb.stroke.count := by
  simp [State.armWarden]

theorem armWarden_ok : (s.armWarden n stroke needSync tgt).1 = ((s.armWarden n stroke needSync tgt).2.tb.sched[n].st == .pending) := rfl

/-- An entry whose target may be armed is PENDING (R63). -/
theorem armWarden_armed (h : stroke = false ∨ inRange (tgt[1] ++ tgt[0]) s.tb.stroke.count = true) :
    (s.armWarden n stroke needSync tgt).1 = true ∧ (s.armWarden n stroke needSync tgt).2.tb.sched[n] = armedEntry stroke needSync tgt := by
  have armed : (s.armWarden n stroke needSync tgt).2.tb.sched[n] = armedEntry stroke needSync tgt := by
    rw [armWarden_sched, Sched.arm, if_neg (by rcases h with h | h <;> simp [Sched.targetStroke, h])]
    rfl
  exact ⟨by rw [armWarden_ok, armed]; rfl, armed⟩

/-- A stroke target out of range leaves the entry's state as it was (R63). -/
theorem armWarden_refused (h : inRange (tgt[1] ++ tgt[0]) s.tb.stroke.count = false) (hp : s.tb.sched[n].st ≠ .pending) :
    (s.armWarden n true needSync tgt).1 = false ∧ (s.armWarden n true needSync tgt).2.tb.sched[n].st = s.tb.sched[n].st := by
  have same : (s.armWarden n true needSync tgt).2.tb.sched[n].st = s.tb.sched[n].st := by
    rw [armWarden_sched, Sched.arm, if_pos (by simp [Sched.targetStroke, h])]
  exact ⟨by rw [armWarden_ok, same]; simpa using hp, same⟩

end

/-- The next stroke can always be armed. -/
theorem inRange_nextStroke (s : State) : inRange (s.nextStroke[1] ++ s.nextStroke[0]) s.tb.stroke.count = true := by
  have next : s.nextStroke[1] ++ s.nextStroke[0] = s.tb.stroke.count + 1 := by
    show (fld (s.tb.stroke.count + 1) 20 20 ++ fld (s.tb.stroke.count + 1) 0 20 : BitVec 40) = _
    rw [fld_eq_extractLsb', fld_eq_extractLsb']
    exact BitVec.extractLsb'_append_extractLsb' (w := 20) (len := 20)
  rw [next, inRange_iff, show s.tb.stroke.count + 1 - s.tb.stroke.count = 1 by rw [BitVec.add_comm, BitVec.add_sub_cancel]]
  decide

/-! LAYOUT_ACTIVATE, LAYOUT_ACTIVATE_AT (R157-R159). -/

theorem Taken.activateRefusal {s u : State} (k : Taken s u) : u.activateRefusal = s.activateRefusal := by
  simp only [State.activateRefusal, k.trial, k.lay, k.tb]

theorem activateRefusal_none {s : State} (ht : s.upd.trial = none) (hv : s.lay.st = .valid) (hp : s.tb.sched[(0 : Fin 16)].st ≠ .pending) :
    s.activateRefusal = none := by
  simp only [State.activateRefusal, ht, hv, hp, Option.isSome_none, Bool.false_eq_true, ne_eq, not_true_eq_false, if_false]

section
variable {s : State} {src : CmdSource} {tag : BitVec 8} (h : s.Takes src)
include h

theorem layoutActivate_refused {k : Nat} (hr : s.activateRefusal = some k) :
    Completes (.layoutActivate src tag) s (fun t => t.Answers src tag 0x11 k [] ∧ t.tb = s.tb) :=
  completes_command h rfl fun u w => by
    simp only [w.activateRefusal, hr]
    exact ⟨respond_answers .., w.tb⟩

theorem layoutActivateAt_refused {k : Nat} (hr : s.activateRefusal = some k) (loc kind : Bool) (tgt : Vector Word 4) :
    Completes (.layoutActivateAt src tag loc kind tgt) s (fun t => t.Answers src tag 0x12 k [] ∧ t.tb = s.tb) :=
  completes_command h rfl fun u w => by
    simp only [w.activateRefusal, hr]
    exact ⟨respond_answers .., w.tb⟩

theorem layoutActivateCancel_pending (hp : s.tb.sched[(0 : Fin 16)].st = .pending) :
    Completes (.layoutActivateCancel src tag) s (fun t =>
      t.Answers src tag 0x12 0 [] ∧ t.tb.sched[(0 : Fin 16)].st = .aborted ∧ t.tb.sched[(0 : Fin 16)].reason = .cancelled ∧
      t.lay.abortCnt = satInc s.lay.abortCnt ∧ t.lay.abortReason = 3 ∧ t.upd.lay = none) :=
  completes_command h rfl fun u w => by
    simp only [w.tb, hp, if_true]
    refine ⟨respond_answers .., ?_⟩
    simp [State.cancelSched, State.countAbort, w.lay]

theorem layoutActivateCancel_idle (hp : s.tb.sched[(0 : Fin 16)].st ≠ .pending) :
    Completes (.layoutActivateCancel src tag) s (fun t => t.Answers src tag 0x12 0 [] ∧ t.tb = s.tb ∧ t.lay = s.lay) :=
  completes_command h rfl fun u w => by
    simp only [w.tb, hp, if_false]
    exact ⟨respond_answers .., w.tb, w.lay⟩

variable (hr : s.activateRefusal = none)
include hr

theorem layoutActivate_armed :
    let n := s.tb.stroke.count + 1
    Completes (.layoutActivate src tag) s (fun t => t.Answers src tag 0x11 0 [n.extractLsb' 0 20, n.extractLsb' 20 20, 0, 0] ∧
      t.tb.sched[(0 : Fin 16)] = armedEntry true false #v[n.extractLsb' 0 20, n.extractLsb' 20 20, 0, 0]) :=
  completes_command h rfl fun u w => by
    obtain ⟨ok, armed⟩ := armWarden_armed (s := u) (n := 0) (stroke := true) (needSync := false) (.inr (inRange_nextStroke u))
    simp only [w.activateRefusal, hr, ok, if_true]
    simp only [State.nextStroke, w.tb, fld_eq_extractLsb'] at armed ⊢
    exact ⟨respond_answers .., armed⟩

theorem layoutActivateAt_armed {loc kind : Bool} {tgt : Vector Word 4} (ha : kind = false ∨ inRange (tgt[1] ++ tgt[0]) s.tb.stroke.count = true) :
    Completes (.layoutActivateAt src tag loc kind tgt) s (fun t =>
      t.Answers src tag 0x12 0 tgt.toList ∧ t.tb.sched[(0 : Fin 16)] = armedEntry kind (!loc) tgt) :=
  completes_command h rfl fun u w => by
    rw [← w.tb] at ha
    obtain ⟨ok, armed⟩ := armWarden_armed (n := 0) (needSync := !loc) ha
    simp only [w.activateRefusal, hr, ok, if_true]
    exact ⟨respond_answers .., armed⟩

theorem layoutActivateAt_range {loc : Bool} {tgt : Vector Word 4} (ha : inRange (tgt[1] ++ tgt[0]) s.tb.stroke.count = false)
    (hp : s.tb.sched[(0 : Fin 16)].st ≠ .pending) :
    Completes (.layoutActivateAt src tag loc true tgt) s (fun t =>
      t.Answers src tag 0x12 18 [] ∧ t.tb.sched[(0 : Fin 16)].st = s.tb.sched[(0 : Fin 16)].st) :=
  completes_command h rfl fun u w => by
    rw [← w.tb] at ha hp ⊢
    obtain ⟨no, same⟩ := armWarden_refused (n := 0) (needSync := !loc) ha hp
    simp only [w.activateRefusal, hr, no, Bool.false_eq_true, if_false]
    exact ⟨respond_answers .., same⟩

end

/-! The end of the write phase (R151). -/

@[simp] theorem plan_lay (ready : Fin 16 → Bool) (s : State) : (s.plan ready).lay = s.lay := by
  unfold State.plan
  split <;> rfl

@[simp] theorem plan_upd (ready : Fin 16 → Bool) (s : State) : (s.plan ready).upd = s.upd := by
  unfold State.plan
  split <;> rfl

theorem loadIdle_bedrock (L : Layout) (s : State) : (s.loadIdle L).bedrock = s.bedrock :=
  foldl_bedrock (fun s n => by
    dsimp only
    split
    · split <;> rfl
    · rfl) _ s

theorem stageDone_lay (L : Layout) (s : State) :
    (s.stageDone L).lay = { s.lay with st := .valid, shadow := some L, staging := none, code := 0, word := 0 } := by
  simp [State.stageDone, (quiet_raiseBy _ _ _).lay, (quiet_logRec _ _ _ _).lay, lay_of_bedrock (loadIdle_bedrock L s)]

/-- LAYOUT_LOADED shows (R151). -/
theorem stageDone_status (L : Layout) (s : State) : (s.stageDone L).evt.status.getLsbD 12 = true := raiseBy_status _ actWarden evLayoutLoaded

theorem stageDone_upd (L : Layout) (s : State) : (s.stageDone L).upd = s.upd := by
  simp [State.stageDone, (quiet_raiseBy _ _ _).upd, (quiet_logRec _ _ _ _).upd, upd_of_bedrock (loadIdle_bedrock L s)]

/-- The activation that waits for a staging arms and answers: it leaves the planes and the events alone. -/
theorem armActivation_keeps (w : UpdWait) (s : State) : (s.armActivation w).lay = s.lay ∧ (s.armActivation w).evt = s.evt := by
  unfold State.armActivation
  cases w.target <;> dsimp only <;> split <;> exact ⟨rfl, rfl⟩

/-- The LAYOUT_STAGE that a staging began with, if one did, has its answer. -/
def State.stageAnswered (g : Staging) (s : State) : State :=
  match g.reply with
  | some (src, tag) => s.respond src tag 0x10 0 []
  | none => s

theorem stageAnswered_keeps (g : Staging) (s : State) :
    (s.stageAnswered g).lay = s.lay ∧ (s.stageAnswered g).evt = s.evt ∧ (s.stageAnswered g).upd = s.upd := by
  unfold State.stageAnswered
  split <;> exact ⟨rfl, rfl, rfl⟩

theorem exec_stageWriteComplete {s : State} {g : Staging} (hg : s.lay.staging = some g) (hw : s.wardenRuns = true) :
    exec .stageWriteComplete s = .next (s.upd.wait.elim ((s.stageDone g.layout).stageAnswered g)
      fun w => ((s.stageDone g.layout).stageAnswered g).armActivation w) := by
  have hx : exec .stageWriteComplete s = execStageWriteComplete s := rfl
  have wait : ((s.stageDone g.layout).stageAnswered g).upd.wait = s.upd.wait := by
    rw [(stageAnswered_keeps g _).2.2, stageDone_upd]
  rw [← wait, hx, execStageWriteComplete]
  simp only [hg, hw]
  show (match ((s.stageDone g.layout).stageAnswered g).upd.wait with
    | some w => Host.Outcome.next (((s.stageDone g.layout).stageAnswered g).armActivation w)
    | none => .next ((s.stageDone g.layout).stageAnswered g)) = _
  cases ((s.stageDone g.layout).stageAnswered g).upd.wait <;> rfl

/-- The staged layout is in the shadow plane, VALID (R151). -/
theorem stageWriteComplete_done {s : State} {g : Staging} (hg : s.lay.staging = some g) (hw : s.wardenRuns = true) :
    Completes .stageWriteComplete s (fun t =>
      t.lay.st = .valid ∧ t.lay.shadow = some g.layout ∧ t.lay.staging = none ∧ t.lay.code = 0 ∧ t.lay.active = s.lay.active ∧
      t.evt.status.getLsbD 12 = true ∧ (∀ src tag, g.reply = some (src, tag) → s.upd.wait = none → t.Answers src tag 0x10 0 [])) := by
  refine ⟨_, exec_stageWriteComplete hg hw, ?_⟩
  obtain ⟨lay, evt, -⟩ := stageAnswered_keeps g (s.stageDone g.layout)
  cases s.upd.wait with
  | none =>
    simp only [Option.elim_none, lay, evt, stageDone_lay, stageDone_status, true_and]
    intro src tag hr _
    rw [State.stageAnswered, hr]
    exact respond_answers ..
  | some w =>
    obtain ⟨lay', evt'⟩ := armActivation_keeps w ((s.stageDone g.layout).stageAnswered g)
    simp only [Option.elim_some, lay', evt', lay, evt, stageDone_lay, stageDone_status, true_and]
    intro _ _ _ no
    cases no

/-- Settles O35: each command is taken as one of the lemmas above says, by what it finds: a trial, a staging in progress, the check
phase's result, the activation's refusal, the target's range, the state of entry 0. -/
theorem layoutCommands : Obligations.LayoutCommands := by
  unfold Obligations.LayoutCommands
  refine ⟨fun s src tag h => ⟨fun slot => ⟨layoutStage_trial h, layoutStage_busy h, ?_, ?_, ?_⟩, ?_, fun k hr => ?_,
    layoutActivateCancel_pending h, layoutActivateCancel_idle h⟩, fun s g hg hw => stageWriteComplete_done hg hw⟩
  · rintro ⟨ht, hb⟩ hv
    exact layoutStage_refused h ht hb (checkSlot_invalid hv)
  · rintro L ⟨ht, hb⟩ hL
    exact layoutStage_passed h ht hb hL
  · rintro f ⟨ht, hb⟩ hf
    obtain ⟨t, hx, answers, lay, status⟩ := layoutStage_refused h ht hb hf
    exact ⟨t, hx, answers, by rw [lay]; exact staging_of_idle hb, by rw [lay], status⟩
  · intro ht hv hp
    have hr := activateRefusal_none ht hv hp
    refine ⟨layoutActivate_armed h hr, fun loc kind tgt => ⟨fun ha => ?_, fun hk ha => ?_⟩⟩
    · exact layoutActivateAt_armed h hr (ha.imp_right inRange_iff.mpr)
    · subst hk
      exact layoutActivateAt_range h hr (by rwa [← Bool.not_eq_true, inRange_iff]) hp
  · exact ⟨layoutActivate_refused h hr, layoutActivateAt_refused h hr⟩

end Sys2Proof.Machine

namespace Sys2Proof.Machine

/-! An error in the shadow plane store (04 R152, R181). -/

section
variable {s : State} {g : Staging} (hg : s.lay.staging = some g)
include hg

theorem stageBroken_lay : s.stageBroken.lay = { s.lay with st := .invalid, staging := none } := by
  unfold State.stageBroken
  split
  · next none => cases hg.symm.trans none
  · extract_lets s1 s2 lay
    have kept : s2.lay = s1.lay := by
      simp only [s2]
      split <;> rfl
    split <;> exact kept

/-- A LAYOUT_STAGE that is broken off is answered INTERRUPTED (R152). -/
theorem stageBroken_answers {src : CmdSource} {tag : BitVec 8} (hr : g.reply = some (src, tag)) (hw : s.upd.wait = none) :
    s.stageBroken.Answers src tag 0x10 0x84 [] := by
  simp only [State.stageBroken, hg, hr, respond_upd, modLay_upd, hw]
  exact respond_answers ..

/-- An error in the shadow plane store ends a staging (R152). -/
theorem planeFault_staging :
    Completes .planeFault s (fun t => t.lay = { s.lay with st := .invalid, staging := none } ∧
      (∀ src tag, g.reply = some (src, tag) → s.upd.wait = none → t.Answers src tag 0x10 0x84 [])) := by
  have hx : exec .planeFault s = execPlaneFault s := rfl
  rw [execPlaneFault, if_pos (by rw [hg]; rfl)] at hx
  exact ⟨_, hx, stageBroken_lay hg, fun _ _ => stageBroken_answers hg⟩

end

/-- An error in the shadow plane store aborts an armed changeover (R181). -/
theorem planeFault_armed {s : State} (hg : s.lay.staging = none) (hp : s.tb.sched[(0 : Fin 16)].st = .pending) :
    Completes .planeFault s (fun t =>
      t.tb.sched[(0 : Fin 16)].st = .aborted ∧ t.lay.st = .invalid ∧ t.lay.abortCnt = satInc s.lay.abortCnt ∧ t.lay.abortReason = 4 ∧
      t.lay.active = s.lay.active ∧ t.upd.lay = none ∧ t.evt.status.getLsbD 15 = true) := by
  have hx : exec .planeFault s = execPlaneFault s := rfl
  rw [execPlaneFault, if_neg (by rw [hg]; decide), if_pos hp] at hx
  refine ⟨_, hx, ?_⟩
  have q (u : State) : Quiet u ((u.raise evChangeoverAbort).changeoverLog 4) := (quiet_raise _ _).trans (quiet_logRec _ _ _ _)
  have status (u : State) : ((u.raise evChangeoverAbort).changeoverLog 4).evt.status.getLsbD 15 = true := by
    rw [State.changeoverLog, logRec_evt]
    exact raise_status u evChangeoverAbort
  simp only [(q _).tb, (q _).lay, (q _).upd, status, and_true]
  simp [State.countAbort]

theorem planeFault_idle {s : State} (hg : s.lay.staging = none) (hp : s.tb.sched[(0 : Fin 16)].st ≠ .pending) :
    exec .planeFault s = .next s := by
  have hx : exec .planeFault s = execPlaneFault s := rfl
  rw [hx, execPlaneFault, if_neg (by rw [hg]; decide), if_neg hp]

/-! The boot layout (04 R155, R156; 02 R42). -/

/-- What a check of a boot slot leaves alone: time, pins, flash and the active plane. -/
structure SlotCheckFrame (s t : State) : Prop where
  tb     : t.tb = s.tb
  pins   : t.pins = s.pins
  flash  : t.flash = s.flash
  active : t.lay.active = s.lay.active

theorem slotCheckFrame_of_bedrock {s t : State} (tb : t.tb = s.tb) (b : t.bedrock = s.bedrock) : SlotCheckFrame s t :=
  ⟨tb, pins_of_bedrock b, flash_of_bedrock b, congrArg Lay.active (lay_of_bedrock b)⟩

theorem slotCheckFrame_stageRefused {s t : State} (k : SlotCheckFrame s t) (slot : BitVec 3) (e : LayFail) :
    SlotCheckFrame s (t.stageRefused slot e) := by
  have q := quiet_stageRefused t slot e
  exact ⟨q.tb.trans k.tb, q.pins.trans k.pins, q.flash.trans k.flash, (congrArg Lay.active q.lay).trans k.active⟩

theorem slotCheckFrame_checkBoot (s : State) (slot : BitVec 3) : SlotCheckFrame s (s.checkBoot slot).2 := by
  unfold State.checkBoot
  dsimp only
  split
  · exact slotCheckFrame_stageRefused (slotCheckFrame_of_bedrock rfl rfl) slot _
  · split
    · exact slotCheckFrame_stageRefused (slotCheckFrame_of_bedrock (by simp [apply_ite State.tb]) (by simp)) slot _
    · next ps L _ =>
      have k : SlotCheckFrame s (s.checkLayout (s.flash.substitute L).placed (s.flash.substitute L)).2 :=
        slotCheckFrame_of_bedrock (checkLayout_tb ..) (checkLayout_bedrock ..)
      split
      · exact slotCheckFrame_stageRefused k slot _
      · exact k

/-- Of the bedrock, the boot layout's application changes the active plane, the pins and the power state (R155). -/
theorem applyBoot_bedrock (L : Layout) (fb : Bool) (s : State) :
    let u := (s.modLay fun l => { l with active := some L, usedFallback := fb }).powerMarked L
    (s.applyBoot L fb).bedrock = { u.bedrock with pins := u.pins.take L, pwr := { u.pwr with reapply := 0 } } := by
  refine (foldl_bedrock (fun s n => ?_) _ _).trans (installStatics_bedrock _)
  split
  · split
    · exact modHw_bedrock ..
    · exact hewerFault_load_bedrock ..
  · exact modHw_bedrock ..

section
variable (L : Layout) (fb : Bool) (s : State)

theorem applyBoot_lay : (s.applyBoot L fb).lay = { s.lay with active := some L, usedFallback := fb } :=
  (congrArg Bedrock.lay (applyBoot_bedrock L fb s)).trans (powerMarked_lay L _)

theorem applyBoot_pins (i : Fin 96) : (s.applyBoot L fb).pins.recs[i] = L.pin i.val ∧ (s.applyBoot L fb).pins.use[i] = .func := by
  have pins := congrArg Bedrock.pins (applyBoot_bedrock L fb s)
  rw [show (s.applyBoot L fb).pins = _ from pins]
  simp [Pins.take]

theorem applyBoot_on {i : Fin 56} (h : L.marks i.val = true) : (s.applyBoot L fb).pwr.islOn.getLsbD i.val = true := by
  have pwr := congrArg Bedrock.pwr (applyBoot_bedrock L fb s)
  rw [show (s.applyBoot L fb).pwr = _ from pwr]
  exact powerMarked_on L _ h

end

/-- The device has booted layout `L` (R155): it is active, its pins and islands are taken, and the first stroke starts at the next grid
point (02 R42). -/
def State.Booted (L : Layout) (fb : Bool) (t : State) : Prop :=
  t.lay.active = some L ∧ t.lay.usedFallback = fb ∧ t.tb.stroke.ends = some (L.gridAfter t.qns) ∧
  (∀ i : Fin 96, t.pins.recs[i] = L.pin i.val ∧ t.pins.use[i] = .func) ∧
  ∀ i : Fin 56, L.marks i.val = true → t.pwr.islOn.getLsbD i.val = true

/-- The boot layout applied, its first stroke set, and the BOOT record made. -/
theorem booted_of_applyBoot {L : Layout} {fb : Bool} {s t : State}
    (q : Quiet ((s.applyBoot L fb).modTb fun x => { x with stroke := { x.stroke with ends := some (L.gridAfter (s.applyBoot L fb).qns) } }) t) :
    t.Booted L fb := by
  unfold State.Booted State.qns
  rw [q.lay, q.tb, q.pins, q.pwr]
  simp only [modTb_lay, applyBoot_lay]
  exact ⟨trivial, trivial, rfl, applyBoot_pins L fb s, fun i => applyBoot_on L fb s⟩

section
variable {s : State} (hw : s.wardenRuns = true) (ha : s.lay.active = none)
include hw ha

theorem bootLayoutLoad_boot {L : Layout} (h : (s.checkBoot s.flash.bootSlot).1 = some L) :
    Completes .bootLayoutLoad s (State.Booted L false) := by
  have hx : exec .bootLayoutLoad s = execBootLayoutLoad s := rfl
  rw [execBootLayoutLoad, if_neg (by simp [hw, ha])] at hx
  simp only [h] at hx
  exact ⟨_, hx, booted_of_applyBoot (quiet_logRec _ _ _ _)⟩

theorem bootLayoutLoad_fallback {L : Layout} (h : (s.checkBoot s.flash.bootSlot).1 = none)
    (h2 : ((s.checkBoot s.flash.bootSlot).2.checkBoot s.flash.fallback).1 = some L) : Completes .bootLayoutLoad s (State.Booted L true) := by
  have hx : exec .bootLayoutLoad s = execBootLayoutLoad s := rfl
  rw [execBootLayoutLoad, if_neg (by simp [hw, ha])] at hx
  simp only [h, (slotCheckFrame_checkBoot s _).flash, h2] at hx
  exact ⟨_, hx, booted_of_applyBoot (quiet_logRec _ _ _ _)⟩

/-- With no admitted layout no stroke runs and the pins stay as they are (R155). -/
theorem bootLayoutLoad_none (h : (s.checkBoot s.flash.bootSlot).1 = none)
    (h2 : ((s.checkBoot s.flash.bootSlot).2.checkBoot s.flash.fallback).1 = none) :
    Completes .bootLayoutLoad s (fun t => t.lay.active = none ∧ t.lay.usedFallback = true ∧ t.tb = s.tb ∧ t.pins = s.pins) := by
  have hx : exec .bootLayoutLoad s = execBootLayoutLoad s := rfl
  have k := slotCheckFrame_checkBoot s s.flash.bootSlot
  have k2 := slotCheckFrame_checkBoot (s.checkBoot s.flash.bootSlot).2 s.flash.fallback
  rw [execBootLayoutLoad, if_neg (by simp [hw, ha])] at hx
  simp only [h, k.flash, h2] at hx
  refine ⟨_, hx, ?_⟩
  have q (u : State) (r : List Word) := quiet_logRec u 1 (if s.pwr.cause = 10 then 2 else if s.pwr.cause.toNat ≤ 5 then 0 else 1) r
  simp only [(q _ _).lay, (q _ _).tb, (q _ _).pins]
  exact ⟨(k2.active.trans k.active).trans ha, rfl, k2.tb.trans k.tb, k2.pins.trans k.pins⟩

end

/-- Settles O36: an error in the shadow plane meets a staging, an armed changeover or neither; the boot slot passes its check, or the
fallback slot does, or none. -/
theorem planeFaultAndBoot : Obligations.PlaneFaultAndBoot := by
  unfold Obligations.PlaneFaultAndBoot
  exact ⟨fun s => ⟨fun g => planeFault_staging, planeFault_armed, planeFault_idle⟩,
    fun s hw ha => ⟨fun L => bootLayoutLoad_boot hw ha, fun L => bootLayoutLoad_fallback hw ha, bootLayoutLoad_none hw ha⟩⟩

end Sys2Proof.Machine

namespace Sys2Proof.Machine

/-! A HALT of the host that raises an event (03 R117, R118; 05 R216; 18 R679). The HALT of a Hewer that waits for the slack pool changes
nothing of its engine, but the register beat of the host's access may be an overdraft beat, and the first of a stroke raises
HOST_FLOOR_MISS. Routed to that very Hewer, it makes a vector pending there. -/

/-- A Hewer that waits for the slack pool with the first word of a NOP. -/
def slackHewer : Hewer :=
  { Hewer.reset with st := .running, eng := { Eng.reset with stall := some ⟨.slack, .nop (.hewer 0) 0, 0, none⟩ } }

/-- HOST_FLOOR_MISS sets vector 0 of Hewer 0 pending. -/
def floorMissRoute : EvRoute := { EvRoute.reset with hewers := vset EvRoute.reset.hewers 0 0x20 }

/-- A powered device in a stroke in which the host has no register beat left, and Hewer 0 is that Hewer. -/
def overdrawnHalt : State :=
  { State.reset with
    pwr := { State.reset.pwr with held := none }
    tb := { State.reset.tb with stroke := { State.reset.tb.stroke with running := true } }
    evt := { State.reset.evt with route := vset State.reset.evt.route evHostFloorMiss floorMissRoute }
    hw := vset State.reset.hw 0 slackHewer }

/-- The HALT leaves vector 0 pending. -/
theorem ipend_hewerHalt_overdrawnHalt :
    ∃ t, exec (.hewerHalt .host 0) overdrawnHalt = .next t ∧ t.hw[(0 : Fin 16)].eng.vec.ipend = 1 := ⟨_, rfl, by decide +kernel⟩

/-- Refutes O37: its clause on the HALT of a Hewer that waits for the slack pool says that the engine stays as it was, pending vectors and
all. Where the host has no register beat left, its access raises HOST_FLOOR_MISS (03 R118), whose route may lead to the Hewer. -/
theorem not_hewerLife : ¬ Obligations.HewerLife := by
  unfold Obligations.HewerLife
  intro h
  obtain ⟨accesses, -⟩ := h
  obtain ⟨accepted, -⟩ := accesses overdrawnHalt .host 0 (by decide)
  obtain ⟨halt, -⟩ := accepted (by decide)
  obtain ⟨-, inSlack⟩ := halt (.inl (by decide))
  obtain ⟨t, ht, -, -, -, heng⟩ := inSlack ⟨.slack, .nop (.hewer 0) 0, 0, none⟩ rfl rfl
  obtain ⟨u, hu, hpend⟩ := ipend_hewerHalt_overdrawnHalt
  obtain rfl : t = u := Host.Outcome.next.inj (ht.symm.trans hu)
  rw [heng] at hpend
  exact absurd hpend (by decide)

end Sys2Proof.Machine

namespace Sys2Proof.Machine

/-! An access of a Hewer that has a command of its own (05 R193, R196-R198, R204-R208; 09 R374): its beats are paid, the place takes it,
and what ends it changes the engine and what charging changes, the PC staying. -/

/-- The outcome of an access that asks for one beat: it may have its effect, or waits for the slack pool (03 R108, R109). -/
def Ran.ofBeat (r : BeatResult) : Ran (List BeatSource) := if r.granted then .ok [r.src] r.st else .stall .slack 0 none r.st

section
variable {s : State} {n : Fin 16}

/-- An access that does not pass the commit queue never finds it full (08 R322). -/
theorem cqFull_single {h : Hewer} {a : Acc} (hq : h.queues a = false) : h.cqFull [a] = false := by
  simp [Hewer.cqFull, Hewer.roomFor, hq]

/-- An access that does not fault, wait or pass the commit queue is charged, and no more. -/
theorem hewerPrep_single {a : Acc} (hd : s.hewerDenied n a = false) (hw : s.hewerWait n a = none) (hq : s.hw[n].queues a = false) :
    s.hewerPrep n [a] = State.payBeats (.hewer n) 0 [s.hewerBeat n a] s := by
  simp [State.hewerPrep, hd, hw, -Fin.getElem_fin, cqFull_single hq]

/-- An access that costs no beat is ready for its effect at once. -/
theorem hewerPrep_unpaid {a : Acc} (hd : s.hewerDenied n a = false) (hw : s.hewerWait n a = none) (hq : s.hw[n].queues a = false)
    (hb : s.hewerBeat n a = none) : s.hewerPrep n [a] = .ok [.none] s := by
  rw [hewerPrep_single hd hw hq, hb]
  rfl

/-- One that costs a beat is ready where the beat is granted. -/
theorem hewerPrep_paid {a : Acc} {k : BeatKind} (hd : s.hewerDenied n a = false) (hw : s.hewerWait n a = none)
    (hq : s.hw[n].queues a = false) (hb : s.hewerBeat n a = some k) :
    s.hewerPrep n [a] = Ran.ofBeat (s.engBeat (.hewer n) k) := by
  rw [hewerPrep_single hd hw hq, hb]
  rfl

/-- A store whose class never passes the commit queue. -/
theorem queues_of_not_queuedClass {h : Hewer} {a : Acc} (hq : queuedClass a.addr = false) : h.queues a = false := by
  unfold Hewer.queues
  split
  · simp [hq]
  · rfl

end

/-- The state behind an access that ends well: engine `n` and what charging changes apart, it is `s`. -/
structure Ends (n : Fin 16) (s t : State) : Prop where
  quiet : ∃ f, Quiet (s.modEng (.hewer n) f) t

section
variable {s t : State} {n : Fin 16} (h : Ends n s t)
include h

theorem Ends.pending : t.pending = s.pending := by
  obtain ⟨f, q⟩ := h.quiet; rw [q.pending, modEng_pending]
theorem Ends.sem : t.sem = s.sem := by
  obtain ⟨f, q⟩ := h.quiet; rw [q.sem, modEng_sem]
theorem Ends.lnd : t.lnd = s.lnd := by
  obtain ⟨f, q⟩ := h.quiet; rw [q.lnd, modEng_lnd]
theorem Ends.pwr : t.pwr = s.pwr := by
  obtain ⟨f, q⟩ := h.quiet; rw [q.pwr, modEng_pwr]
theorem Ends.islandOn (i : Nat) : t.islandOn i = s.islandOn i := by
  rw [State.islandOn, h.pwr, State.islandOn]
theorem Ends.rd : t.rd = s.rd := by
  obtain ⟨f, q⟩ := h.quiet; rw [q.rd, modEng_rd]
theorem Ends.tx : t.hw[n].tx = s.hw[n].tx := by
  obtain ⟨f, q⟩ := h.quiet
  obtain ⟨v, hv⟩ := q.hw n.val n.isLt
  simp [hv, State.modEng]
theorem Ends.hio : t.hw[n].hio = s.hw[n].hio := by
  obtain ⟨f, q⟩ := h.quiet
  obtain ⟨v, hv⟩ := q.hw n.val n.isLt
  simp [hv, State.modEng]

end

theorem ends_settle (n : Fin 16) (i : Instr) (len : Word) (d : Done) (s : State) : Ends n s ((Ran.ok d s).settle (.hewer n) i len) :=
  ⟨_, quiet_charge_hewer _ n d.cyc⟩

section
variable {s u : State} {n : Fin 16} {c : Instr} {a : Word} {bs : List BeatSource} {Q : State → Prop}

theorem runDirect_of_ready {e : EngineId} {body : State → Ran Done} (hc : directOf c = some (e, body)) (hr : s.ready e = true) :
    s.runDirect c = (body s).settle e c 0 := by
  simp [State.runDirect, hc, hr]

theorem completes_directLoad (hc : directOf c = some (.hewer n, directLoad (.hewer n) a)) (hx : exec c s = .next (s.runDirect c))
    (hr : s.ready (.hewer n) = true) (hp : s.hewerPrep n [Acc.load a] = .ok bs u)
    (hQ : ∀ t, Ends n { (u.hewerLoad n a).2 with rd := [(u.hewerLoad n a).1.val.setWidth 32] } t → Q t) : Completes c s Q := by
  refine ⟨_, hx, ?_⟩
  rw [runDirect_of_ready hc hr]
  simp only [directLoad, loadOne, State.prep, State.load, hp, Ran.bind]
  exact hQ _ (ends_settle ..)

theorem completes_directStore {v : TWord} (hc : directOf c = some (.hewer n, directStore (.hewer n) a v))
    (hx : exec c s = .next (s.runDirect c)) (hr : s.ready (.hewer n) = true) (hp : s.hewerPrep n [Acc.store a v] = .ok bs u)
    (hQ : ∀ t, Ends n (u.hewerStore n a v (bs.headD .none)) t → Q t) : Completes c s Q := by
  refine ⟨_, hx, ?_⟩
  rw [runDirect_of_ready hc hr]
  simp only [directStore, storeOne, State.prep, State.store, hp, Ran.bind]
  exact hQ _ (ends_settle ..)

end

/-! Beats. -/

/-- An operation that changes no engine ends with the engine as it was. -/
theorem ends_of_quiet {s t : State} (n : Fin 16) (q : Quiet s t) : Ends n s t := by
  have hid : vmod s.hw n (fun h => { h with eng := id h.eng }) = s.hw := Vector.ext fun i hi => by simp
  have hs : s.modEng (.hewer n) id = s := congrArg (fun v => { s with hw := v }) hid
  exact ⟨id, hs.symm ▸ q⟩

theorem beat_of_left {s : State} {a : ActId} (h : 1 ≤ s.sbu.act[a].loft) : s.beat a .loft = ⟨true, .loft, s.spendBeat a .loft⟩ :=
  if_pos h

/-- A beat counts that an earlier stroke has been charged; else the activity, or the pool, pays it (03 R108, R109). -/
theorem ends_engBeat (s : State) (n : Fin 16) (k : BeatKind) : Ends n s (s.engBeat (.hewer n) k).st := by
  unfold State.engBeat
  split
  · exact ⟨fun x => { x with paid := x.paid - 1 }, Quiet.refl _⟩
  · exact ends_of_quiet n (quiet_beat ..)

theorem engBeat_granted {s : State} {n : Fin 16} (h : 1 ≤ s.sbu.act[(actHewer n)].loft) : (s.engBeat (.hewer n) .loft).granted = true := by
  unfold State.engBeat
  split
  · rfl
  · rw [show engAct (.hewer n) = actHewer n from rfl, beat_of_left h]

/-! Places of the I/O area, of the ingress tap and of the egress tap (05, address view). -/

theorem hewerPlace_io {a : Word} {i : Nat} (h : a.toNat = 0xE0000 + i) : hewerPlace a = .io i := by
  unfold hewerPlace
  dsimp only
  iterate 6 rw [if_neg (by omega)]
  exact congrArg HewerPlace.io (by omega)

theorem hewerPlace_semTake (k : Fin 64) : hewerPlace (0xE0400 + BitVec.ofNat 20 k.val) = .io (0x400 + k.val) :=
  hewerPlace_io (by have := k.isLt; simp; omega)

theorem hewerPlace_semRelease (k : Fin 64) : hewerPlace (0xE0440 + BitVec.ofNat 20 k.val) = .io (0x440 + k.val) :=
  hewerPlace_io (by have := k.isLt; simp; omega)

theorem hewerPlace_txDesc (i : Fin 3) : hewerPlace (0xCA000 + BitVec.ofNat 20 i.val) = .tx i.val := by
  revert i; decide

/-! Semaphores (05 R196-R200). -/

section
variable (s : State) (n : Fin 16) (k : Fin 64)

theorem ix64_add_sub (b : Nat) : ix 64 (b + k.val - b) = k := by
  rw [Nat.add_sub_cancel_left]; exact Fin.ext (Nat.mod_eq_of_lt k.isLt)

/-- A take costs a Loft beat, whoever holds the semaphore. -/
theorem hewerPrep_semTake : s.hewerPrep n [Acc.load (0xE0400 + BitVec.ofNat 20 k.val)] =
    Ran.ofBeat (s.engBeat (.hewer n) .loft) := by
  have hk := k.isLt
  refine hewerPrep_paid ?_ ?_ rfl ?_ <;> simp only [Acc.load]
  · simp only [State.hewerDenied, hewerPlace_semTake, ioAllowed, Acc.writes]
    rw [if_neg (by omega), if_pos (by omega)]
    rfl
  · simp only [State.hewerWait, hewerPlace_semTake]
  · simp only [State.hewerBeat, hewerPlace_semTake]
    rw [if_pos (by omega)]

theorem hewerLoad_semTake : s.hewerLoad n (0xE0400 + BitVec.ofNat 20 k.val) =
    (TWord.plain (s.semTake (BitVec.ofNat 5 n.val) k).1, (s.semTake (BitVec.ofNat 5 n.val) k).2) := by
  have hk := k.isLt
  simp only [State.hewerLoad, hewerPlace_semTake, State.hewerIoRead]
  rw [if_neg (by omega), if_pos (by omega), ix64_add_sub]

theorem queuedClass_semRelease : queuedClass (0xE0440 + BitVec.ofNat 20 k.val) = false := by
  have hk := k.isLt
  simp only [queuedClass, hewerPlace_semRelease, hewerWin]
  rw [if_pos (by omega)]
  simp
  omega

/-- A release drains the commit queue first (R198), and costs a Loft beat. -/
theorem hewerPrep_semRelease (v : TWord) (hq : s.hw[n].cq = []) : s.hewerPrep n [Acc.store (0xE0440 + BitVec.ofNat 20 k.val) v] =
    Ran.ofBeat (s.engBeat (.hewer n) .loft) := by
  have hk := k.isLt
  refine hewerPrep_paid ?_ ?_ (queues_of_not_queuedClass (queuedClass_semRelease k)) ?_ <;> simp only [Acc.store]
  · simp only [State.hewerDenied, hewerPlace_semRelease, ioAllowed, Acc.writes]
    rw [if_neg (by omega), if_neg (by omega), if_pos (by omega)]
    rfl
  · simp only [State.hewerWait, hewerPlace_semRelease, hq]
    exact if_neg (by simp)
  · simp only [State.hewerBeat, hewerPlace_semRelease]
    rw [if_pos (by omega)]

theorem hewerStore_semRelease (v : TWord) (src : BeatSource) :
    s.hewerStore n (0xE0440 + BitVec.ofNat 20 k.val) v src = s.semRelease (BitVec.ofNat 5 n.val) k := by
  have hk := k.isLt
  simp only [State.hewerStore, queuedClass_semRelease, hewerPlace_semRelease, State.hioWrite, Bool.false_eq_true, if_false]
  rw [if_pos (by omega), ix64_add_sub]

/-- A take of a free semaphore. -/
theorem semTake_free {s : State} {k : Fin 64} (owner : BitVec 5) (hi : s.islandOn 20 = true) (hf : s.sem[k].held = false) :
    (s.semTake owner k).2 = { s with sem := vset s.sem k { held := true, orphan := false, owner := owner } } := by
  simp [State.semTake, -Fin.getElem_fin, hi, hf]

/-- A take of a held semaphore changes nothing and reads who holds it (R196). -/
theorem semTake_held {s : State} {k : Fin 64} (owner : BitVec 5) (hi : s.islandOn 20 = true) (hf : s.sem[k].held = true) :
    s.semTake owner k = (1#1 ++ bool 1 s.sem[k].orphan ++ 0#13 ++ s.sem[k].owner, s) := by
  simp [State.semTake, -Fin.getElem_fin, hi, hf]

theorem semRelease_own {s : State} {k : Fin 64} {owner : BitVec 5} (hh : s.sem[k].held = true) (ho : s.sem[k].owner = owner) :
    s.semRelease owner k = { s with sem := vset s.sem k { s.sem[k] with held := false } } :=
  if_pos ⟨hh, ho⟩

/-- The word of a held semaphore, as a number. -/
theorem heldWord_eq (o : Bool) (w : BitVec 5) :
    ((1#1 ++ bool 1 o ++ 0#13 ++ w : BitVec 20)).setWidth 32 = BitVec.ofNat 32 (2 ^ 19 + 2 ^ 18 * o.toNat + w.toNat) := by
  revert w
  cases o <;> decide

end

section
variable {s : State} {n : Fin 16} {k : Fin 64} (hr : s.ready (.hewer n) = true) (hi : s.islandOn 20 = true)
  (hl : 1 ≤ s.sbu.act[(actHewer n)].loft)
include hr hi hl

omit hi in
/-- The state behind a take whose beat is granted. -/
theorem completes_semTake {Q : State → Prop}
    (hQ : ∀ u t, Ends n s u → Ends n { (u.semTake (BitVec.ofNat 5 n.val) k).2 with
      rd := [(u.semTake (BitVec.ofNat 5 n.val) k).1.setWidth 32] } t → Q t) : Completes (.semTake (.hewer n) k) s Q := by
  refine completes_directLoad rfl rfl hr ((hewerPrep_semTake s n k).trans (if_pos (engBeat_granted hl))) fun t ht => ?_
  rw [hewerLoad_semTake] at ht
  exact hQ _ t (ends_engBeat s n .loft) ht

theorem semTake_takes (hf : s.sem[k].held = false) : Completes (.semTake (.hewer n) k) s (fun t =>
    t.sem = vset s.sem k { held := true, orphan := false, owner := BitVec.ofNat 5 n.val } ∧ t.pending = s.pending ∧ t.pwr = s.pwr) := by
  refine completes_semTake hr hl fun u t hu ht => ?_
  have hiu : u.islandOn 20 = true := (hu.islandOn 20).trans hi
  have hfu : u.sem[k].held = false := by rw [hu.sem]; exact hf
  rw [semTake_free _ hiu hfu] at ht
  exact ⟨ht.sem.trans (by rw [hu.sem]), ht.pending.trans hu.pending, ht.pwr.trans hu.pwr⟩

theorem semTake_refused (hh : s.sem[k].held = true) : Completes (.semTake (.hewer n) k) s (fun t =>
    t.sem = s.sem ∧ t.rd = [BitVec.ofNat 32 (2 ^ 19 + 2 ^ 18 * s.sem[k].orphan.toNat + s.sem[k].owner.toNat)]) := by
  refine completes_semTake hr hl fun u t hu ht => ?_
  have hiu : u.islandOn 20 = true := (hu.islandOn 20).trans hi
  have hhu : u.sem[k].held = true := by rw [hu.sem]; exact hh
  rw [semTake_held _ hiu hhu, heldWord_eq, hu.sem] at ht
  exact ⟨ht.sem.trans hu.sem, ht.rd⟩

omit hi in
/-- A release by the owner, the commit queue empty. -/
theorem semRelease_releases (hq : s.hw[n].cq = []) (hh : s.sem[k].held = true) (ho : s.sem[k].owner = BitVec.ofNat 5 n.val) :
    Completes (.semRelease (.hewer n) k) s (fun t => t.sem = vset s.sem k { s.sem[k] with held := false }) := by
  refine completes_directStore rfl rfl hr ((hewerPrep_semRelease s n k _ hq).trans (if_pos (engBeat_granted hl))) fun t ht => ?_
  have hu := ends_engBeat s n .loft
  rw [hewerStore_semRelease, semRelease_own (by rw [hu.sem]; exact hh) (by rw [hu.sem]; exact ho), hu.sem] at ht
  exact ht.sem

end

/-- A take of a held semaphore leaves every semaphore as it is, whether the Hewer may take it, waits for a beat, or reads. -/
theorem semTake_keeps {s : State} {k : Fin 64} (n : Fin 16) (hi : s.islandOn 20 = true) (hh : s.sem[k].held = true) :
    Completes (.semTake (.hewer n) k) s (fun t => t.sem = s.sem) := by
  by_cases hr : s.ready (.hewer n) = true
  · have hu := ends_engBeat s n .loft
    by_cases hg : (s.engBeat (.hewer n) .loft).granted = true
    · refine completes_directLoad rfl rfl hr ((hewerPrep_semTake s n k).trans (if_pos hg)) fun t ht => ?_
      rw [hewerLoad_semTake, semTake_held _ ((hu.islandOn 20).trans hi) (by rw [hu.sem]; exact hh)] at ht
      exact ht.sem.trans hu.sem
    · refine ⟨_, rfl, ?_⟩
      rw [runDirect_of_ready rfl hr]
      simp only [directLoad, loadOne, State.prep, hewerPrep_semTake, Ran.ofBeat, if_neg hg, Ran.bind, Ran.settle, modEng_sem]
      exact hu.sem
  · exact ⟨_, rfl, by simp [State.runDirect, directOf, hr]⟩

/-! Taps (05 R204-R209). -/

/-- An access at a tap costs no beat and passes no queue; it has its effect at once where its window neither faults nor stalls. -/
theorem hewerPrep_tap {s : State} {n : Fin 16} {a : Acc} (hp : (∃ i, hewerPlace a.addr = .tx i) ∨ ∃ i, hewerPlace a.addr = .rx i)
    (hd : s.hewerDenied n a = false) (hw : s.hewerWait n a = none) : s.hewerPrep n [a] = .ok [.none] s := by
  obtain ⟨i, h⟩ | ⟨i, h⟩ := hp
  · exact hewerPrep_unpaid hd hw (queues_of_not_queuedClass (by simp [queuedClass, h])) (by simp [State.hewerBeat, h])
  · exact hewerPrep_unpaid hd hw (queues_of_not_queuedClass (by simp [queuedClass, h])) (by simp [State.hewerBeat, h])

theorem ite_ne_fault {α : Type} {c : Prop} [Decidable c] {x y : Access α} (hx : x ≠ .fault) (hy : y ≠ .fault) :
    (if c then x else y) ≠ .fault := by
  split <;> assumption

/-- Whether a push faults does not depend on its tag (R206). -/
theorem txPush_ne_fault {s : State} {e : EngineId} {v : Word} {g : Bool} (h : s.txPush e v g ≠ .fault) (g' : Bool) :
    s.txPush e v g' ≠ .fault := by
  have hb : ¬ bit v 16 = (s.txTap e).building.isSome := fun hb => h (if_pos hb)
  simp only [State.txPush, if_neg hb]
  exact ite_ne_fault nofun (ite_ne_fault nofun nofun)

/-! What giving a frame up leaves of the egress taps. -/

section
variable (s : State) (n : Fin 16)

theorem Quiet.tx {s t : State} (q : Quiet s t) (n : Fin 16) : t.hw[n].tx = s.hw[n].tx := (ends_of_quiet n q).tx

theorem lsrc_tx (m i : Fin 16) : (s.lsrc m i).hw[n].tx = s.hw[n].tx := by
  simp only [State.lsrc, modHw_hw, Fin.getElem_fin, vmod_getElem]
  split <;> rfl

theorem txDone_tx (f : Frame) : (s.txDone f).hw[n].tx = s.hw[n].tx := by
  unfold State.txDone
  split
  · exact lsrc_tx ..
  · rfl

theorem bufferNote_tx : s.bufferNote.hw[n].tx = s.hw[n].tx := by
  simp only [State.bufferNote]
  split
  · exact (quiet_raise _ _).tx n
  · split <;> rfl

theorem reap_tx : s.reap.hw[n].tx = s.hw[n].tx :=
  (bufferNote_tx _ n).trans (foldl_keeps (π := fun s : State => s.hw[n].tx) (fun s f => txDone_tx s n f) _ _)

theorem leaveAll_tx (id : Nat) (keep : Fin 80 → Bool) : (s.leaveAll id keep).hw[n].tx = s.hw[n].tx :=
  foldl_keeps (π := fun s : State => s.hw[n].tx) (fun s q => by split <;> rfl) _ _

theorem modFrame_tx (id : Nat) (f : Frame → Frame) : (s.modFrame id f).hw[n].tx = s.hw[n].tx := rfl

theorem txAbort_building {s : State} {n : Fin 16} {id : Nat} (hb : s.hw[n].tx.building = some id) :
    (s.txAbort (.hewer n)).hw[n].tx.building = none := by
  simp only [State.txAbort, State.abandonFrame, State.txTap, hb, Option.isSome_some, if_true, State.txRoom, lsrc_tx, reap_tx, modFrame_tx,
    leaveAll_tx]
  simp [State.modTap]

end

section
variable {s : State} {n : Fin 16} (hr : s.ready (.hewer n) = true)
include hr

/-- A store to word `i` of the egress tap that the tap takes. Whether it faults is asked with the tag of the value alone. -/
theorem completes_txStore {c : Instr} {a : Word} {i : Nat} {v : TWord} {u : State} {Q : State → Prop}
    (hc : directOf c = some (.hewer n, directStore (.hewer n) a v)) (hx : exec c s = .next (s.runDirect c)) (ha : hewerPlace a = .tx i)
    (ht : s.lo.tapOut n.val = true) (hf : s.txWrite (.hewer n) i v.val v.green ≠ .fault)
    (hw : s.txWrite (.hewer n) i v.val (v.green || s.hw[n].eng.core.ctlG) = .ok () u) (hQ : ∀ t, Ends n u t → Q t) : Completes c s Q := by
  have hd : s.hewerDenied n (Acc.store a v) = false := by
    cases hx : s.txWrite (.hewer n) i v.val v.green with
    | fault => exact absurd hx hf
    | ok _ _ | stall _ =>
      simp only [State.hewerDenied, Acc.store, ha, ht, hx]
      rfl
  have hwait : s.hewerWait n (Acc.store a v) = none := by
    simp only [State.hewerWait, Acc.store, ha, hw]
  refine completes_directStore hc hx hr (hewerPrep_tap (.inl ⟨i, ha⟩) hd hwait) fun t h => hQ t ?_
  have hs : s.hewerStore n a v .none = u := by
    simp only [State.hewerStore, queuedClass, ha, hw, Bool.false_eq_true, if_false]
  rw [← hs]
  exact h

section
variable (ht : s.lo.tapOut n.val = true)
include ht

theorem txDescWrite_writes (i : Fin 3) (v : Word) (hb : s.hw[n].tx.building = none) :
    Completes (.txDescWrite (.hewer n) i v) s (fun t => t.hw[n].tx.desc[i] = v) := by
  have hw (g : Bool) : s.txWrite (.hewer n) i.val v g = .ok () (s.modTap (.hewer n) fun x => { x with desc := vset x.desc i v }) := by
    have h : s.txDesc (.hewer n) i v = .ok () (s.modTap (.hewer n) fun x => { x with desc := vset x.desc i v }) :=
      if_neg (by simp only [State.txTap, hb]; decide)
    match i with
    | 0 => exact h
    | 1 => exact h
    | 2 => exact h
  refine completes_txStore hr rfl rfl (hewerPlace_txDesc i) ht (by rw [TWord.plain, hw]; nofun) (hw _) fun t h => ?_
  rw [h.tx]
  simp [State.modTap]

theorem txAbort_aborts {id : Nat} (hb : s.hw[n].tx.building = some id) :
    Completes (.txAbort (.hewer n)) s (fun t => t.hw[n].tx.building = none) := by
  refine completes_txStore hr rfl rfl (i := 4) (by decide) ht nofun rfl fun t h => ?_
  rw [h.tx]
  exact txAbort_building hb

theorem txTsqRead_reads : Completes (.txTsqRead (.hewer n)) s (fun t =>
    t.rd = [(s.hw[n].tx.tsq.headD 0xB0000).setWidth 32] ∧ t.hw[n].tx.tsq = s.hw[n].tx.tsq.tail) := by
  have ha : hewerPlace 0xCA006 = .tx 6 := by decide
  have hd : s.hewerDenied n (Acc.load 0xCA006) = false := by
    simp only [State.hewerDenied, Acc.load, ha, ht]
    rfl
  have hwait : s.hewerWait n (Acc.load 0xCA006) = none := by simp only [State.hewerWait, Acc.load, ha]
  refine completes_directLoad rfl rfl hr (hewerPrep_tap (.inl ⟨6, ha⟩) hd hwait) fun t h => ?_
  have hl : s.hewerLoad n 0xCA006 = (TWord.plain (s.hw[n].tx.tsq.headD idleWord), s.tsqPop (.hewer n)) := by
    simp only [State.hewerLoad, ha]; rfl
  rw [hl] at h
  refine ⟨h.rd, ?_⟩
  rw [h.tx]
  simp [State.tsqPop, State.modTap]

theorem txPush_pushes {v : Word} {g : Bool} {u : State} (hu : s.txPush (.hewer n) v (g || s.hw[n].eng.core.ctlG) = .ok () u) :
    Completes (.txPush (.hewer n) v g) s (fun t => t.lnd = u.lnd ∧ t.hw[n].tx = u.hw[n].tx) :=
  completes_txStore hr rfl rfl (i := 3) (v := { val := v, green := g }) (by decide) ht
    (txPush_ne_fault (by rw [hu]; nofun) g) hu fun _ h => ⟨h.lnd, h.tx⟩

end

theorem rxNext_releases {f : Frame} {v : Word} (ht : s.lo.tapIn n.val = true) (hh : s.rxHead n = some f) (hv : f.verdict = some v) :
    Completes (.rxNext (.hewer n)) s (fun t => t.lnd = (s.releaseHead n).lnd) := by
  have ha : hewerPlace 0xC9808 = .rx 0x1808 := by decide
  have hw : s.rxWrite (.hewer n) 0x1808 = .ok () (s.releaseHead n) := by simp [State.rxWrite, State.nextFrame, hh, hv]
  have hd : s.hewerDenied n (Acc.store 0xC9808 TWord.zero) = false := by
    simp only [State.hewerDenied, Acc.store, ha, ht]
    rfl
  have hwait : s.hewerWait n (Acc.store 0xC9808 TWord.zero) = none := by simp only [State.hewerWait, Acc.store, ha, hw]
  refine completes_directStore rfl rfl hr (hewerPrep_tap (.inr ⟨_, ha⟩) hd hwait) fun t h => ?_
  have hs : s.hewerStore n 0xC9808 TWord.zero .none = s.releaseHead n := by
    simp only [State.hewerStore, queuedClass, ha, hw, Bool.false_eq_true, if_false]
  rw [h.lnd]
  exact congrArg State.lnd hs

/-- PVC_DATA (09 R374): a control word of the Hewer's own, at no cost. -/
theorem pvcDataRead_reads : Completes (.pvcDataRead n) s (fun t =>
    t.rd = [(s.lo.pvcWord s.hw[n].hio.pvcTable.toNat s.hw[n].hio.pvcIndex.toNat).setWidth 32] ∧
    t.hw[n].hio.pvcIndex = s.hw[n].hio.pvcIndex + 1) := by
  have ha : hewerPlace 0xE0021 = .io 0x21 := by decide
  have hd : s.hewerDenied n (Acc.load 0xE0021) = false := by
    simp only [State.hewerDenied, Acc.load, ha]
    rfl
  have hwait : s.hewerWait n (Acc.load 0xE0021) = none := by simp only [State.hewerWait, Acc.load, ha]
  have hb : s.hewerBeat n (Acc.load 0xE0021) = none := by
    simp only [State.hewerBeat, Acc.load, ha]
    rfl
  refine completes_directLoad rfl rfl hr (hewerPrep_unpaid hd hwait rfl hb) fun t h => ?_
  have hl : s.hewerLoad n 0xE0021 = (TWord.plain (s.pvcData n).1, (s.pvcData n).2) := by
    simp only [State.hewerLoad, ha]
    rfl
  rw [hl] at h
  refine ⟨h.rd, ?_⟩
  rw [h.hio]
  simp [State.pvcData, State.modHio]

end

/-! The Warden's, which take effect at their release, and events raised (05 R193; 19). -/

theorem evtRaise_warden {s : State} (ha : s.awake = true) {id : BitVec 7} (hid : id.toNat < 112 ∨ 114 < id.toNat) :
    Completes (.evtRaise .warden id) s (fun t => t.evt.status.getLsbD id.toNat = true) := by
  have hx : exec (.evtRaise .warden id) s = .next (s.raiseBy actWarden (ix 128 id.toNat)) := by
    show execEvtRaise .warden id s = _
    rw [execEvtRaise, if_neg (by simp [ha]), State.wardenRaise, if_neg (by omega)]
  have hi : (ix 128 id.toNat).val = id.toNat := Nat.mod_eq_of_lt id.isLt
  refine ⟨_, hx, ?_⟩
  have h := raiseBy_status s actWarden (ix 128 id.toNat)
  rwa [hi] at h

theorem evtRaise_pvcMismatch {s : State} (ha : s.awake = true) (n : Fin 16) :
    Completes (.evtRaise (.hewer n) 39) s (fun t => t.evt.status.getLsbD 39 = true) := by
  have hx : exec (.evtRaise (.hewer n) 39) s = .next (s.raiseBy (actHewer n) evPvcMismatch) := by
    show execEvtRaise (.hewer n) 39 s = _
    rw [execEvtRaise, if_neg (by simp [ha]), State.evtRaiseAt, if_pos rfl]
  exact ⟨_, hx, raiseBy_status s (actHewer n) evPvcMismatch⟩

theorem rxNext_warden {s : State} (ha : s.awake = true) : Completes (.rxNext .warden) s (fun t => t = s.releaseWarden) :=
  ⟨_, congrArg Host.Outcome.next (if_pos ha), rfl⟩

theorem semRelease_warden {s : State} {k : Fin 64} (ha : s.awake = true) (hl : 1 ≤ s.sbu.act[actWarden].loft) (hh : s.sem[k].held = true)
    (ho : s.sem[k].owner = 16) : Completes (.semRelease .warden k) s (fun t =>
      t.sem = vset s.sem k { s.sem[k] with held := false } ∧ t.sbu.act[actWarden].loft = s.sbu.act[actWarden].loft - 1) := by
  have hx : exec (.semRelease .warden k) s = .next ((s.spendBeat actWarden .loft).semRelease 16 k) := by
    show execSemRelease .warden k s = _
    simp only [execSemRelease, ha, if_true, State.paidWrite, beat_of_left hl]
  refine ⟨_, hx, ?_⟩
  rw [semRelease_own (s := s.spendBeat actWarden .loft) hh ho]
  exact ⟨rfl, by simp [State.spendBeat]⟩

/-! Takes that meet in one core cycle (R197), and what joins the queue (log 170). -/

theorem sift_of_noReset {cs : List Instr} (h : ∀ c ∈ cs, resetOf c = none) : sift cs = cs := by
  have hf : ([ResetKind.C, ResetKind.W, ResetKind.D].findSome? fun k => cs.find? fun c => resetOf c == some k) = none := by
    rw [List.findSome?_eq_none_iff]
    intro k _
    rw [List.find?_eq_none]
    intro c hc
    simp [h c hc]
  simp [sift, hf]

/-- Of two commands that meet, the one of lower rank comes first. -/
theorem inOrder_swap {c d : Instr} (hc : resetOf c = none) (hd : resetOf d = none) (h : rank d < rank c) : inOrder [c, d] = [d, c] := by
  have hs : sift [c, d] = [c, d] := sift_of_noReset (List.forall_mem_cons.2 ⟨hc, List.forall_mem_singleton.2 hd⟩)
  simp only [inOrder, hs, List.foldr, rankIn, if_neg (Nat.not_le.2 h)]

theorem meet_takes_lowestFirst {s : State} {k : Fin 64} {m n : Fin 16} (hp : s.pending = []) (hlt : n.val < m.val)
    (hr : s.ready (.hewer n) = true) (hi : s.islandOn 20 = true) (hl : 1 ≤ s.sbu.act[(actHewer n)].loft) (hf : s.sem[k].held = false) :
    ∃ t u, step (s.meet [.semTake (.hewer m) k, .semTake (.hewer n) k]) = .next t ∧ step t = .next u ∧
      t.sem[k] = { held := true, orphan := false, owner := BitVec.ofNat 5 n.val } ∧ u.sem[k] = t.sem[k] := by
  have hm : rank (.semTake (.hewer n) k) < rank (.semTake (.hewer m) k) := by
    show 100 * 2 + (2 + n.val) < 100 * 2 + (2 + m.val)
    omega
  simp only [State.meet, hp, List.nil_append, inOrder_swap rfl rfl hm]
  obtain ⟨t, ht, hsem, hpend, hpwr⟩ := semTake_takes (s := { s with pending := [.semTake (.hewer m) k] }) (n := n) (k := k) hr hi hl hf
  have htk : t.sem[k] = { held := true, orphan := false, owner := BitVec.ofNat 5 n.val } := by simp [hsem]
  have hit : t.islandOn 20 = true := by rw [State.islandOn, hpwr]; exact hi
  obtain ⟨u, hu, husem⟩ := semTake_keeps (s := { t with pending := [] }) (k := k) m hit (congrArg Sem.held htk)
  refine ⟨t, u, ht, ?_, htk, by rw [husem]⟩
  rw [step, hpend]
  exact hu

theorem meet_stake (s : State) (n : Fin 16) (f g : L3) :
    (s.meet [.stake (.hewer n) f, .stake .warden g]).pending = s.pending ++ [.stake .warden g, .stake (.hewer n) f] := by
  have hm : rank (.stake .warden g) < rank (.stake (.hewer n) f) := by
    show 100 * 2 + 0 < 100 * 2 + (2 + n.val)
    omega
  simp only [State.meet, inOrder_swap rfl rfl hm]

theorem meet_inOrder (s : State) {cs : List Instr} (h : ∀ c ∈ cs, resetOf c = none) :
    ∃ q, (s.meet cs).pending = s.pending ++ q ∧ q.Perm cs ∧ q.Pairwise fun c d => rank c ≤ rank d := by
  have hp := inOrder_perm cs
  rw [sift_of_noReset h] at hp
  exact ⟨inOrder cs, rfl, hp, inOrder_sorted cs⟩

/-- What a change of semaphore `k` alone leaves of the others. -/
theorem vset_others {v w : Vector Sem 64} {k : Fin 64} {x : Sem} (h : w = vset v k x) :
    w[k] = x ∧ ∀ j : Fin 64, j ≠ k → w[j] = v[j] := by
  subst h
  refine ⟨by simp, fun j hj => ?_⟩
  have hne : ¬ k.val = j.val := fun e => hj (Fin.ext e.symm)
  exact (vset_getElem ..).trans (if_neg hne)

/-- A command that completes with `Q` completes with what `Q` gives. -/
theorem Completes.imp {c : Instr} {s : State} {Q R : State → Prop} (h : Completes c s Q) (hi : ∀ t, Q t → R t) : Completes c s R :=
  Exists.imp (fun t ⟨hx, hq⟩ => ⟨hx, hi t hq⟩) h

/-- Settles O17: each access is ready for its effect at once or costs a beat that the Hewer has; the Warden's take effect at their
release; and of what meets in one core cycle the lower rank comes first. -/
theorem engineAccesses : Obligations.EngineAccesses := by
  unfold Obligations.EngineAccesses
  refine ⟨fun s n hr => ⟨fun ht => ?taps, fun f v hin hh hv => rxNext_releases hr hin hh hv, fun k hi hl => ?sems, pvcDataRead_reads hr⟩,
    fun s id ha => ⟨evtRaise_warden ha, evtRaise_pvcMismatch ha⟩, fun s f ha _ => rxNext_warden ha, fun s k ha hl hh ho => ?wardenSem,
    fun s k m n hp hlt hr hi hl hf => meet_takes_lowestFirst hp hlt hr hi hl hf, meet_stake, fun s cs h => meet_inOrder s h⟩
  case taps =>
    exact ⟨fun i v hb => txDescWrite_writes hr ht i v hb, fun id hb => txAbort_aborts hr ht hb, txTsqRead_reads hr ht,
      fun v g u hu => txPush_pushes hr ht hu⟩
  case sems =>
    refine ⟨fun hf => ?_, semTake_refused hr hi hl, fun hq hh ho => ?_⟩
    · exact (semTake_takes hr hi hl hf).imp fun t ⟨h, _⟩ => vset_others h
    · refine (semRelease_releases hr hl hq hh ho).imp fun t h => ?_
      obtain ⟨hk, hothers⟩ := vset_others h
      exact ⟨congrArg Sem.held hk, hothers⟩
  case wardenSem =>
    refine (semRelease_warden ha hl hh ho).imp fun t ⟨h, hloft⟩ => ?_
    obtain ⟨hk, hothers⟩ := vset_others h
    exact ⟨congrArg Sem.held hk, hothers, hloft⟩

end Sys2Proof.Machine

namespace Sys2Proof.Machine

/-! What an entry finds and leaves (06 R257, R262): own memory word by word, the rest of the device, and the engine itself. Each step of
an entry, and each thing that comes before it, is one of three: it pushes a word, it changes the engine, or it charges and counts. -/

/-! Words of own memory (05 R185; 19, address view). -/

/-- Unlike `memRead_memPut`, of any listed content. -/
theorem memRead_memPut_ne {α : Type} (d : α) {a b : Nat} (h : b ≠ a) (v : α) : ∀ m : Mem α, memRead d (memPut a v m) b = memRead d m b
  | [] => by simp [memPut, memRead, h.symm]
  | (k, u) :: m => by
    unfold memPut
    split
    · simp [memRead, h.symm]
    · split
      · next e => subst e; simp [memRead, h.symm]
      · simp only [memRead, memRead_memPut_ne d h v m]

/-- A read of another address after a write of any listed content. -/
theorem memRead_memWrite_ne {α : Type} [DecidableEq α] (d : α) (m : Mem α) {a b : Nat} (h : b ≠ a) (v : α) :
    memRead d (memWrite d m a v) b = memRead d m b := by
  unfold memWrite
  split
  · rw [memRead_memDel, if_neg h]
  · exact memRead_memPut_ne d h v m

theorem setLocal_eng (h : Hewer) (a : Nat) (v : TWord) : (h.setLocal a v).eng = h.eng := by
  unfold Hewer.setLocal
  dsimp only
  split <;> rfl

theorem word_setLocal_same (h : Hewer) (a : Nat) (v : TWord) : (h.setLocal a v).word a = v := by
  unfold Hewer.setLocal Hewer.word
  by_cases low : (a < 16384) = ((!h.bank) = true) <;> simp only [low, if_true, if_false, memRead_memWrite_same]

/-- Words that differ lie in different banks or at different places of one. -/
theorem word_setLocal_ne (h : Hewer) {a b : Nat} (ha : a < 0x8000) (hb : b < 0x8000) (hne : b ≠ a) (v : TWord) :
    (h.setLocal a v).word b = h.word b := by
  unfold Hewer.setLocal Hewer.word
  by_cases low : (a < 16384) = ((!h.bank) = true) <;> by_cases low' : (b < 16384) = ((!h.bank) = true) <;>
    simp only [low, low', if_true, if_false]
  all_goals
    refine memRead_memWrite_ne _ _ (fun place => ?_) v
    have : a < 16384 ↔ b < 16384 := by grind
    omega

/-! What is left of the rest of the device. -/

theorem sameDevice_modHw (s : State) (n : Fin 16) (f : Hewer → Hewer) : SameDevice s (s.modHw n f) := by constructor <;> rfl
theorem sameDevice_modWdn (s : State) (f : Wdn → Wdn) : SameDevice s (s.modWdn f) := by constructor <;> rfl

theorem sameDevice_modEng (s : State) (e : EngineId) (f : Eng → Eng) : SameDevice s (s.modEng e f) := by
  cases e with
  | hewer n => exact sameDevice_modHw s n _
  | warden => exact sameDevice_modWdn s fun w => { w with eng := f w.eng }

theorem Quiet.sameDevice {s t : State} (q : Quiet s t) : SameDevice s t :=
  ⟨q.loft, q.gal, q.sem, q.tb, q.lay, q.plans, q.pins, q.eth, q.lnd, q.grd, q.can, q.trd, q.twb, q.chu, q.sec, q.upd, q.pwr, q.flash,
    q.pending, q.routes⟩

theorem SameDevice.trans {s t u : State} (a : SameDevice s t) (b : SameDevice t u) : SameDevice s u where
  loft := b.loft.trans a.loft
  gal := b.gal.trans a.gal
  sem := b.sem.trans a.sem
  tb := b.tb.trans a.tb
  lay := b.lay.trans a.lay
  plans := b.plans.trans a.plans
  pins := b.pins.trans a.pins
  eth := b.eth.trans a.eth
  lnd := b.lnd.trans a.lnd
  grd := b.grd.trans a.grd
  can := b.can.trans a.can
  trd := b.trd.trans a.trd
  twb := b.twb.trans a.twb
  chu := b.chu.trans a.chu
  sec := b.sec.trans a.sec
  upd := b.upd.trans a.upd
  pwr := b.pwr.trans a.pwr
  flash := b.flash.trans a.flash
  pending := b.pending.trans a.pending
  routes := b.routes.trans a.routes

/-- Own memory of engine `e` and the rest of the device are as they were. -/
structure KeepsOwn (e : EngineId) (s t : State) : Prop where
  own    : ∀ a, t.ownWord e a = s.ownWord e a
  device : SameDevice s t

theorem KeepsOwn.trans {e : EngineId} {s t u : State} (a : KeepsOwn e s t) (b : KeepsOwn e t u) : KeepsOwn e s u :=
  ⟨fun k => (b.own k).trans (a.own k), a.device.trans b.device⟩

theorem keepsOwn_modHw {s : State} {n : Fin 16} {f : Hewer → Hewer}
    (h : ∀ x, (f x).bank = x.bank ∧ (f x).bankA = x.bankA ∧ (f x).bankB = x.bankB) : KeepsOwn (.hewer n) s (s.modHw n f) := by
  refine ⟨fun a => ?_, sameDevice_modHw s n f⟩
  obtain ⟨bank, low, high⟩ := h s.hw[n]
  simp only [Fin.getElem_fin] at bank low high
  simp [State.ownWord, Hewer.word, bank, low, high]

theorem keepsOwn_modWdn {s : State} {f : Wdn → Wdn} (h : ∀ w, (f w).ram = w.ram) : KeepsOwn .warden s (s.modWdn f) :=
  ⟨fun a => by simp only [State.ownWord, modWdn_wdn, h], sameDevice_modWdn s f⟩

theorem keepsOwn_modEng (s : State) (e : EngineId) (f : Eng → Eng) : KeepsOwn e s (s.modEng e f) := by
  cases e with
  | hewer n => exact keepsOwn_modHw fun _ => ⟨rfl, rfl, rfl⟩
  | warden => exact keepsOwn_modWdn (f := fun w => { w with eng := f w.eng }) fun _ => rfl

theorem Quiet.keepsOwn {s t : State} (q : Quiet s t) (e : EngineId) : KeepsOwn e s t := by
  refine ⟨fun a => ?_, q.sameDevice⟩
  cases e with
  | hewer n =>
    obtain ⟨v, h⟩ := q.hw n.val n.isLt
    simp [State.ownWord, Hewer.word, h]
  | warden =>
    obtain ⟨v, x, y, z, h⟩ := q.wdn
    simp only [State.ownWord, h]

/-- Beside these, engine `e` may load and store what it could, and of the engine the core and all special registers but pending vectors
are as they were: so it is with what comes before an entry, and with its charge. -/
structure KeepsEngine (e : EngineId) (s t : State) : Prop extends KeepsOwn e s t where
  owns : ∀ a, s.Owns e a → t.Owns e a
  core : (t.eng e).core = (s.eng e).core
  vec  : ∃ p, (t.eng e).vec = { (s.eng e).vec with ipend := p }

theorem KeepsEngine.trans {e : EngineId} {s t u : State} (a : KeepsEngine e s t) (b : KeepsEngine e t u) : KeepsEngine e s u where
  toKeepsOwn := a.toKeepsOwn.trans b.toKeepsOwn
  owns k h := b.owns k (a.owns k h)
  core := b.core.trans a.core
  vec := by
    obtain ⟨p, hp⟩ := a.vec
    obtain ⟨q, hq⟩ := b.vec
    exact ⟨q, by rw [hq, hp]⟩

theorem KeepsEngine.xbase {e : EngineId} {s t : State} (k : KeepsEngine e s t) : (t.eng e).vec.xbase = (s.eng e).vec.xbase := by
  obtain ⟨p, hp⟩ := k.vec
  rw [hp]

theorem KeepsEngine.vbase {e : EngineId} {s t : State} (k : KeepsEngine e s t) : (t.eng e).vec.vbase = (s.eng e).vec.vbase := by
  obtain ⟨p, hp⟩ := k.vec
  rw [hp]

theorem Quiet.keepsEngine {s t : State} (q : Quiet s t) (e : EngineId) : KeepsEngine e s t where
  toKeepsOwn := q.keepsOwn e
  owns a h := by
    cases e with
    | hewer n => simpa only [State.Owns, q.lo] using h
    | warden =>
      obtain ⟨v, x, y, z, hw⟩ := q.wdn
      simpa only [State.Owns, hw] using h
  core := q.core e
  vec := by
    obtain ⟨p, h⟩ := q.eng e
    exact ⟨p, by rw [h]⟩

theorem owns_modEng {s : State} {e : EngineId} {a : Word} (f : Eng → Eng) (h : s.Owns e a) : (s.modEng e f).Owns e a := by
  cases e <;> exact h

theorem keepsEngine_still (s : State) (e : EngineId) : KeepsEngine e s (s.modEng e (·.still)) where
  toKeepsOwn := keepsOwn_modEng s e _
  owns _ := owns_modEng _
  core := by rw [modEng_eng]; rfl
  vec := ⟨(s.eng e).vec.ipend, by rw [modEng_eng]; rfl⟩

/-- A part of a Hewer beside its engine and banks changes. -/
theorem keepsEngine_modHw {s : State} {n : Fin 16} {f : Hewer → Hewer}
    (h : ∀ x, (f x).eng = x.eng ∧ (f x).bank = x.bank ∧ (f x).bankA = x.bankA ∧ (f x).bankB = x.bankB) :
    KeepsEngine (.hewer n) s (s.modHw n f) := by
  obtain ⟨eng, -⟩ := h s.hw[n]
  have same : (s.modHw n f).eng (.hewer n) = s.eng (.hewer n) := by
    simp only [Fin.getElem_fin] at eng
    simp [State.eng, eng]
  exact { keepsOwn_modHw fun x => (h x).2 with
    owns := fun _ h => h, core := by rw [same], vec := ⟨_, by rw [same]⟩ }

theorem keepsEngine_refl (e : EngineId) (s : State) : KeepsEngine e s s := (Quiet.refl s).keepsEngine e

theorem keepsEngine_fetched (s : State) (e : EngineId) : KeepsEngine e s (s.fetched e) := by
  cases e with
  | hewer n => exact keepsEngine_modHw fun _ => ⟨rfl, rfl, rfl, rfl⟩
  | warden => exact keepsEngine_refl .warden s

theorem keepsEngine_accCount (s : State) (n : Fin 16) : KeepsEngine (.hewer n) s (s.accCount n) :=
  (keepsEngine_modHw (f := fun h => { h with regs := { h.regs with accCnt := satInc h.regs.accCnt } }) fun _ => ⟨rfl, rfl, rfl, rfl⟩).trans
    ((quiet_accCount s n).keepsEngine _)

theorem keepsEngine_charge (s : State) (e : EngineId) (k : Nat) : KeepsEngine e s (s.charge e k) := by
  cases e with
  | hewer n => exact (quiet_charge_hewer s n k).keepsEngine _
  | warden =>
    have aged : KeepsEngine .warden s (s.modWdn fun w => { w with age := w.age + k }) :=
      { keepsOwn_modWdn (f := fun w => { w with age := w.age + k }) fun _ => rfl with owns := fun _ h => h, core := rfl, vec := ⟨_, rfl⟩ }
    exact aged.trans ((quiet_charge_warden s k).keepsEngine _)

/-- What the activity's compute covers is charged without an event. -/
theorem charge_eng_of_left {s : State} {e : EngineId} {k : Nat} (h : k ≤ s.sbu.act[(engAct e)].cpu) : (s.charge e k).eng e = s.eng e := by
  cases e with
  | hewer n =>
    simp only [State.charge, State.compute]
    split
    · rfl
    · rw [if_pos (show k ≤ s.sbu.act[(actHewer n)].cpu from h)]; rfl
  | warden =>
    simp only [State.charge, State.compute]
    rw [if_pos (show k ≤ s.sbu.act[actWarden].cpu from h)]; rfl

/-! The frame pushed (06 R257). -/

theorem toNat_append_eq_add {v w : Nat} (x : BitVec v) (y : BitVec w) : (x ++ y).toNat = 2 ^ w * x.toNat + y.toNat := by
  rw [BitVec.toNat_append, ← Nat.shiftLeft_add_eq_or_of_lt y.isLt, Nat.shiftLeft_eq, Nat.mul_comm]

theorem toNat_bool_one (b : Bool) : (bool 1 b).toNat = b.toNat := by cases b <;> rfl

/-- The fields of the status word, one beside the other, are its sum. -/
theorem status_eq_entryStatus (c : Core) (exc : Bool) : c.status exc = entryStatus c exc := by
  refine BitVec.eq_of_toNat_eq ?_
  simp only [Core.status, entryStatus, toNat_append_eq_add, toNat_bool_one, BitVec.toNat_ofNat]
  have := c.lvl.isLt
  have bit (b : Bool) : b.toNat < 2 := b.toNat_lt
  have := bit c.ie
  have := bit exc
  have := bit c.mark
  have := bit c.fl.n
  have := bit c.fl.z
  have := bit c.fl.c
  have := bit c.fl.v
  have := bit c.fl.g
  omega

section
variable {s : State} {e : EngineId} {a : Word}

theorem pushable_of_owns (h : s.Owns e a) : s.pushable e a = true := by
  cases e with
  | hewer n => simpa [State.Owns, State.pushable] using h
  | warden =>
    obtain ⟨code, ram, -⟩ := h
    simp [State.pushable, code, ram]

theorem lt_of_pushable {n : Fin 16} (h : s.pushable (.hewer n) a = true) : a.toNat < 0x8000 := by
  simp only [State.pushable, Bool.or_eq_true, Bool.and_eq_true, decide_eq_true_eq] at h
  omega

theorem pushWord_eng (v : TWord) : (s.pushWord e a v).eng e = s.eng e := by
  cases e with
  | hewer n => simp [State.pushWord, State.eng, setLocal_eng]
  | warden => rfl

theorem pushWord_sbu (v : TWord) : (s.pushWord e a v).sbu = s.sbu := by cases e <;> rfl

theorem pushWord_sameDevice (v : TWord) : SameDevice s (s.pushWord e a v) := by
  cases e with
  | hewer n => exact sameDevice_modHw s n _
  | warden => exact sameDevice_modWdn s _

theorem pushWord_pushable (v : TWord) (b : Word) : (s.pushWord e a v).pushable e b = s.pushable e b := by cases e <;> rfl

theorem pushWord_ownWord_same (h : s.pushable e a = true) (v : TWord) : (s.pushWord e a v).ownWord e a.toNat = stored e v := by
  cases e with
  | hewer n => simp [State.pushWord, State.ownWord, stored, lt_of_pushable h, word_setLocal_same]
  | warden => simp [State.pushWord, State.ownWord, stored, Wdn.setRam, Wdn.record, memRead_memWrite_same]

theorem pushWord_ownWord_ne (h : s.pushable e a = true) (v : TWord) {k : Nat} (hk : k ≠ a.toNat) :
    (s.pushWord e a v).ownWord e k = s.ownWord e k := by
  cases e with
  | hewer n =>
    simp only [State.ownWord]
    split
    · next hlt => simp [State.pushWord, word_setLocal_ne _ (lt_of_pushable h) hlt hk]
    · rfl
  | warden => simp only [State.pushWord, State.ownWord, modWdn_wdn, Wdn.setRam, Wdn.record, memRead_memWrite_ne _ _ hk]

end

/-- Where an entry pushes its frame. -/
def Core.entrySp (c : Core) : Word := c.w[(14 : Fin 16)] - 2

/-- Both words of the frame are the engine's own, with room in the Warden's journal. -/
structure State.FrameFits (s : State) (e : EngineId) : Prop where
  low  : s.Owns e (s.eng e).core.entrySp
  high : s.Owns e ((s.eng e).core.entrySp + 1)

theorem State.FrameFits.keeps {s t : State} {e : EngineId} (h : s.FrameFits e) (k : KeepsEngine e s t) : t.FrameFits e :=
  ⟨k.core ▸ k.owns _ h.low, k.core ▸ k.owns _ h.high⟩

/-- From `s` to `t` an entry of engine `e` has pushed its frame, and nothing else of own memory and the rest of the device has changed. -/
structure Pushed (e : EngineId) (ret : Word) (exc : Bool) (s t : State) : Prop where
  ret    : t.ownWord e (s.eng e).core.entrySp.toNat = ⟨ret, false⟩
  status : t.ownWord e ((s.eng e).core.entrySp + 1).toNat = stored e ⟨entryStatus (s.eng e).core exc, (s.eng e).core.fl.g⟩
  same   : OwnSame e [(s.eng e).core.entrySp, (s.eng e).core.entrySp + 1] s t
  device : SameDevice s t

section
variable {e : EngineId} {ret : Word} {exc : Bool} {s t u : State}

theorem Pushed.after (p : Pushed e ret exc s t) (k : KeepsOwn e t u) : Pushed e ret exc s u where
  ret := (k.own _).trans p.ret
  status := (k.own _).trans p.status
  same a lt hne := (k.own a).trans (p.same a lt hne)
  device := p.device.trans k.device

theorem Pushed.before (k : KeepsEngine e s t) (p : Pushed e ret exc t u) : Pushed e ret exc s u where
  ret := k.core ▸ p.ret
  status := k.core ▸ p.status
  same a lt hne := (p.same a lt (k.core ▸ hne)).trans (k.own a)
  device := k.device.trans p.device

end

/-- Both words of a frame pushed, with the engine as it was. -/
def State.framed (e : EngineId) (ret : Word) (exc : Bool) (s : State) : State :=
  let c := (s.eng e).core
  (s.pushWord e c.entrySp ⟨ret, false⟩).pushWord e (c.entrySp + 1) ⟨c.status exc, c.fl.g⟩

theorem pushed_framed {s : State} {e : EngineId} (h : s.FrameFits e) (ret : Word) (exc : Bool) : Pushed e ret exc s (s.framed e ret exc) := by
  have apart : (s.eng e).core.entrySp.toNat ≠ ((s.eng e).core.entrySp + 1).toNat := by bv_omega
  have h0 := pushable_of_owns h.low
  have h1 := (pushWord_pushable (a := (s.eng e).core.entrySp) ⟨ret, false⟩ _).trans (pushable_of_owns h.high)
  constructor
  case ret =>
    rw [State.framed, pushWord_ownWord_ne h1 _ apart, pushWord_ownWord_same h0]
    cases e <;> rfl
  case status => rw [State.framed, pushWord_ownWord_same h1, status_eq_entryStatus]
  case same =>
    intro k _ hne
    have ne0 := hne _ (List.mem_cons_self ..)
    have ne1 := hne _ (List.mem_cons_of_mem _ (List.mem_cons_self ..))
    rw [State.framed, pushWord_ownWord_ne h1 _ ne1.symm, pushWord_ownWord_ne h0 _ ne0.symm]
  case device => exact (pushWord_sameDevice _).trans (pushWord_sameDevice _)

theorem framed_eng (s : State) (e : EngineId) (ret : Word) (exc : Bool) : (s.framed e ret exc).eng e = s.eng e := by
  rw [State.framed, pushWord_eng, pushWord_eng]

theorem framed_sbu (s : State) (e : EngineId) (ret : Word) (exc : Bool) : (s.framed e ret exc).sbu = s.sbu := by
  rw [State.framed, pushWord_sbu, pushWord_sbu]

/-- Where both words are the engine's own, the frame is pushed and w14 lowered. -/
theorem pushFrame_of_fits {s : State} {e : EngineId} (h : s.FrameFits e) (ret : Word) (exc : Bool) :
    s.pushFrame e ret exc = some ((s.framed e ret exc).modCore e fun c => { c with w := vset c.w 14 (s.eng e).core.entrySp }) := by
  have both : (s.pushable e (s.eng e).core.entrySp && s.pushable e ((s.eng e).core.entrySp + 1)) = true := by
    rw [pushable_of_owns h.low, pushable_of_owns h.high]; rfl
  exact if_pos both

/-! An exception (06 R262). -/

/-- From `s` to `t` engine `e` has entered its exception handler, to come back to `ret`. -/
structure ExceptionEntered (e : EngineId) (cause : BitVec 4) (detail ret : Word) (s t : State) : Prop where
  core   : (t.eng e).core = { (s.eng e).core with w := vset (s.eng e).core.w 14 (s.eng e).core.entrySp, pc := (s.eng e).vec.xbase }
  xcause : (t.eng e).vec.xcause = cause
  xaddr  : (t.eng e).vec.xaddr = detail
  pushed : Pushed e ret true s t

theorem ExceptionEntered.before {e : EngineId} {cause : BitVec 4} {detail ret : Word} {s t u : State} (k : KeepsEngine e s t)
    (x : ExceptionEntered e cause detail ret t u) : ExceptionEntered e cause detail ret s u where
  core := by rw [x.core, k.core, k.xbase]
  xcause := x.xcause
  xaddr := x.xaddr
  pushed := x.pushed.before k

theorem setCause_eng (s : State) (e : EngineId) (cause : BitVec 4) (detail : Word) :
    (s.setCause e cause detail).eng e = { s.eng e with vec := { (s.eng e).vec with xcause := cause, xaddr := detail } } := by
  cases e with
  | hewer n => exact modVec_eng s (.hewer n) fun v => { v with xcause := cause, xaddr := detail }
  | warden => rfl

theorem keepsOwn_setCause (s : State) (e : EngineId) (cause : BitVec 4) (detail : Word) : KeepsOwn e s (s.setCause e cause detail) := by
  have written (u : State) : KeepsOwn e u (u.modVec e fun v => { v with xcause := cause, xaddr := detail }) := keepsOwn_modEng u e _
  cases e with
  | hewer n => exact written s
  | warden =>
    exact (keepsOwn_modWdn (f := fun w => w.record (.cause w.eng.vec.xcause w.eng.vec.xaddr)) fun _ => rfl).trans (written _)

/-- An engine with a handler, whose two words are its own, enters it. -/
theorem enterExc_enters {s : State} {e : EngineId} (h : s.FrameFits e) (hx : (s.eng e).vec.xbase ≠ 0) (cause : BitVec 4) (detail : Word) :
    ExceptionEntered e cause detail (if cause = 3 then (s.eng e).core.pc + 1 else (s.eng e).core.pc) s (s.enterExc e cause detail) := by
  have still := keepsEngine_still s e
  have fits := h.keeps still
  refine ExceptionEntered.before still ?_
  rw [← still.xbase] at hx
  rw [← still.core]
  unfold State.enterExc
  generalize s.modEng e (·.still) = u at hx fits ⊢
  simp only [if_neg hx, pushFrame_of_fits fits]
  generalize (if cause = 3 then (u.eng e).core.pc + 1 else (u.eng e).core.pc) = ret
  have charged (t : State) : KeepsEngine e t (t.charge e 8) := keepsEngine_charge t e 8
  constructor
  case core => simp only [charge_core, modCore_eng, setCause_eng, framed_eng]
  case xcause =>
    obtain ⟨p, hp⟩ := (charged _).vec
    rw [hp, modCore_eng, setCause_eng]
  case xaddr =>
    obtain ⟨p, hp⟩ := (charged _).vec
    rw [hp, modCore_eng, setCause_eng]
  case pushed =>
    exact (((pushed_framed fits ret true).after (keepsOwn_modEng _ e _)).after (keepsOwn_setCause ..)).after
      ((keepsOwn_modEng _ e _).trans (charged _).toKeepsOwn)

/-- Room in the Warden's journal for an entry; a Hewer has none. -/
theorem journalTest_room {s : State} {e : EngineId} {a : Word} (h : s.Owns e a) {k : Nat} (hk : k ≤ 8) : s.journalTest e k = .room := by
  cases e with
  | hewer n => rfl
  | warden =>
    obtain ⟨-, -, room⟩ := h
    have level : s.wdn.level ≤ s.wdn.journal.length := List.countP_le_length
    rw [State.journalTest, if_neg (by omega), if_neg (by omega)]

/-- With room in the journal an exception is entered at once, but that a Hewer's access violation is counted first. -/
theorem exception_eq_enterExc {s : State} {e : EngineId} {a : Word} (h : s.Owns e a) (cause : BitVec 4) (detail : Word) :
    ∃ u, KeepsEngine e s u ∧ s.exception e cause detail = u.enterExc e cause detail := by
  cases e with
  | warden => exact ⟨s, keepsEngine_refl .warden s, by simp only [State.exception, journalTest_room h (show 2 ≤ 8 by decide)]⟩
  | hewer n =>
    refine ⟨if cause = 2 then s.accCount n else s, ?_, rfl⟩
    split
    · exact keepsEngine_accCount s n
    · exact keepsEngine_refl (.hewer n) s

theorem exception_enters {s : State} {e : EngineId} (h : s.FrameFits e) (hx : (s.eng e).vec.xbase ≠ 0) (cause : BitVec 4) (detail : Word) :
    ExceptionEntered e cause detail (if cause = 3 then (s.eng e).core.pc + 1 else (s.eng e).core.pc) s (s.exception e cause detail) := by
  obtain ⟨u, k, hu⟩ := exception_eq_enterExc h.low cause detail
  have entered := enterExc_enters (h.keeps k) (k.xbase ▸ hx) cause detail
  rw [k.core] at entered
  rw [hu]
  exact entered.before k

/-! A vector (06 R257). -/

theorem pending_of_due {x : Eng} {k : Fin 32} (h : x.due = some k) : x.vec.ipend.getLsbD k.val = true := by
  unfold Eng.due at h
  split at h
  · have := List.find?_some h
    simp only [Bool.and_eq_true] at this
    exact this.1.1
  · cases h

/-- Clearing pending bits leaves the Warden's core and RAM. -/
theorem clearPend_keeps (m : BitVec 32) (w : Wdn) :
    (w.clearPend m).eng.core = w.eng.core ∧ (w.clearPend m).ram = w.ram := by
  constructor
  · exact foldl_keeps (π := fun w : Wdn => w.eng.core) (fun w v => by split <;> rfl) _ w
  · exact foldl_keeps (π := Wdn.ram) (fun w v => by split <;> rfl) _ w

theorem getLsbD_setBit_off {w : Nat} (x : BitVec w) (i : Nat) : (setBit x i false).getLsbD i = false := by
  rw [getLsbD_setBit, if_pos rfl, Bool.false_and]

theorem clearPend_ipend (k : Fin 32) (w : Wdn) : (w.clearPend (1#32 <<< k.val)).eng.vec.ipend.getLsbD k.val = false := by
  refine foldl_reaches (P := fun w : Wdn => w.eng.vec.ipend.getLsbD k.val = false) (fun w v h => ?_) (x := k) (fun w => ?_)
    (List.mem_finRange k) w
  · dsimp only
    split
    · show (setBit _ v.val false).getLsbD k.val = false
      rw [getLsbD_setBit, h, Bool.false_and, ite_self]
    · exact h
  · dsimp only
    split
    · exact getLsbD_setBit_off ..
    · next h => simpa [bit] using h

theorem takePend_core (s : State) (e : EngineId) (k : Fin 32) : ((s.takePend e k).eng e).core = (s.eng e).core := by
  cases e with
  | hewer n => simp [State.takePend, State.eng]
  | warden => exact (clearPend_keeps ..).1

theorem takePend_ipend (s : State) (e : EngineId) (k : Fin 32) : ((s.takePend e k).eng e).vec.ipend.getLsbD k.val = false := by
  cases e with
  | hewer n =>
    simp only [State.takePend, State.eng, modHw_hw, Fin.getElem_fin, vmod_getElem, if_true]
    exact getLsbD_setBit_off ..
  | warden => exact clearPend_ipend ..

theorem takePend_sbu (s : State) (e : EngineId) (k : Fin 32) : (s.takePend e k).sbu = s.sbu := by cases e <;> rfl

theorem keepsOwn_takePend (s : State) (e : EngineId) (k : Fin 32) : KeepsOwn e s (s.takePend e k) := by
  cases e with
  | hewer n => exact keepsOwn_modHw (f := fun h => { h with eng := { h.eng with vec := { h.eng.vec with
      ipend := setBit h.eng.vec.ipend k.val false } } }) fun _ => ⟨rfl, rfl, rfl⟩
  | warden => exact keepsOwn_modWdn (f := (·.clearPend _)) fun w => (clearPend_keeps _ w).2

/-- From `s` to `t` engine `e` has entered its handler of vector `k`. -/
structure VectorEntered (e : EngineId) (k : Fin 32) (s t : State) : Prop where
  core   : (t.eng e).core = { (s.eng e).core with
    w := vset (s.eng e).core.w 14 (s.eng e).core.entrySp, lvl := BitVec.ofNat 6 k.val, pc := (s.eng e).vec.vbase + BitVec.ofNat 20 (2 * k.val) }
  pushed : Pushed e (s.eng e).core.pc false s t
  ipend  : 8 ≤ s.sbu.act[(engAct e)].cpu → (t.eng e).vec.ipend.getLsbD k.val = false

theorem takeVector_enters {s : State} {e : EngineId} (h : s.FrameFits e) (hs : (s.eng e).stall = none) (k : Fin 32) :
    VectorEntered e k s (s.takeVector e k) := by
  have still := keepsEngine_still s e
  have fits := h.keeps still
  unfold State.takeVector
  simp only [billStall_eq hs, hs, Bool.false_eq_true, if_false, pushFrame_of_fits fits]
  constructor
  case core => simp only [charge_core, modCore_eng, takePend_core, framed_eng, still.core, still.vbase]
  case pushed =>
    rw [still.core]
    exact ((((pushed_framed fits (s.eng e).core.pc false).after (keepsOwn_modEng _ e _)).after (keepsOwn_takePend ..)).after
      ((keepsOwn_modEng _ e _).trans (keepsEngine_charge ..).toKeepsOwn)).before still
  case ipend =>
    intro left
    rw [charge_eng_of_left]
    · simp only [modCore_eng, takePend_ipend]
    · simpa only [modCore_sbu, takePend_sbu, framed_sbu, modEng_sbu] using left

theorem interrupt_enters {s : State} {e : EngineId} (h : s.FrameFits e) (hs : (s.eng e).stall = none) (k : Fin 32) :
    VectorEntered e k s (s.interrupt e k) := by
  simp only [State.interrupt, journalTest_room h.low (show 3 ≤ 8 by decide)]
  exact takeVector_enters h hs k

/-! The commands. -/

/-- A vector that is due is taken at once by an engine that listens, has compute and waits for nothing. -/
theorem exec_interruptEntry {s : State} {e : EngineId} {k : Fin 32} (hl : s.listens e = true) (hc : s.hasCompute e = true)
    (hs : (s.eng e).stall = none) (hd : (s.eng e).due = some k) : exec (.interruptEntry e k) s = .next (s.interrupt e k) := by
  show execInterruptEntry e k s = _
  simp [execInterruptEntry, hl, hc, hd, Eng.slackWait, hs]

theorem exec_exceptionEntry {s : State} {e : EngineId} {cause : BitVec 4} (detail : Word) (hr : s.executes e = true)
    (hc : s.hasCompute e = true) (hs : (s.eng e).stall = none) (hcause : causeOf e cause = true) :
    exec (.exceptionEntry e cause detail) s = .next (s.exception e cause detail) := by
  show execExceptionEntry e cause detail s = _
  simp [execExceptionEntry, hr, hc, hs, hcause]

theorem exec_trap {s : State} {e : EngineId} (imm : BitVec 8) (h : s.MayRun e false) :
    exec (.trap e imm) s = .next ((s.fetched e).exception e 3 (BitVec.ofNat 20 imm.toNat)) := by
  show execTrap e imm s = _
  rw [execTrap, runAhf_eq h _ rfl rfl, BitVec.ofNat_toNat]
  rfl

/-- TRAP comes back to the instruction behind it. -/
theorem trap_enters {s : State} {e : EngineId} (h : s.FrameFits e) (hx : (s.eng e).vec.xbase ≠ 0) (detail : Word) :
    ExceptionEntered e 3 detail ((s.eng e).core.pc + 1) s ((s.fetched e).exception e 3 detail) := by
  have k := keepsEngine_fetched s e
  have entered := exception_enters (h.keeps k) (k.xbase ▸ hx) 3 detail
  rw [if_pos rfl, k.core] at entered
  exact entered.before k

/-- A vector whose three entries the journal does not take is a restart. -/
theorem interrupt_full {s : State} (k : Fin 32) (h : 2048 < s.wdn.level + 3) : s.interrupt .warden k = s.restart 3 0 := by
  simp only [State.interrupt, State.journalTest, if_pos h]

/-- Settles O14: each entry pushes its frame on own words with room in the journal, so that nothing comes in its place; what precedes it and
what charges it leave own memory, the core and the rest of the device, and where the compute covers the charge no event makes the vector
pending again. -/
theorem ahfEntries : Obligations.AhfEntries := by
  unfold Obligations.AhfEntries
  refine ⟨fun s e h0 h1 => ⟨fun k hl hc hs hd => ?vector, fun hx => ⟨fun cause detail hr hc hs hcause ne => ?exc, fun imm run => ?trap⟩⟩,
    fun s k hl hc hs hd full => ?full⟩
  case vector =>
    have x := interrupt_enters ⟨h0, h1⟩ hs k
    exact ⟨_, exec_interruptEntry hl hc hs hd, x.core, ⟨x.pushed.ret, x.pushed.status, x.pushed.same, x.pushed.device⟩, x.ipend⟩
  case exc =>
    have x := exception_enters ⟨h0, h1⟩ hx cause detail
    rw [if_neg ne] at x
    exact ⟨_, exec_exceptionEntry detail hr hc hs hcause, x.core, x.xcause, x.xaddr,
      x.pushed.ret, x.pushed.status, x.pushed.same, x.pushed.device⟩
  case trap =>
    have x := trap_enters ⟨h0, h1⟩ hx (BitVec.ofNat 20 imm.toNat)
    exact ⟨_, exec_trap imm run, x.core, x.xcause, x.xaddr, x.pushed.ret, x.pushed.status, x.pushed.same, x.pushed.device⟩
  case full => rw [exec_interruptEntry hl hc hs hd, interrupt_full k full]

end Sys2Proof.Machine

namespace Sys2Proof.Machine

/-! A commit in the core cycle of a swap (08 R320; 10 R388). A Gallery word that leaves a commit queue is written as any other word of its
owner: in the core cycle in which its group swaps it is in the new settled view too. -/

/-- The small device in the core cycle in which group 0 has swapped, with a Gallery word at the head of Hewer 0's commit queue. -/
def swapCommit : State :=
  { live with
    gal := { live.gal with grp := vmod live.gal.grp 0 fun x => { x with swapCyc := some live.tb.clk.cycles } }
    hw := vmod live.hw 0 fun h => { h with cq := [⟨0x88000, 39, false, true, .none, 3⟩] } }

/-- The commit writes word 0 of group 0 in the settled view, two frames behind the write view. -/
theorem settledWord_commitWrite_swapCommit :
    ∃ t, exec (.commitWrite 0) swapCommit = .next t ∧ memRead 0 t.gal.mem 1024 = 39 := ⟨_, rfl, by decide +kernel⟩

/-- Refutes O33: its clause on a Gallery word at the head of a commit queue says that the word of the write view alone changes. In the core
cycle of a swap of the group the commit writes the settled view's word too (R388). -/
theorem not_settlePointsAndCommitQueues : ¬ Obligations.SettlePointsAndCommitQueues := by
  unfold Obligations.SettlePointsAndCommitQueues
  intro h
  obtain ⟨-, commits⟩ := h
  obtain ⟨-, -, gallery, -⟩ := commits swapCommit 0 _ [] rfl
  obtain ⟨own, -⟩ := gallery (tLayout.grpAt 1) rfl (by decide) (by decide) (by decide)
  obtain ⟨t, ht, -, -, others, -⟩ := own (by decide)
  obtain ⟨u, hu, hsettled⟩ := settledWord_commitWrite_swapCommit
  obtain rfl : t = u := Host.Outcome.next.inj (ht.symm.trans hu)
  have hkept := others 1024 (by decide)
  rw [hsettled] at hkept
  exact absurd hkept (by decide)

end Sys2Proof.Machine

namespace Sys2Proof.Machine

/-! The Gallery's commands (10): requests, leases, the host's Window B and the swaps that waited. Their beats are charged first; that leaves
the Gallery, the clock and the layout as they are (`Quiet`). -/

/-! Charging. -/

theorem quiet_hostBeat (s : State) (k : BeatKind) : Quiet s (s.hostBeat k) := by
  unfold State.hostBeat
  extract_lets u x
  have counted : Quiet s u := by
    cases k with
    | loft => exact Quiet.refl s
    | gal => exact quiet_modSbu s _
  refine counted.trans ?_
  split
  · exact quiet_modAct u _ _
  · split
    · exact quiet_drawBeat u _ _
    · exact (quiet_slackEmpty u _).trans (quiet_overdraft _)

theorem Quiet.hostWorks {s t : State} (q : Quiet s t) : t.hostWorks = s.hostWorks := by
  rw [State.hostWorks, State.hostWorks, q.awake, q.resetting]

theorem Quiet.leasable {s t : State} (q : Quiet s t) (l : Lease) : t.leasable l = s.leasable l := by
  rw [State.leasable, State.leasable, q.lo]

/-! Swap requests (R385, R386). -/

theorem ix_val (g : Fin 128) : ix 128 g.val = g := Fin.ofNat_val_eq_self g

section
variable {s : State} {code : BitVec 5} {g : Fin 128} {r : GroupRec}

theorem swapReq_unmapped (h : s.lo.grp g.val = none) : s.swapReq code g.val = (2, s) := by
  simp only [State.swapReq, h]

theorem swapReq_foreign (h : s.lo.grp g.val = some r) (ho : code.toNat ≠ r.owner) : s.swapReq code g.val = (1, s) := by
  simp only [State.swapReq, h, if_pos ho]

theorem swapReq_direct (h : s.lo.grp g.val = some r) (ho : code.toNat = r.owner) (hd : r.hostDirect = true) :
    s.swapReq code g.val = (2, s) := by
  simp only [State.swapReq, h, ho, hd, ne_eq, not_true_eq_false, if_false, if_true]

theorem swapReq_cyclic (h : s.lo.grp g.val = some r) (ho : code.toNat = r.owner) (hd : r.hostDirect = false) (hr : r.req = false) :
    s.swapReq code g.val = (0, s) := by
  simp [State.swapReq, h, ho, hd, hr]

theorem swapReq_taken (h : s.lo.grp g.val = some r) (ho : code.toNat = r.owner) (hd : r.hostDirect = false) (hr : r.req = true)
    (hp : s.gal.grp[g].req = false) : s.swapReq code g.val = (0, s.modGrp g fun x => { x with req := true }) := by
  simp only [State.swapReq, h, ho, hd, hr, hp, ix_val, ne_eq, not_true_eq_false, Bool.not_true, Bool.false_eq_true, if_false]

theorem swapReq_pending (h : s.lo.grp g.val = some r) (ho : code.toNat = r.owner) (hd : r.hostDirect = false) (hr : r.req = true)
    (hp : s.gal.grp[g].req = true) : s.swapReq code g.val = (3, s) := by
  simp only [State.swapReq, h, ho, hd, hr, hp, ix_val, ne_eq, not_true_eq_false, Bool.not_true, Bool.false_eq_true, if_false, if_true]

end

/-- The result of its last request as the agent reads it; a Hewer's PSWAP has it in a register. -/
def SwapAnswered (a : Agent) (t : State) (v : BitVec 2) : Prop :=
  match a with
  | .host => t.gal.swapRes = v
  | .warden => t.wdn.swapRes = v
  | .hewer _ => True

/-- The result given to the agent that asked. -/
def State.answerSwap (a : Agent) (v : BitVec 2) (s : State) : State :=
  match a with
  | .host => s.modGal fun x => { x with swapRes := v }
  | .warden => s.modWdn fun w => { w with swapRes := v }
  | .hewer _ => s

theorem exec_swapRequest (s : State) (a : Agent) (g : Fin 128) :
    exec (.swapRequest a g) s =
      .next (((s.paid a).swapReq (agentCode a) g.val).2.answerSwap a ((s.paid a).swapReq (agentCode a) g.val).1) := by
  cases a <;> rfl

theorem answerSwap_answered (s : State) (a : Agent) (v : BitVec 2) :
    SwapAnswered a (s.answerSwap a v) v ∧ (s.answerSwap a v).gal.grp = s.gal.grp := by
  cases a with
  | host => exact ⟨rfl, rfl⟩
  | warden => exact ⟨rfl, rfl⟩
  | hewer n => exact ⟨trivial, rfl⟩

/-- The request is charged, judged and answered. -/
theorem completes_swapRequest {s u : State} {a : Agent} {g : Fin 128} {v : BitVec 2}
    (h : (s.paid a).swapReq (agentCode a) g.val = (v, u)) :
    Completes (.swapRequest a g) s (fun t => SwapAnswered a t v ∧ t.gal.grp = u.gal.grp) := by
  refine ⟨_, exec_swapRequest s a g, ?_⟩
  rw [h]
  exact answerSwap_answered u a v

/-- Where the request asks for nothing new, only its result is left. -/
theorem completes_swapRequest_only {s : State} {a : Agent} {g : Fin 128} {v : BitVec 2}
    (h : (s.paid a).swapReq (agentCode a) g.val = (v, s.paid a)) :
    Completes (.swapRequest a g) s (fun t => SwapAnswered a t v ∧ t.gal.grp = s.gal.grp) :=
  (completes_swapRequest h).imp fun _ ⟨answered, kept⟩ => ⟨answered, by rw [kept, (quiet_paid s a).gal]⟩

theorem completes_swapRequest_taken {s : State} {a : Agent} {g : Fin 128}
    (h : (s.paid a).swapReq (agentCode a) g.val = (0, (s.paid a).modGrp g fun x => { x with req := true })) :
    Completes (.swapRequest a g) s (fun t => SwapAnswered a t 0 ∧ t.gal.grp[g] = { s.gal.grp[g] with req := true }) := by
  refine (completes_swapRequest h).imp fun t ⟨answered, kept⟩ => ⟨answered, ?_⟩
  simp [kept, (quiet_paid s a).gal]

/-! Leases (R390, R394, R395). -/

theorem getLsbD_setBit_of_set {w : Nat} {x : BitVec w} {j : Nat} (h : x.getLsbD j = true) (i : Nat) :
    (setBit x i true).getLsbD j = true := by
  rw [getLsbD_setBit]
  split
  · next e => simpa [← e] using BitVec.lt_of_getLsbD h
  · exact h

theorem getLsbD_setBit_on {w : Nat} (x : BitVec w) {j : Nat} (h : j < w) : (setBit x j true).getLsbD j = true := by
  simp [getLsbD_setBit, h]

theorem settleDone_keeps (s : State) : (∃ c, s.settleDone.gal = { s.gal with doneCyc := c }) ∧ s.settleDone.tb = s.tb := by
  unfold State.settleDone
  split
  · exact ⟨⟨_, rfl⟩, rfl⟩
  · have q := quiet_raise (s.modGal fun x => { x with doneCyc := some s.tb.clk.cycles }) evSettleDone
    exact ⟨⟨_, q.gal⟩, q.tb⟩

theorem acquire_lease (s : State) (mask : BitVec 16) (i : Fin 16) :
    (s.acquire mask).gal.lease[i] = if mask.getLsbD i.val = true ∧ s.gal.lease[i].held = false ∧ s.leasable s.gal.lease[i] = true
      then { s.gal.lease[i] with held := true, defers := 0, since := some s.tb.clk.cycles } else s.gal.lease[i] := by
  simp [State.acquire, bit, and_assoc]

theorem acquire_mem (s : State) (mask : BitVec 16) : (s.acquire mask).gal.mem = s.gal.mem := by
  simp only [State.acquire, modGal_gal]

theorem leaseAcquire_acquires {s : State} (hw : s.hostWorks = true) (mask : BitVec 16) :
    Completes (.leaseAcquire mask) s (fun t => t.gal.mem = s.gal.mem ∧ ∀ i : Fin 16,
      t.gal.lease[i] = if mask.getLsbD i.val = true ∧ s.gal.lease[i].held = false ∧ s.leasable s.gal.lease[i] = true
        then { s.gal.lease[i] with held := true, defers := 0, since := some s.tb.clk.cycles } else s.gal.lease[i]) := by
  have q := quiet_paid s .host
  have hx : exec (.leaseAcquire mask) s = .next ((s.paid .host).acquire mask) := by
    show execLeaseAcquire mask s = _
    simp [execLeaseAcquire, q.hostWorks, hw]
  refine ⟨_, hx, ?_, fun i => ?_⟩
  · rw [acquire_mem, q.gal]
  · rw [acquire_lease, q.gal, q.tb, q.leasable]

/-- The slots of the mask let go. -/
def State.letGo (mask : BitVec 16) (s : State) : State :=
  s.modGal fun x => { x with lease := Vector.ofFn fun i : Fin 16 => if bit mask i.val then { x.lease[i] with held := false } else x.lease[i] }

/-- A group whose swap was deferred in this core cycle swaps after all. -/
def State.swapAfterAll (s : State) (r : GroupRec) : State :=
  (s.takeSwap false r).modGrp (ix 128 r.group) fun x => { x with deferCyc := none }

/-- Every group whose swap was deferred in this core cycle for leases that are released by now. -/
def State.swapReleased (s : State) : State := s.releasedNow.foldl State.swapAfterAll s

/-- The deferrals of groups that no slot holds are forgotten. -/
def State.forgetDeferred (s : State) : State :=
  s.modGal fun x => { x with grp := Vector.ofFn fun g : Fin 128 => if (x.leases g.val).isEmpty then { x.grp[g] with deferred := 0 } else x.grp[g] }

/-- SETTLE_DONE for the groups of the list whose EVT is set. -/
def State.doneFor (rs : List GroupRec) (s : State) : State := if rs.any (·.evt) then s.settleDone else s

theorem release_eq (s : State) (mask : BitVec 16) :
    s.release mask = ((s.letGo mask).swapReleased.doneFor (s.letGo mask).releasedNow).forgetDeferred := rfl

theorem doneFor_keeps (rs : List GroupRec) (s : State) : (∃ c, (s.doneFor rs).gal = { s.gal with doneCyc := c }) ∧ (s.doneFor rs).tb = s.tb := by
  unfold State.doneFor
  split
  · exact settleDone_keeps s
  · exact ⟨⟨_, rfl⟩, rfl⟩

section
variable (s : State) (mask : BitVec 16)

@[simp] theorem letGo_tb : (s.letGo mask).tb = s.tb := modGal_tb s _
@[simp] theorem letGo_lo : (s.letGo mask).lo = s.lo := by rw [State.lo, State.letGo, modGal_lay, State.lo]
@[simp] theorem letGo_grp : (s.letGo mask).gal.grp = s.gal.grp := by simp only [State.letGo, modGal_gal]
@[simp] theorem letGo_mem : (s.letGo mask).gal.mem = s.gal.mem := by simp only [State.letGo, modGal_gal]

@[simp] theorem swapReleased_tb : s.swapReleased.tb = s.tb := foldl_keeps (f := State.swapAfterAll) (fun _ _ => rfl) _ s
@[simp] theorem swapReleased_lease : s.swapReleased.gal.lease = s.gal.lease :=
  foldl_keeps (π := fun u : State => u.gal.lease) (f := State.swapAfterAll) (fun _ _ => rfl) _ s

@[simp] theorem forgetDeferred_mem : s.forgetDeferred.gal.mem = s.gal.mem := by simp only [State.forgetDeferred, modGal_gal]
@[simp] theorem forgetDeferred_lease : s.forgetDeferred.gal.lease = s.gal.lease := by simp only [State.forgetDeferred, modGal_gal]
@[simp] theorem forgetDeferred_settled : s.forgetDeferred.gal.settled = s.gal.settled := by simp only [State.forgetDeferred, modGal_gal]

@[simp] theorem forgetDeferred_stroke (g : Fin 128) : s.forgetDeferred.gal.grp[g].stroke = s.gal.grp[g].stroke := by
  simp only [State.forgetDeferred, modGal_gal, Fin.getElem_fin, Vector.getElem_ofFn]
  split
  · rfl
  · rfl

end

theorem letGo_lease (s : State) (mask : BitVec 16) (i : Fin 16) :
    (s.letGo mask).gal.lease[i] = if mask.getLsbD i.val then { s.gal.lease[i] with held := false } else s.gal.lease[i] := by
  simp [State.letGo, bit]

theorem release_lease (s : State) (mask : BitVec 16) (i : Fin 16) :
    (s.release mask).gal.lease[i] = if mask.getLsbD i.val then { s.gal.lease[i] with held := false } else s.gal.lease[i] := by
  rw [← letGo_lease, release_eq]
  obtain ⟨⟨c, hc⟩, -⟩ := doneFor_keeps (s.letGo mask).releasedNow (s.letGo mask).swapReleased
  rw [forgetDeferred_lease, hc, swapReleased_lease]

theorem release_mem {s : State} (h : ∀ g : Fin 128, s.gal.grp[g].deferCyc ≠ some s.tb.clk.cycles) (mask : BitVec 16) :
    (s.release mask).gal.mem = s.gal.mem := by
  have none_swaps : (s.letGo mask).releasedNow = [] :=
    List.filter_eq_nil_iff.mpr fun r _ hr => by
      simp only [letGo_grp, letGo_tb, Bool.and_eq_true, beq_iff_eq] at hr
      exact h _ hr.1
  rw [release_eq, State.swapReleased, none_swaps, forgetDeferred_mem, List.foldl_nil, State.doneFor, List.any_nil,
    if_neg Bool.false_ne_true, letGo_mem]

/-- Group `g` has swapped, in the running stroke. -/
def State.SwappedNow (g : Fin 128) (s : State) : Prop :=
  s.gal.settled.getLsbD g.val = true ∧ s.gal.grp[g].stroke = s.tb.stroke.count.setWidth 20

theorem swapAfterAll_settled (s : State) (r : GroupRec) : (s.swapAfterAll r).gal.settled = setBit s.gal.settled r.group true := rfl

theorem swapAfterAll_stroke (s : State) (r : GroupRec) (g : Fin 128) : (s.swapAfterAll r).gal.grp[g].stroke =
    if ix 128 r.group = g then s.tb.stroke.count.setWidth 20 else s.gal.grp[g].stroke := by
  by_cases h : (ix 128 r.group).val = g.val <;> simp [State.swapAfterAll, State.takeSwap, Gallery.publish, fld, Fin.ext_iff, h]

theorem swapAfterAll_swaps {r : GroupRec} {g : Fin 128} (hr : r.group = g.val) (s : State) : (s.swapAfterAll r).SwappedNow g := by
  constructor
  · rw [swapAfterAll_settled, hr]
    exact getLsbD_setBit_on _ g.isLt
  · rw [swapAfterAll_stroke, hr, ix_val, if_pos rfl]
    rfl

theorem swapAfterAll_keeps_swapped {s : State} {g : Fin 128} (h : s.SwappedNow g) (r : GroupRec) : (s.swapAfterAll r).SwappedNow g := by
  obtain ⟨hs, hn⟩ := h
  constructor
  · exact getLsbD_setBit_of_set hs r.group
  · rw [swapAfterAll_stroke, hn, ite_self]
    rfl

theorem release_swaps {s : State} {mask : BitVec 16} {g : Fin 128} {r : GroupRec} (hr : r ∈ s.lo.groups) (hg : r.group = g.val)
    (hd : s.gal.grp[g].deferCyc = some s.tb.clk.cycles)
    (hl : ∀ i : Fin 16, s.gal.lease[i].held = true → s.gal.lease[i].grp.toNat = g.val → s.gal.lease[i].since ≠ some s.tb.clk.cycles →
      mask.getLsbD i.val = true) :
    (s.release mask).gal.settled.getLsbD g.val = true ∧ (s.release mask).gal.grp[g].stroke = s.tb.stroke.count.setWidth 20 := by
  have free : (s.letGo mask).gal.leasesAt s.tb.clk.cycles r.group = [] := by
    refine List.filter_eq_nil_iff.mpr fun i hi hs => ?_
    have hi := (List.mem_filter.mp hi).2
    simp only [letGo_lease] at hi hs
    by_cases hm : mask.getLsbD i.val = true
    · rw [if_pos hm] at hi
      cases hi
    · simp only [if_neg hm, Bool.and_eq_true, beq_iff_eq, bne_iff_ne] at hi hs
      exact hm (hl i hi.1 (hi.2.trans hg) hs)
  have released : r ∈ (s.letGo mask).releasedNow := by
    have deferred : (s.letGo mask).gal.grp[ix 128 r.group].deferCyc = some s.tb.clk.cycles := by
      simp only [letGo_grp, hg, ix_val, hd]
    refine List.mem_filter.mpr ⟨by rwa [letGo_lo], ?_⟩
    rw [letGo_tb, free, deferred, beq_self_eq_true, List.isEmpty_nil, Bool.and_self]
  have swapped : (s.letGo mask).swapReleased.SwappedNow g :=
    foldl_reaches (P := State.SwappedNow g) (fun _ y h => swapAfterAll_keeps_swapped h y) (swapAfterAll_swaps hg) released _
  obtain ⟨hs, hn⟩ := swapped
  obtain ⟨⟨c, hc⟩, -⟩ := doneFor_keeps (s.letGo mask).releasedNow (s.letGo mask).swapReleased
  rw [swapReleased_tb, letGo_tb] at hn
  rw [release_eq, forgetDeferred_settled, forgetDeferred_stroke, hc]
  exact ⟨hs, hn⟩

theorem leaseRelease_releases {s : State} (hw : s.hostWorks = true) (mask : BitVec 16) :
    Completes (.leaseRelease mask) s (fun t =>
      ((∀ g : Fin 128, s.gal.grp[g].deferCyc ≠ some s.tb.clk.cycles) → t.gal.mem = s.gal.mem) ∧
      (∀ (g : Fin 128) (r : GroupRec), r ∈ s.lo.groups → r.group = g.val → s.gal.grp[g].deferCyc = some s.tb.clk.cycles →
        (∀ i : Fin 16, s.gal.lease[i].held = true → s.gal.lease[i].grp.toNat = g.val → s.gal.lease[i].since ≠ some s.tb.clk.cycles →
          mask.getLsbD i.val = true) →
        t.gal.settled.getLsbD g.val = true ∧ t.gal.grp[g].stroke = s.tb.stroke.count.setWidth 20) ∧
      ∀ i : Fin 16, t.gal.lease[i] = if mask.getLsbD i.val then { s.gal.lease[i] with held := false } else s.gal.lease[i]) := by
  have q := quiet_paid s .host
  have hx : exec (.leaseRelease mask) s = .next ((s.paid .host).release mask) := by
    show execLeaseRelease mask s = _
    simp [execLeaseRelease, q.hostWorks, hw]
  refine ⟨_, hx, ?_⟩
  rw [← q.gal, ← q.tb, ← q.lo]
  exact ⟨fun h => release_mem h mask, fun g r hr hg hd hl => release_swaps hr hg hd hl, release_lease _ mask⟩

/-! Swaps that waited for a host read (R402). -/

/-- The groups whose swaps wait. -/
def State.waitingGroups (s : State) : List GroupRec := s.lo.groups.filter fun r => bit s.gal.waiting r.group

/-- Their settled views published, and no swap waits any more. -/
def Gallery.publishAll (rs : List GroupRec) (x : Gallery) : Gallery := rs.foldl (fun x r => x.publish r) { x with waiting := 0 }

theorem exec_deferredSwap (s : State) :
    exec .deferredSwap s = .next ((s.modGal (Gallery.publishAll s.waitingGroups)).doneFor s.waitingGroups) := rfl

theorem publishAll_waiting (rs : List GroupRec) (x : Gallery) : (x.publishAll rs).waiting = 0 :=
  foldl_keeps (π := Gallery.waiting) (f := fun x r => x.publish r) (fun _ _ => rfl) rs _

theorem publishAll_settled {rs : List GroupRec} {r : GroupRec} (hr : r ∈ rs) (hlt : r.group < 128) (x : Gallery) :
    (x.publishAll rs).settled.getLsbD r.group = true :=
  foldl_reaches (P := fun x : Gallery => x.settled.getLsbD r.group = true) (f := fun x r => x.publish r)
    (fun _ q h => getLsbD_setBit_of_set h q.group) (fun _ => getLsbD_setBit_on _ hlt) hr _

theorem deferredSwap_swaps (s : State) : Completes .deferredSwap s (fun t => t.gal.waiting = 0 ∧
    ∀ r ∈ s.lo.groups, s.gal.waiting.getLsbD r.group = true → r.group < 128 → t.gal.settled.getLsbD r.group = true) := by
  obtain ⟨⟨c, hc⟩, -⟩ := doneFor_keeps s.waitingGroups (s.modGal (Gallery.publishAll s.waitingGroups))
  refine ⟨_, exec_deferredSwap s, ?_, fun r hr hwait hlt => ?_⟩
  · rw [hc]
    exact publishAll_waiting _ _
  · rw [hc]
    exact publishAll_settled (List.mem_filter.mpr ⟨hr, hwait⟩) hlt _

/-! Window B (R398, R401). -/

theorem eraseDups_replicate {α : Type} [BEq α] [LawfulBEq α] (n : Nat) (a : α) : (List.replicate (n + 1) a).eraseDups = [a] := by
  rw [List.replicate_succ, List.eraseDups_cons, List.filter_eq_nil_iff.mpr]
  · rfl
  · intro x hx
    simp [List.eq_of_mem_replicate hx]

/-! The octets of one word of the unpacked view (R398). -/

section
variable {w i : Nat} (hw : w < 262144) (hi : i < 4)
include hw hi

theorem windowBBit_unpacked (b : Nat) : windowBBit (4 * w + i) b = (w, 8 * i + b) := by
  rw [windowBBit, if_pos (by unfold unpackedEnd; omega), show (4 * w + i) / 4 = w by omega, show (4 * w + i) % 4 = i by omega]

theorem windowBWords_unpacked : windowBWords (4 * w + i) = [w] := by
  rw [windowBWords, if_pos (by unfold packedEnd; omega)]
  simp only [windowBBit_unpacked hw hi, List.map_const', List.length_range]
  exact eraseDups_replicate 7 w

end

theorem windowBTouched_word {w : Nat} (hw : w < 262144) : windowBTouched (4 * w) 4 = [w] := by
  have words : (List.range 4).flatMap (fun i => windowBWords (4 * w + i)) = List.replicate 4 w := by
    simp only [show List.range 4 = [0, 1, 2, 3] from rfl, List.flatMap_cons, List.flatMap_nil, windowBWords_unpacked hw, Nat.reduceLT]
    rfl
  rw [windowBTouched, words]
  exact eraseDups_replicate 3 w

/-! Bits put in their places one after the other. -/

/-- Bits `f 0` to `f (n - 1)` put in a vector from bit `k` on. -/
def placeBits {m : Nat} (f : Nat → Bool) (k n : Nat) (x : BitVec m) : BitVec m := (List.range n).foldl (fun x b => setBit x (k + b) (f b)) x

theorem placeBits_succ {m : Nat} (f : Nat → Bool) (k n : Nat) (x : BitVec m) :
    placeBits f k (n + 1) x = setBit (placeBits f k n x) (k + n) (f n) := by
  rw [placeBits, List.range_succ, List.foldl_append]
  rfl

theorem getLsbD_placeBits {m : Nat} (f : Nat → Bool) (k n : Nat) (x : BitVec m) {j : Nat} (hj : j < m) :
    (placeBits f k n x).getLsbD j = if k ≤ j ∧ j < k + n then f (j - k) else x.getLsbD j := by
  induction n with
  | zero => rw [if_neg (by omega)]; rfl
  | succ n ih =>
    rw [placeBits_succ, getLsbD_setBit, ih]
    by_cases h : j = k + n
    · rw [if_pos h, if_pos (by omega), ← h, decide_eq_true hj, Bool.and_true, show j - k = n by omega]
    · simp only [if_neg h, show (k ≤ j ∧ j < k + (n + 1)) ↔ k ≤ j ∧ j < k + n by omega]

theorem setBit_of_ge {m i : Nat} (h : m ≤ i) (x : BitVec m) (b : Bool) : setBit x i b = x :=
  BitVec.eq_of_getLsbD_eq fun j hj => by rw [getLsbD_setBit, if_neg (by omega)]

/-- A word as a register of the unpacked view holds it: its sign, where the group has one, in the bits above it (R398). -/
def unpackedWord (signed : Bool) (v : Word) : BitVec 32 := (if signed && v.msb then BitVec.allOnes 12 else 0#12) ++ v

theorem getLsbD_unpackedWord (signed : Bool) (v : Word) {k : Nat} (hk : k < 32) :
    (unpackedWord signed v).getLsbD k = if k < 20 then v.getLsbD k else signed && v.msb := by
  rw [unpackedWord, BitVec.getLsbD_append]
  split
  · rfl
  · cases signed && v.msb with
    | false => exact BitVec.getLsbD_zero
    | true => exact (BitVec.getLsbD_allOnes ..).trans (decide_eq_true (by omega))

/-- Octet `i` of a word read. -/
theorem windowBOctet_word {L : Layout} {w i : Nat} {r : GroupRec} (hw : w < 262144) (hi : i < 4) (hr : L.grpOfPage (w / 512) = some r) (v : Word) :
    windowBOctet L [(w, v)] (4 * w + i) = (unpackedWord r.signed v).extractLsb' (8 * i) 8 := by
  have octet : windowBOctet L [(w, v)] (4 * w + i) =
      placeBits (fun b => if 8 * i + b < 20 then v.getLsbD (8 * i + b) else r.signed && v.msb) 0 8 0 := by
    simp [windowBOctet, placeBits, windowBBit_unpacked hw hi, hr, bit, BitVec.msb_eq_getLsbD_last]
  refine BitVec.eq_of_getLsbD_eq fun j hj => ?_
  rw [octet, getLsbD_placeBits _ _ _ _ hj, if_pos ⟨Nat.zero_le j, by omega⟩, BitVec.getLsbD_extractLsb', getLsbD_unpackedWord _ _ (by omega)]
  simp [hj]

theorem toNat_unpackedWord (signed : Bool) (v : Word) :
    (unpackedWord signed v).toNat = (if signed ∧ v.msb = true then 0xFFF00000 else 0) + v.toNat := by
  rw [unpackedWord, toNat_append_eq_add]
  by_cases h : signed = true ∧ v.msb = true
  · rw [if_pos h, h.1, h.2]
    rfl
  · rw [if_neg h, if_neg (by rwa [Bool.and_eq_true])]
    rfl

theorem unpackedWord_octets (signed : Bool) (v : Word) :
    let top := if signed ∧ v.msb = true then 0xF else 0
    (List.range 4).map (fun i => ((unpackedWord signed v).extractLsb' (8 * i) 8).setWidth 32) =
      [BitVec.ofNat 32 (v.toNat % 256), BitVec.ofNat 32 (v.toNat / 256 % 256), BitVec.ofNat 32 (v.toNat / 65536 + 16 * top),
        BitVec.ofNat 32 (if top = 0 then 0 else 255)] := by
  have hv := v.isLt
  have octet (i : Nat) : ((unpackedWord signed v).extractLsb' (8 * i) 8).setWidth 32 =
      BitVec.ofNat 32 ((unpackedWord signed v).toNat / 2 ^ (8 * i) % 256) := by
    refine BitVec.eq_of_toNat_eq ?_
    simp [Nat.shiftRight_eq_div_pow]
  simp only [show List.range 4 = [0, 1, 2, 3] from rfl, List.map_cons, List.map_nil, octet, toNat_unpackedWord]
  by_cases h : signed = true ∧ v.msb = true
  · have filled : (0xF : Nat) ≠ 0 := by decide
    simp only [if_pos h, if_neg filled, List.cons.injEq, and_true]
    refine ⟨?_, ?_, ?_, ?_⟩ <;> congr 1 <;> omega
  · simp only [if_neg h, List.cons.injEq, and_true, if_true]
    refine ⟨?_, ?_, ?_, ?_⟩ <;> congr 1 <;> omega

/-- A host read of one whole word of the unpacked view. -/
theorem hostGalleryRead_reads {s : State} {w : Nat} {r : GroupRec} (hh : s.hostWorks = true) (hw : w < 262144)
    (hr : s.lo.grpOfPage (w / 512) = some r) {a : Nat} (ha : a = 512 * r.viewFrame 17 (w / 512) + w % 512)
    (hf : memRead none s.gal.flaws a = none) :
    exec (.hostGalleryRead (4 * w) 4 []) s = .next { s.hostBeat .gal with
      rd := (List.range 4).map fun i => ((unpackedWord r.signed (memRead 0 s.gal.mem a)).extractLsb' (8 * i) 8).setWidth 32 } := by
  have q := quiet_hostBeat s .gal
  have hread : (s.hostBeat .gal).galRead 17 w = (memRead 0 s.gal.mem a, s.hostBeat .gal) := by
    rw [State.galRead, State.galAddr, q.lo, hr]
    simp only [Option.map_some, ← ha, State.galFrameRead, q.gal, hf]
  have hfetch : s.galFetch [w] = ([(w, memRead 0 s.gal.mem a)], s.hostBeat .gal) := by
    simp only [State.galFetch, hread]
  show execHostGalleryRead (4 * w) 4 [] s = _
  have same : (s.modGal fun g => [].foldl (fun g e => g.flaw e) g) = s := rfl
  have octets : ∀ i ∈ List.range 4, (windowBOctet s.lo [(w, memRead 0 s.gal.mem a)] (4 * w + i)).setWidth 32 =
      ((unpackedWord r.signed (memRead 0 s.gal.mem a)).extractLsb' (8 * i) 8).setWidth 32 := fun i hi => by
    rw [windowBOctet_word hw (List.mem_range.mp hi) hr]
  simp only [execHostGalleryRead, hh, Bool.not_true, Bool.false_eq_true, if_false, same, windowBTouched_word hw, hfetch, q.lo,
    List.map_congr_left octets]

/-! A whole word written through the unpacked view (R388, R398). -/

/-- The word whose bits octets 0 to 2 of a register of the unpacked view bring (R398). -/
def wordOfOctets (b0 b1 b2 : Octet) : Word := BitVec.ofNat 20 (b0.toNat + 256 * b1.toNat + 65536 * b2.toNat)

theorem getLsbD_wordOfOctets (b0 b1 b2 : Octet) {j : Nat} (hj : j < 20) :
    (wordOfOctets b0 b1 b2).getLsbD j = if j < 8 then b0.getLsbD j else if j < 16 then b1.getLsbD (j - 8) else b2.getLsbD (j - 16) := by
  have joined : b0.toNat + 256 * b1.toNat + 65536 * b2.toNat = (b2 ++ b1 ++ b0).toNat := by
    rw [toNat_append_eq_add, toNat_append_eq_add]
    omega
  rw [wordOfOctets, joined, BitVec.ofNat_toNat, BitVec.getLsbD_setWidth, BitVec.getLsbD_append, BitVec.getLsbD_append,
    decide_eq_true hj, Bool.true_and, Nat.sub_sub]
  simp only [show j - 8 < 8 ↔ j < 16 by omega]

/-- The first `n` bits of octet `i` of a register of the unpacked view, merged into the mask and the value of a write. -/
theorem foldl_merge_octet (i : Nat) (o : Octet) (p : Word × Word) (n : Nat) :
    (List.range n).foldl (fun p b => if 8 * i + b < 20 then (setBit p.1 (8 * i + b) true, setBit p.2 (8 * i + b) (bit o b)) else p) p =
      (placeBits (fun _ => true) (8 * i) n p.1, placeBits (bit o) (8 * i) n p.2) := by
  induction n with
  | zero => rfl
  | succ n ih =>
    rw [List.range_succ, List.foldl_append, List.foldl_cons, List.foldl_nil, ih, placeBits_succ, placeBits_succ]
    split
    · rfl
    · next h => rw [setBit_of_ge (by omega), setBit_of_ge (by omega)]

section
variable {w : Nat} (hw : w < 262144) (b0 b1 b2 b3 : Octet)
include hw

theorem windowBWrite_word :
    windowBWrite (4 * w) [some b0, some b1, some b2, some b3] w = (BitVec.allOnes 20, wordOfOctets b0 b1 b2) := by
  have unpacked (i : Nat) (hi : i < 4) : 4 * w + i < packedEnd := by unfold packedEnd; omega
  have octets : (List.range 4).zip [some b0, some b1, some b2, some b3] = [(0, some b0), (1, some b1), (2, some b2), (3, some b3)] := rfl
  simp only [windowBWrite, List.length_cons, List.length_nil, Nat.reduceAdd, octets, List.foldl_cons, List.foldl_nil,
    windowBBit_unpacked hw, unpacked, Nat.reduceLT, true_and, and_true, foldl_merge_octet]
  have octet (j : Nat) : j < 8 ∨ (8 ≤ j ∧ j < 16) ∨ 16 ≤ j := by omega
  refine Prod.ext (BitVec.eq_of_getLsbD_eq fun j hj => ?_) (BitVec.eq_of_getLsbD_eq fun j hj => ?_)
  · simp only [getLsbD_placeBits _ _ _ _ hj, BitVec.getLsbD_allOnes, decide_eq_true hj]
    rcases octet j with h | h | h
    · rw [if_neg (by omega), if_neg (by omega), if_neg (by omega), if_pos (by omega)]
    · rw [if_neg (by omega), if_neg (by omega), if_pos (by omega)]
    · rw [if_neg (by omega), if_pos (by omega)]
  · simp only [getLsbD_placeBits _ _ _ _ hj, getLsbD_wordOfOctets _ _ _ hj]
    rcases octet j with h | h | h
    · rw [if_neg (by omega), if_neg (by omega), if_neg (by omega), if_pos (by omega), if_pos h]
      rfl
    · rw [if_neg (by omega), if_neg (by omega), if_pos (by omega), if_neg (by omega), if_pos h.2]
      rfl
    · rw [if_neg (by omega), if_pos (by omega), if_neg (by omega), if_neg (by omega)]
      rfl

theorem windowBEnabled_word : windowBEnabled (4 * w) [some b0, some b1, some b2, some b3] = [w] := by
  have words : windowBWords (4 * w + 0) ++ (windowBWords (4 * w + 1) ++ (windowBWords (4 * w + 2) ++ (windowBWords (4 * w + 3) ++ []))) =
      List.replicate 4 w := by
    simp only [windowBWords_unpacked hw, Nat.reduceLT]
    rfl
  show (_ ++ (_ ++ (_ ++ (_ ++ [])))).eraseDups = _
  exact (congrArg List.eraseDups words).trans (eraseDups_replicate 3 w)

end

/-- The owner's write of a whole word, and of the settled view's word in the core cycle of a swap. -/
theorem galWrite_own {s : State} {code : BitVec 5} {w : Nat} {r : GroupRec} (hr : s.lo.grpOfPage (w / 512) = some r)
    (ho : code.toNat = r.owner) (v : Word) {a : Nat} (ha : a = 512 * (r.frame + (w / 512 - r.first)) + w % 512) :
    s.galWrite code w (BitVec.allOnes 20) v =
      if s.swapsNow r then (s.modGal (·.put a v)).modGal (·.put (a + 512 * r.npages) v) else s.modGal (·.put a v) := by
  have whole : ((0 : Word) &&& ~~~(BitVec.allOnes 20)) ||| (v &&& BitVec.allOnes 20) = v := by
    rw [show (0 : Word) = 0#20 from rfl, BitVec.zero_and, BitVec.zero_or, BitVec.and_allOnes]
  have still : (s.modGal (·.put a v)).swapsNow r = s.swapsNow r := rfl
  simp only [State.galWrite, hr, if_pos ho, if_true, whole, ← ha, still]

theorem swapsNow_iff (s : State) (r : GroupRec) : s.swapsNow r = true ↔
    s.gal.grp[ix 128 r.group].swapCyc = some s.tb.clk.cycles ∧ s.gal.waiting.getLsbD r.group = false := by
  simp only [State.swapsNow, bit, Bool.and_eq_true, beq_iff_eq, Bool.not_eq_true']

theorem Quiet.swapsNow {s t : State} (q : Quiet s t) (r : GroupRec) : t.swapsNow r = s.swapsNow r := by
  simp only [State.swapsNow, q.gal, q.tb]

theorem memRead_put (g : Gallery) (a : Nat) (v : Word) (k : Nat) : memRead 0 (g.put a v).mem k = if k = a then v else memRead 0 g.mem k := by
  split
  · next h => rw [h]; exact memRead_memWrite_same 0 _ _ _
  · next h => exact memRead_memWrite_ne 0 _ h _

/-- A host write of one whole word of the unpacked view. -/
theorem exec_hostGalleryWrite {s : State} {w : Nat} (hh : s.hostWorks = true) (hw : w < 262144) (b0 b1 b2 b3 : Octet) :
    exec (.hostGalleryWrite (4 * w) [some b0, some b1, some b2, some b3]) s =
      .next ((s.hostBeat .gal).galWrite 17 w (BitVec.allOnes 20) (wordOfOctets b0 b1 b2)) := by
  show execHostGalleryWrite _ _ s = _
  have written : BitVec.allOnes 20 ≠ 0 := by decide
  simp only [execHostGalleryWrite, hh, Bool.not_true, Bool.false_eq_true, if_false, State.galStore, windowBEnabled_word hw, List.foldl_cons,
    List.foldl_nil, windowBWrite_word hw, if_neg written]

theorem hostGalleryWrite_writes {s : State} {w : Nat} {r : GroupRec} (hh : s.hostWorks = true) (hw : w < 262144)
    (hr : s.lo.grpOfPage (w / 512) = some r) (ho : r.owner = 17) (b0 b1 b2 b3 : Octet) {a : Nat}
    (ha : a = 512 * (r.frame + (w / 512 - r.first)) + w % 512) :
    Completes (.hostGalleryWrite (4 * w) [some b0, some b1, some b2, some b3]) s (fun t => ∀ k,
      memRead 0 t.gal.mem k =
        if k = a ∨ (s.swapsNow r = true ∧ k = a + 512 * r.npages) then wordOfOctets b0 b1 b2 else memRead 0 s.gal.mem k) := by
  have q := quiet_hostBeat s .gal
  refine ⟨_, exec_hostGalleryWrite hh hw b0 b1 b2 b3, fun k => ?_⟩
  rw [galWrite_own (by rw [q.lo, hr]) (by rw [ho]; rfl) _ ha, q.swapsNow]
  by_cases hs : s.swapsNow r = true
  · rw [if_pos hs, modGal_gal, memRead_put, modGal_gal, memRead_put, q.gal]
    by_cases hb : k = a + 512 * r.npages
    · rw [if_pos hb, if_pos (.inr ⟨hs, hb⟩)]
    · simp only [hb, and_false, or_false, if_false]
  · rw [if_neg hs, modGal_gal, memRead_put, q.gal]
    simp only [hs, Bool.false_eq_true, false_and, or_false]

/-- Settles O34: each request, lease command and access of Window B is charged first, which leaves the Gallery as it is, and then does
what the lemmas above say by what it finds. -/
theorem galleryCommands : Obligations.GalleryCommands := by
  unfold Obligations.GalleryCommands
  refine ⟨fun s g a => ?_, fun s mask hw => ⟨leaseAcquire_acquires hw mask, leaseRelease_releases hw mask⟩,
    fun s w r hh hw hr hf => ?_, fun s w r b0 b1 b2 b3 hh hw hr ho _ => ?_, deferredSwap_swaps⟩
  case refine_1 =>
    have q := quiet_paid s a
    have grp {x : Option GroupRec} (h : s.lo.grp g.val = x) : (s.paid a).lo.grp g.val = x := by rwa [q.lo]
    have req {b : Bool} (h : s.gal.grp[g].req = b) : (s.paid a).gal.grp[g].req = b := by rwa [q.gal]
    refine ⟨fun h => (completes_swapRequest_only (swapReq_unmapped (grp h))).imp fun _ answered => answered.1,
      fun r h => ⟨?_, ?_, ?_, ?_, ?_⟩⟩
    · exact fun foreign => completes_swapRequest_only (swapReq_foreign (grp h) foreign)
    · exact fun own direct => completes_swapRequest_only (swapReq_direct (grp h) own direct)
    · exact fun own settled cyclic => completes_swapRequest_only (swapReq_cyclic (grp h) own settled cyclic)
    · exact fun own settled asks free => completes_swapRequest_taken (swapReq_taken (grp h) own settled asks (req free))
    · exact fun own settled asks waits => completes_swapRequest_only (swapReq_pending (grp h) own settled asks (req waits))
  case refine_2 =>
    refine ⟨_, hostGalleryRead_reads hh hw hr rfl hf, ?_, by rw [(quiet_hostBeat s .gal).gal]⟩
    exact unpackedWord_octets r.signed _
  case refine_3 =>
    refine (hostGalleryWrite_writes hh hw hr ho b0 b1 b2 b3 rfl).imp fun t h => ?_
    simp only [swapsNow_iff] at h
    refine ⟨?_, fun hs => ?_, fun k hk hb => ?_⟩
    · rw [h, if_pos (.inl rfl)]; rfl
    · rw [h, if_pos (.inr ⟨hs, rfl⟩)]; rfl
    · rw [h, if_neg (not_or.mpr ⟨hk, hb⟩)]

end Sys2Proof.Machine

namespace Sys2Proof.Machine

/-! Links, bursts, diagnostics, Tally snapshots and MDIO (11 R409-R414, R436-R439, R874). A lost frame, an event and a count leave of a port
all but its transmission and its Tally; so a link's new values are read off the port's record. -/

/-! Numbers of ports and events. -/

theorem ix_of_val_eq {p : Fin 4} {q : Fin 6} (h : q.val = p.val) : ix 6 p.val = q := by
  rw [← h]
  exact Fin.ofNat_val_eq_self q

theorem evLinkChange_val (p : Fin 6) : (evLinkChange p).val = 40 + p.val := Nat.mod_eq_of_lt (by omega)
theorem evBurst_val (p : Fin 4) : (evBurst p).val = 46 + p.val := Nat.mod_eq_of_lt (by omega)

/-! Time up to an instant. -/

theorem runToCycle_cycles (s : State) (k : Nat) : (s.runToCycle k).tb.clk.cycles = max k s.tb.clk.cycles := by
  show s.tb.clk.cycles + (k - s.tb.clk.cycles) = _
  omega

/-! Counts (00 R867). -/

theorem satAdd_one {w : Nat} (c : BitVec w) : satAdd c 1 = satInc c := by
  have bound := c.isLt
  unfold satAdd satInc
  split
  · next full =>
    rw [full, BitVec.toNat_allOnes, Nat.min_eq_right (Nat.le_succ _), ← BitVec.toNat_allOnes, BitVec.ofNat_toNat, BitVec.setWidth_eq]
  · next room =>
    have below : c.toNat ≠ 2 ^ w - 1 := fun h => room (BitVec.eq_of_toNat_eq (h.trans BitVec.toNat_allOnes.symm))
    rw [Nat.min_eq_left (by omega), BitVec.ofNat_add, BitVec.ofNat_toNat, BitVec.setWidth_eq]
    rfl

section
variable (s : State) (p : Fin 6)

theorem tally_eth (i k : Nat) : (s.tally p i k).eth = (s.modPort p fun x =>
    { x with tally := { x.tally with live := vset x.tally.live (ix 64 i) (satAdd s.eth.port[p].tally.live[ix 64 i] k) } }).eth :=
  (quiet_satEvent _ _ _).eth

theorem tally_keeps_status (i k : Nat) {j : Nat} (h : s.evt.status.getLsbD j = true) :
    (s.tally p i k).evt.status.getLsbD j = true :=
  satEvent_keeps_status (s := s.modPort p _) h _ k

/-! The ports of a device in which a frame ends. -/

theorem reap_eth : s.reap.eth = s.eth := by
  have done (s : State) (f : Frame) : (s.txDone f).eth = s.eth := by
    unfold State.txDone
    split <;> rfl
  have noted (s : State) : s.bufferNote.eth = s.eth := by
    simp only [State.bufferNote]
    split
    · exact (quiet_raise _ _).eth
    · split <;> rfl
  exact (noted _).trans (foldl_keeps (π := State.eth) done _ _)

theorem greenStomp_eth (id : Nat) : (s.greenStomp id).eth = s.eth := by
  unfold State.greenStomp
  split
  · split
    · rfl
    · exact (quiet_raise _ _).eth
  · rfl

end

/-! What a port has on its line: a count leaves it as it is, a lost frame takes what it sends. -/

/-- What a port has on its line: its link, its diagnostic with the result of the last one, and what it sends. -/
structure Line where
  link : Link
  diag : Bool
  diagRes : ResultReg 24
  tx : Option TxActive

def EthPort.line (e : EthPort) : Line := ⟨e.link, e.diag, e.diagRes, e.tx⟩

section
variable (s : State) (p : Fin 6)

theorem modPort_port (f : EthPort → EthPort) : (s.modPort p f).eth.port[p] = f s.eth.port[p] := by simp

theorem tally_line (i k : Nat) : (s.tally p i k).eth.port[p].line = s.eth.port[p].line := by
  rw [tally_eth, modPort_port]
  rfl

theorem txStomped_line (f : Frame) : (s.txStomped p f).eth.port[p].line = s.eth.port[p].line := by
  rw [State.txStomped, greenStomp_eth, tally_line]

/-- A lost frame leaves its port with no transmission (R411). -/
theorem txLost_line : (s.txLost p).eth.port[p].line = { s.eth.port[p].line with tx := none } := by
  unfold State.txLost
  split
  · next idle => rw [← idle, EthPort.line]
  · next x _ =>
    extract_lets u v
    have hu : u.eth.port[p].line = { s.eth.port[p].line with tx := none } :=
      (tally_line _ p 48 1).trans (congrArg EthPort.line (modPort_port s p _))
    have hv : v.eth.port[p].line = u.eth.port[p].line := by
      clear_value u
      simp only [v]
      split
      · split
        · exact txStomped_line u p _
        · rfl
      · rfl
    clear_value u v
    have kept : (v.leave (ix 80 x.queue) x.frame).reap.eth = v.eth := reap_eth _
    exact (congrArg (fun e : Eth => e.port[p].line) kept).trans (hv.trans hu)

end

/-! Links. -/

/-- A link changes: it goes up or down, or takes another speed or duplex while up (R410). -/
def Link.moves (old k : Link) : Bool := old.up != k.up || (k.up && (old.speed != k.speed || old.full != k.full))

theorem moves_iff (old k : Link) :
    old.moves k = true ↔ old.up ≠ k.up ∨ (k.up = true ∧ (old.speed ≠ k.speed ∨ old.full ≠ k.full)) := by
  simp [Link.moves]

/-- The link that port `p` has once it takes `k`: a change is counted (R410). -/
def State.newLink (s : State) (p : Fin 6) (k : Link) : Link :=
  let old := s.eth.port[p].link
  { k with changes := if old.moves k then satInc old.changes else old.changes }

/-- A port that takes a link loses what it sends when the link falls (R410, R411). -/
theorem setLink_line (s : State) (p : Fin 6) (k : Link) : (s.setLink p k).eth.port[p].line =
    { s.eth.port[p].line with
      link := s.newLink p k, tx := if s.eth.port[p].link.up && !k.up then none else s.eth.port[p].tx } := by
  unfold State.setLink
  extract_lets old moved u v
  have hu : u.eth.port[p].line = { s.eth.port[p].line with link := s.newLink p k } := by
    rw [modPort_port]
    rfl
  rw [(quiet_raiseIf v moved _).eth]
  by_cases falls : (old.up && !k.up) = true
  · rw [show v = (u.tally p 53 1).txLost p from if_pos falls, txLost_line, tally_line, hu, if_pos falls]
  · rw [show v = u from if_neg falls, hu, if_neg falls]
    rfl

theorem setLink_link (s : State) (p : Fin 6) (k : Link) : (s.setLink p k).eth.port[p].link = s.newLink p k :=
  congrArg Line.link (setLink_line s p k)

theorem setLink_idle {s : State} {p : Fin 6} {k : Link} (up : s.eth.port[p].link.up = true) (falls : k.up = false) :
    (s.setLink p k).eth.port[p].tx = none :=
  (congrArg Line.tx (setLink_line s p k)).trans (if_pos (by rw [up, falls]; rfl))

theorem setLink_raises {s : State} {p : Fin 6} {k : Link} (h : s.eth.port[p].link.moves k = true) :
    (s.setLink p k).evt.status.getLsbD (40 + p.val) = true := by
  unfold State.setLink
  extract_lets old moved u v
  rw [State.raiseIf, if_pos (show moved = true from h), ← evLinkChange_val]
  exact raise_status v _

/-- A link procedure that starts again leaves the port's link down and its diagnostic as it was (R874). -/
theorem linkRestart_line (s : State) (p : Fin 6) : (s.linkRestart p).eth.port[p].line =
    let k : Link := { s.eth.port[p].link with up := false, anDone := false, noHcd := false }
    { s.eth.port[p].line with link := s.newLink p k, tx := if s.eth.port[p].link.up then none else s.eth.port[p].tx } := by
  rw [State.linkRestart, setLink_line, Bool.not_false, Bool.and_true]

section
variable (L : Layout) (p : Nat) (k : Link)

theorem offersMode_half {speed : BitVec 3} (h : L.offersMode p speed false = true) : L.portIf p = 1 ∧ L.allowHalf p = true := by
  unfold Layout.offersMode at h
  split at h
  · next one =>
    rw [Bool.and_eq_true, Bool.false_or] at h
    exact ⟨one, h.2⟩
  · simp at h
  · simp at h

section
variable {L p}

/-- A forced port, or one of interface 4, runs at its own speed and duplex, without negotiation (R409). -/
theorem linkMode_forced (h : L.portSpeed p ≠ 0 ∨ L.portIf p = 4) : L.linkMode p k =
    { k with speed := if L.portIf p = 4 then 4 else BitVec.ofNat 3 (L.portSpeed p), full := !(L.portIf p == 1 && L.allowHalf p),
             anDone := false, noHcd := false } := if_pos h

/-- Any other takes the mode found, up only where its layout offers it (R409). -/
theorem linkMode_negotiated (h : ¬(L.portSpeed p ≠ 0 ∨ L.portIf p = 4)) : L.linkMode p k =
    { k with up := k.up && !k.noHcd && L.offersMode p k.speed k.full,
             noHcd := k.noHcd || (k.up && !L.offersMode p k.speed k.full) } := by
  obtain ⟨changes, noHcd, anDone, mdix, full, speed, up⟩ := k
  rw [Layout.linkMode, if_neg h]
  cases noHcd with
  | true => simp
  | false =>
    cases up with
    | false => rfl
    | true => cases L.offersMode p speed full <;> rfl

end

theorem linkMode_mdix : (L.linkMode p k).mdix = k.mdix := by
  by_cases forced : L.portSpeed p ≠ 0 ∨ L.portIf p = 4
  · rw [linkMode_forced k forced]
  · rw [linkMode_negotiated k forced]

theorem linkMode_down (h : k.up = false) : (L.linkMode p k).up = false := by
  by_cases forced : L.portSpeed p ≠ 0 ∨ L.portIf p = 4
  · rw [linkMode_forced k forced, h]
  · rw [linkMode_negotiated k forced, h]
    rfl

/-- A link that is up in half duplex is one of a port that allows it (R409). -/
theorem linkMode_half (hf : (L.linkMode p k).full = false) (hu : (L.linkMode p k).up = true) :
    L.portIf p = 1 ∧ L.allowHalf p = true := by
  by_cases forced : L.portSpeed p ≠ 0 ∨ L.portIf p = 4
  · rw [linkMode_forced k forced] at hf
    simpa using hf
  · rw [linkMode_negotiated k forced] at hf hu
    rw [Bool.and_eq_true, show k.full = false from hf] at hu
    exact offersMode_half L p hu.2

end

theorem exec_linkStateChange {s : State} {p : Fin 6} (hp : s.lo.portIf p.val ≠ 0) (hi : s.islandOn (40 + p.val) = true)
    {up : Bool} (hd : up = true → s.eth.port[p].diag = false) (full : Bool) (speed : BitVec 3) (mdix anDone noHcd : Bool) :
    exec (.linkStateChange p up full speed mdix anDone noHcd) s = .next (s.setLink p (s.lo.linkMode p.val { s.eth.port[p].link with
      up := up, full := full, speed := speed, mdix := mdix, anDone := anDone, noHcd := noHcd })) := by
  refine if_neg ?_
  rintro (disabled | off | ⟨rising, busy⟩)
  · exact hp disabled
  · simp [hi] at off
  · rw [hd rising] at busy
    cases busy

/-! Bursts and the end of their freeze (R412, R413). -/

/-- Port `q` starts no preamble for 2 ms from now on (R412). -/
def State.frozen (s : State) (q : Fin 6) : State := s.modPort q fun e => { e with freeze := some (s.tb.clk.cycles + 1000000) }

theorem burstDetected_freezes {s : State} {p : Fin 4} {q : Fin 6} (hq : q.val = p.val) (hi : s.lo.portIf q.val = 1)
    (on : s.islandOn (36 + p.val) = true) : Completes (.burstDetected p) s (fun t =>
      t.eth.port[q].freeze = some (s.tb.clk.cycles + 1000000) ∧
      (s.eth.port[q].freeze = none → t.evt.status.getLsbD (46 + p.val) = true ∧
        t.eth.port[q].tally.live[(52 : Fin 64)] = satInc s.eth.port[q].tally.live[(52 : Fin 64)])) := by
  rw [hq] at hi
  have heard : ¬(s.lo.portIf p.val ≠ 1 ∨ (!s.islandOn (36 + p.val)) = true) := by simp [hi, on]
  have hx : exec (.burstDetected p) s = .next
      (if s.eth.port[q].freeze.isNone then ((s.frozen q).raise (evBurst p)).tally q 52 1 else s.frozen q) := by
    obtain rfl := ix_of_val_eq hq
    exact if_neg heard
  have port : (s.frozen q).eth.port[q] = { s.eth.port[q] with freeze := some (s.tb.clk.cycles + 1000000) } := modPort_port s q _
  have kept := (quiet_raise (s.frozen q) (evBurst p)).eth
  by_cases fresh : s.eth.port[q].freeze.isNone = true
  · rw [if_pos fresh] at hx
    refine ⟨_, hx, ?_, fun _ => ⟨?_, ?_⟩⟩
    · rw [tally_eth, modPort_port, kept, port]
    · rw [← evBurst_val]
      exact tally_keeps_status _ _ _ _ (raise_status _ _)
    · rw [tally_eth, modPort_port, kept, port]
      exact (vset_getElem ..).trans ((if_pos rfl).trans (satAdd_one _))
  · rw [if_neg fresh] at hx
    exact ⟨_, hx, by rw [port], fun thawed => absurd (by rw [thawed]; rfl) fresh⟩

theorem freezeEnd_thaws {s : State} {p : Fin 4} {q : Fin 6} (hq : q.val = p.val) {k : Nat} (hk : s.eth.port[q].freeze = some k)
    (due : s.Before k) : Completes (.freezeEnd p) s (fun t =>
      t.eth.port[q].freeze = none ∧ t.tb.clk.cycles = max k s.tb.clk.cycles) := by
  have hx : exec (.freezeEnd p) s = .next ((s.runToCycle k).modPort q fun e => { e with freeze := none }) := by
    show execFreezeEnd p s = _
    simp only [execFreezeEnd, ix_of_val_eq hq, hk, whenAt_of_before _ due]
  exact ⟨_, hx, by simp, runToCycle_cycles s k⟩

/-! Diagnostics (R414, R874). -/

/-- The diagnostic of port `q` has ended with the result `r`. -/
def State.diagnosed (s : State) (q : Fin 6) (r : BitVec 24) : State :=
  s.modPort q fun e => { e with diag := false, diagRes := { data := r, valid := true, rep := false } }

theorem diagComplete_answers {s : State} {p : Fin 4} {q : Fin 6} (hq : q.val = p.val) (r : BitVec 24) (hd : s.eth.port[q].diag = true) :
    Completes (.diagComplete p r) s (fun t =>
      t.eth.port[q].diag = false ∧ t.eth.port[q].diagRes = { data := r, valid := true, rep := false } ∧ t.eth.port[q].link.up = false) := by
  have hx : exec (.diagComplete p r) s = .next ((s.diagnosed q r).linkRestart q) := by
    show execDiagComplete p r s = _
    simp only [execDiagComplete, ix_of_val_eq hq, hd, if_true]
    rfl
  have line := linkRestart_line (s.diagnosed q r) q
  have port : (s.diagnosed q r).eth.port[q] = { s.eth.port[q] with diag := false, diagRes := ⟨r, true, false⟩ } := modPort_port s q _
  rw [port] at line
  exact ⟨_, hx, congrArg Line.diag line, congrArg Line.diagRes line, congrArg (·.link.up) line⟩

/-! Commands of an agent: its access is paid first, which leaves the ports and the Landing as they are. -/

/-- An agent's command that reaches its block does its work on the state in which it is paid. -/
theorem completes_paid {c : Instr} {s : State} {a : Agent} {f : State → State} {Q : State → Prop} (hr : s.reaches a = true)
    (hx : exec c s = .next (if (s.paid a).reaches a then f (s.paid a) else s.paid a)) (hq : ∀ u, Quiet s u → Q (f u)) :
    Completes c s Q := by
  have q := quiet_paid s a
  rw [q.reaches, if_pos hr] at hx
  exact ⟨_, hx, hq _ q⟩

section
variable {s : State} {a : Agent} (hr : s.reaches a = true)
include hr

theorem diagStart_starts (p : Fin 6) : Completes (.diagStart a p) s (fun t => t.eth.port[p].diagRes.valid = false ∧
    t.eth.port[p].diag = (s.eth.port[p].diag ||
      (decide (p.val < 4) && (!s.eth.port[p].link.up || decide (s.lo.portIf p.val = 0)) && s.islandOn (36 + p.val)))) := by
  refine completes_paid hr rfl fun u q => ?_
  rw [← q.eth, ← q.lo, ← q.islandOn]
  unfold State.diagStart
  extract_lets e v
  have lo : v.lo = u.lo := rfl
  have on : v.islandOn (36 + p.val) = u.islandOn (36 + p.val) := rfl
  split
  · next starts =>
    obtain ⟨phy, _, idle, powered⟩ := starts
    rw [lo] at idle
    rw [on] at powered
    have idle : (!u.eth.port[p].link.up || decide (u.lo.portIf p.val = 0)) = true := by simpa [e] using idle
    rw [idle, powered, decide_eq_true phy]
    simp [v]
  · next refused =>
    rw [lo, on] at refused
    refine ⟨by simp [v], ?_⟩
    have same : v.eth.port[p].diag = e.diag := by simp [v, e]
    rw [same]
    simp only [e] at refused ⊢
    cases busy : u.eth.port[p].diag with
    | false => simpa [-Fin.getElem_fin, busy] using refused
    | true => rfl

theorem anRestart_restarts (p : Fin 6) : Completes (.anRestart a p) s (fun t =>
    t.eth.port[p].link.up = false ∧ t.eth.port[p].link.anDone = false ∧
    t.eth.port[p].link.changes = if s.eth.port[p].link.up then satInc s.eth.port[p].link.changes else s.eth.port[p].link.changes) := by
  refine completes_paid hr rfl fun u q => ?_
  have link := congrArg Line.link (linkRestart_line u p)
  refine ⟨congrArg Link.up link, congrArg Link.anDone link, (congrArg Link.changes link).trans ?_⟩
  simp [State.newLink, Link.moves, q.eth]

theorem tallySnapshot_copies (clr : Bool) : Completes (.tallySnapshot a clr) s (fun t =>
    (∀ (p : Fin 6) (i : Fin 64), t.eth.port[p].tally.snap[i] = s.eth.port[p].tally.live[i] ∧
      t.eth.port[p].tally.live[i] = if clr then 0 else s.eth.port[p].tally.live[i]) ∧
    (∀ i : Fin 64, t.lnd.tally.snap[i] = s.lnd.tally.live[i] ∧ t.lnd.tally.live[i] = if clr then 0 else s.lnd.tally.live[i]) ∧
    t.eth.snapStroke = s.tb.stroke.count.setWidth 20 ∧ t.evt.status.getLsbD 59 = true) := by
  have live (x : Tally) (i : Fin 64) : (x.snapshot clr).live[i] = if clr then 0 else x.live[i] := by
    cases clr <;> simp [Tally.snapshot]
  refine completes_paid hr rfl fun u q => ?_
  unfold State.snapTally
  extract_lets v w
  have raised := quiet_raise w evSnapshotDone
  rw [raised.eth, raised.lnd, ← q.eth, ← q.lnd, ← q.tb]
  refine ⟨fun p i => ?_, fun i => ⟨rfl, live _ i⟩, ?_, raise_status w _⟩
  · have port : w.eth.port[p] = { u.eth.port[p] with tally := u.eth.port[p].tally.snapshot clr } := by simp [w, v]
    rw [port]
    exact ⟨rfl, live _ i⟩
  · show (u.tb.stroke.count >>> 0).setWidth 20 = _
    rw [BitVec.ushiftRight_zero]

theorem mdioCommand_starts {cmd : BitVec 30} (h : s.eth.mdio.running = none) :
    Completes (.mdioCommand a cmd) s (fun t => t.eth.mdio = { s.eth.mdio with running := some cmd }) := by
  refine completes_paid hr rfl fun u q => ?_
  rw [← q.eth] at h ⊢
  simp only [State.mdioStart, modEth_eth, h]

theorem mdioCommand_refused {cmd : BitVec 30} (h : s.eth.mdio.running.isSome = true) :
    Completes (.mdioCommand a cmd) s (fun t => t.eth.mdio = { s.eth.mdio with refused := satInc s.eth.mdio.refused }) := by
  refine completes_paid hr rfl fun u q => ?_
  obtain ⟨running, h⟩ := Option.isSome_iff_exists.mp h
  rw [← q.eth] at h ⊢
  simp only [State.mdioStart, modEth_eth, h]

end

/-! The end of an MDIO transaction (R439). -/

theorem mdioReads_eq (cmd : BitVec 30) : mdioReads cmd =
    decide (if cmd.toNat / 2 ^ 28 = 1 then 2 ≤ cmd.toNat / 2 ^ 26 % 4 else cmd.toNat / 2 ^ 26 % 4 = 2) := by
  have st : fldN cmd 28 2 = cmd.toNat / 2 ^ 28 := by
    have bound := cmd.isLt
    simp only [fldN, fld, BitVec.toNat_setWidth, BitVec.toNat_ushiftRight, Nat.shiftRight_eq_div_pow]
    omega
  have op : fldN cmd 26 2 = cmd.toNat / 2 ^ 26 % 4 := by
    simp only [fldN, fld, BitVec.toNat_setWidth, BitVec.toNat_ushiftRight, Nat.shiftRight_eq_div_pow]
  simp only [mdioReads, st, op]
  split
  · rfl
  · exact Bool.eq_iff_iff.mpr (by rw [beq_iff_eq, decide_eq_true_eq])

/-- The transaction `cmd` has ended; of `d`, a read alone leaves a result. -/
def State.mdioEnded (s : State) (cmd : BitVec 30) (d : BitVec 16) : State := s.modEth fun e =>
  { e with mdio := { e.mdio with running := none, res := { data := if mdioReads cmd then d else 0, valid := true, rep := false } } }

theorem mdioComplete_answers {s : State} {cmd : BitVec 30} (d : BitVec 16) (h : s.eth.mdio.running = some cmd) :
    Completes (.mdioComplete d) s (fun t =>
      t.eth.mdio.running = none ∧ t.eth.mdio.res = { data := if mdioReads cmd then d else 0, valid := true, rep := false } ∧
      t.evt.status.getLsbD 51 = true) := by
  have hx : exec (.mdioComplete d) s = .next ((s.mdioEnded cmd d).raise evMdioDone) := by
    show execMdioComplete d s = _
    simp only [execMdioComplete, h]
    rfl
  have eth := (quiet_raise (s.mdioEnded cmd d) evMdioDone).eth
  exact ⟨_, hx, congrArg (·.mdio.running) eth, congrArg (·.mdio.res) eth, raise_status _ evMdioDone⟩

/-- Settles O38: a link takes what the link procedure comes to, by a port that is forced or negotiates, and `setLink` counts and raises the change
and loses the frame of a link that falls; each other command is one of the lemmas above. -/
theorem portCommands : Obligations.PortCommands := by
  unfold Obligations.PortCommands
  refine ⟨fun s p hp hi => ?_, fun s p q hq => ⟨fun h on => burstDetected_freezes hq h on, fun k hk due => freezeEnd_thaws hq hk due,
    fun r hd => diagComplete_answers hq r hd⟩, fun s a hr => ⟨fun p => ⟨diagStart_starts hr p, anRestart_restarts hr p⟩,
    tallySnapshot_copies hr, fun cmd => ⟨mdioCommand_starts hr, mdioCommand_refused hr⟩⟩, fun s cmd d h => ?_⟩
  case refine_1 =>
    intro k v up full speed mdix anDone noHcd hd moved
    refine ⟨_, exec_linkStateChange hp hi hd full speed mdix anDone noHcd, ?_⟩
    simp only [setLink_link, State.newLink]
    refine ⟨⟨fun h => ?_, fun h => if_neg fun moves => h ((moves_iff ..).mp moves)⟩, linkMode_mdix .., fun falls => ?_,
      fun off => linkMode_down _ _ _ off, linkMode_half _ _ _, fun hf hv => ?_, fun hf hv => ?_⟩
    · have moves := (moves_iff ..).mpr h
      exact ⟨if_pos moves, setLink_raises moves⟩
    · rcases Bool.eq_false_or_eq_true k.up with stood | down
      · exact .inl (setLink_idle stood falls)
      · exact .inr down
    · rw [linkMode_negotiated _ (not_or.mpr ⟨not_not_intro hv, hf⟩)]
      refine ⟨rfl, rfl, rfl, fun noMode => ?_, fun found => ?_⟩
      · simp [noMode]
      · simp [found]
    · rw [linkMode_forced _ (.inl hv)]
      exact ⟨rfl, if_neg hf, rfl, rfl⟩
  case refine_2 =>
    refine (mdioComplete_answers d h).imp fun t answered => ?_
    simpa only [mdioReads_eq, decide_eq_true_eq] using answered

end Sys2Proof.Machine

namespace Sys2Proof.Machine

/-! A flush of the Offcut table that a held first fragment fills again (13 R506, R509, R511). The flush lets every held frame go on, and one
whose GOOD verdict has come does then what that verdict does in the tables; for a first fragment that is the write of its entry. The
device holds later fragments alone (R509), but no premise of the statement says so of the state that it starts from. -/

/-- The first fragment of a datagram. -/
def firstFragment : Graded :=
  { key := Vector.replicate 16 0, endc := 0, rule := none, frag := .first, okey := OfcKey.zero, more := true }

/-- Frame 5 of port 0, graded as a first fragment: it waits for frame 4's verdict, its own GOOD verdict has come. -/
def heldFirst : Frame :=
  { Frame.blank 5 0 (List.replicate 60 0x5A) with
    chain := [0], arrived := 30, eof := true, rxLen := 64, graded := some firstFragment, wait := .fragment 4,
    verdict := some 0x80001, uncounted := true }

/-- A powered device whose Landing stores that frame; its Offcut table is empty, with no record pending. -/
def heldFirstDevice : State :=
  { State.reset with
    pwr := { State.reset.pwr with held := none, islOn := BitVec.allOnes 56 }
    lnd := { State.reset.lnd with frames := [heldFirst], nextId := 6 } }

/-- The flush leaves that datagram's entry in the table. -/
theorem offcutFlush_heldFirst :
    ∃ t, exec (.offcutFlush .warden) heldFirstDevice = .next t ∧
      (t.grd.ofc[(0 : Fin 64)]).map (·.key) = some OfcKey.zero := ⟨_, rfl, by decide +kernel⟩

/-- Refutes O39: its clause on OFC_CTRL.FLUSH says of every state that the table is empty behind the flush. Where a first fragment is among
the held frames, its GOOD verdict writes its entry into the table just flushed. -/
theorem not_tableUpkeep : ¬ Obligations.TableUpkeep := by
  unfold Obligations.TableUpkeep
  intro h
  obtain ⟨-, agent, -⟩ := h
  obtain ⟨-, flush, -⟩ := agent heldFirstDevice .warden (by decide)
  obtain ⟨t, ht, -, empty⟩ := flush
  obtain ⟨u, hu, written⟩ := offcutFlush_heldFirst
  obtain rfl : t = u := Host.Outcome.next.inj (ht.symm.trans hu)
  rw [empty 0] at written
  cases written

end Sys2Proof.Machine
